-- ==== Sys2Proof/Word.lean ====
section
/-!
DEFINITION. The 64-bit word, the byte, and the names of the units of a module (R8): package, die, cell and hart.
-/
namespace Sys2Proof

/-- A 64-bit scalar register, address or CSR value (R9). -/
abbrev Word := BitVec 64

/-- A byte of memory. -/
abbrev Byte := BitVec 8

/-- A die of a package: package 0 to 63, die 0 to 15 (R8). -/
structure DieId where
  pkg : Nat
  die : Nat
  deriving DecidableEq, Repr

/-- A cell: package, die, cell 0 to 143 (R8). Cell 255 names the front end of the die, whose one copy channel is held
like a cell's (R250); R8 gives that number to no cell. -/
structure CellId where
  pkg : Nat
  die : Nat
  cell : Nat
  deriving DecidableEq, Repr

/-- A hart: package, die, cell and hart 0 to 23 (R8). -/
structure HartId where
  pkg : Nat
  die : Nat
  cell : Nat
  hart : Nat
  deriving DecidableEq, Repr

/-- The cell a hart stands in. -/
def HartId.cellId (h : HartId) : CellId := ⟨h.pkg, h.die, h.cell⟩

/-- The die a cell stands on. -/
def CellId.dieId (c : CellId) : DieId := ⟨c.pkg, c.die⟩

/-- The die a hart stands on. -/
def HartId.dieId (h : HartId) : DieId := ⟨h.pkg, h.die⟩

/-- Hart `n` of a cell. -/
def CellId.hart (c : CellId) (n : Nat) : HartId := ⟨c.pkg, c.die, c.cell, n⟩

/-- Cell `n` of a die. -/
def DieId.cell (d : DieId) (n : Nat) : CellId := ⟨d.pkg, d.die, n⟩

/-- The names R8 gives: package below 64, die below 16. -/
abbrev DieId.Valid (d : DieId) : Prop := d.pkg < 64 ∧ d.die < 16

/-- A cell of R8: its die is one, and the cell number is below 144. -/
abbrev CellId.Valid (c : CellId) : Prop := c.pkg < 64 ∧ c.die < 16 ∧ c.cell < 144

/-- A cell of R8, or the front end of a die, which is held as cell 255. -/
abbrev CellId.ValidOrFront (c : CellId) : Prop := c.pkg < 64 ∧ c.die < 16 ∧ (c.cell < 144 ∨ c.cell = 255)

/-- A hart of R8. -/
abbrev HartId.Valid (h : HartId) : Prop := h.pkg < 64 ∧ h.die < 16 ∧ h.cell < 144 ∧ h.hart < 24

end Sys2Proof
end

