-- ==== Sys2Proof/Syntax.lean ====
section
/-!
DEFINITION. The instructions: one constructor per row of the opcode table. The first 222 are instruction words
(R45 to R54, R69, R94, R126, R160); the last 107 are the device's other indivisible steps, which have no word. Fields of a
word are held as the numbers read from it (an immediate as its raw bits, assembled for the B and J formats); WellFormed
says which values a word can hold. A step without a word names the unit it happens at; `id` names an operation in flight.
-/
namespace Sys2Proof

/-- One row of the opcode table. -/
inductive Instr where
  /-- LUI (R54). -/
  | lui (rd imm : Nat)
  /-- AUIPC (R54). -/
  | auipc (rd imm : Nat)
  /-- JAL (R54). -/
  | jal (rd off : Nat)
  /-- JALR (R54). -/
  | jalr (rd rs1 imm : Nat)
  /-- BEQ (R54). -/
  | beq (rs1 rs2 off : Nat)
  /-- BNE (R54). -/
  | bne (rs1 rs2 off : Nat)
  /-- BLT (R54). -/
  | blt (rs1 rs2 off : Nat)
  /-- BGE (R54). -/
  | bge (rs1 rs2 off : Nat)
  /-- BLTU (R54). -/
  | bltu (rs1 rs2 off : Nat)
  /-- BGEU (R54). -/
  | bgeu (rs1 rs2 off : Nat)
  /-- LB (R56). -/
  | lb (rd rs1 imm : Nat)
  /-- LH (R56). -/
  | lh (rd rs1 imm : Nat)
  /-- LW (R56). -/
  | lw (rd rs1 imm : Nat)
  /-- LD (R56). -/
  | ld (rd rs1 imm : Nat)
  /-- LBU (R56). -/
  | lbu (rd rs1 imm : Nat)
  /-- LHU (R56). -/
  | lhu (rd rs1 imm : Nat)
  /-- LWU (R56). -/
  | lwu (rd rs1 imm : Nat)
  /-- SB (R56). -/
  | sb (rs1 rs2 imm : Nat)
  /-- SH (R56). -/
  | sh (rs1 rs2 imm : Nat)
  /-- SW (R56). -/
  | sw (rs1 rs2 imm : Nat)
  /-- SD (R56). -/
  | sd (rs1 rs2 imm : Nat)
  /-- ADDI (R54). -/
  | addi (rd rs1 imm : Nat)
  /-- SLTI (R54). -/
  | slti (rd rs1 imm : Nat)
  /-- SLTIU (R54). -/
  | sltiu (rd rs1 imm : Nat)
  /-- XORI (R54). -/
  | xori (rd rs1 imm : Nat)
  /-- ORI (R54). -/
  | ori (rd rs1 imm : Nat)
  /-- ANDI (R54). -/
  | andi (rd rs1 imm : Nat)
  /-- SLLI (R54). -/
  | slli (rd rs1 amt : Nat)
  /-- SRLI (R54). -/
  | srli (rd rs1 amt : Nat)
  /-- SRAI (R54). -/
  | srai (rd rs1 amt : Nat)
  /-- ADD (R54). -/
  | add (rd rs1 rs2 : Nat)
  /-- SUB (R54). -/
  | sub (rd rs1 rs2 : Nat)
  /-- SLL (R54). -/
  | sll (rd rs1 rs2 : Nat)
  /-- SLT (R54). -/
  | slt (rd rs1 rs2 : Nat)
  /-- SLTU (R54). -/
  | sltu (rd rs1 rs2 : Nat)
  /-- XOR (R54). -/
  | xor (rd rs1 rs2 : Nat)
  /-- SRL (R54). -/
  | srl (rd rs1 rs2 : Nat)
  /-- SRA (R54). -/
  | sra (rd rs1 rs2 : Nat)
  /-- OR (R54). -/
  | or (rd rs1 rs2 : Nat)
  /-- AND (R54). -/
  | and (rd rs1 rs2 : Nat)
  /-- FENCE (R57). -/
  | fence (fm pred succ rs1 rd : Nat)
  /-- FENCE_I (R66). -/
  | fenceI (imm rs1 rd : Nat)
  /-- ECALL (R61). -/
  | ecall
  /-- EBREAK (R61). -/
  | ebreak
  /-- ADDIW (R54). -/
  | addiw (rd rs1 imm : Nat)
  /-- SLLIW (R54). -/
  | slliw (rd rs1 amt : Nat)
  /-- SRLIW (R54). -/
  | srliw (rd rs1 amt : Nat)
  /-- SRAIW (R54). -/
  | sraiw (rd rs1 amt : Nat)
  /-- ADDW (R54). -/
  | addw (rd rs1 rs2 : Nat)
  /-- SUBW (R54). -/
  | subw (rd rs1 rs2 : Nat)
  /-- SLLW (R54). -/
  | sllw (rd rs1 rs2 : Nat)
  /-- SRLW (R54). -/
  | srlw (rd rs1 rs2 : Nat)
  /-- SRAW (R54). -/
  | sraw (rd rs1 rs2 : Nat)
  /-- MUL (R54). -/
  | mul (rd rs1 rs2 : Nat)
  /-- MULH (R54). -/
  | mulh (rd rs1 rs2 : Nat)
  /-- MULHSU (R54). -/
  | mulhsu (rd rs1 rs2 : Nat)
  /-- MULHU (R54). -/
  | mulhu (rd rs1 rs2 : Nat)
  /-- DIV (R55). -/
  | div (rd rs1 rs2 : Nat)
  /-- DIVU (R55). -/
  | divu (rd rs1 rs2 : Nat)
  /-- REM (R55). -/
  | rem (rd rs1 rs2 : Nat)
  /-- REMU (R55). -/
  | remu (rd rs1 rs2 : Nat)
  /-- MULW (R54). -/
  | mulw (rd rs1 rs2 : Nat)
  /-- DIVW (R55). -/
  | divw (rd rs1 rs2 : Nat)
  /-- DIVUW (R55). -/
  | divuw (rd rs1 rs2 : Nat)
  /-- REMW (R55). -/
  | remw (rd rs1 rs2 : Nat)
  /-- REMUW (R55). -/
  | remuw (rd rs1 rs2 : Nat)
  /-- LR_W (R59). -/
  | lrW (aq rl rd rs1 : Nat)
  /-- LR_D (R59). -/
  | lrD (aq rl rd rs1 : Nat)
  /-- SC_W (R59). -/
  | scW (aq rl rd rs1 rs2 : Nat)
  /-- SC_D (R59). -/
  | scD (aq rl rd rs1 rs2 : Nat)
  /-- AMOSWAP_W (R60). -/
  | amoswapW (aq rl rd rs1 rs2 : Nat)
  /-- AMOSWAP_D (R60). -/
  | amoswapD (aq rl rd rs1 rs2 : Nat)
  /-- AMOADD_W (R60). -/
  | amoaddW (aq rl rd rs1 rs2 : Nat)
  /-- AMOADD_D (R60). -/
  | amoaddD (aq rl rd rs1 rs2 : Nat)
  /-- AMOXOR_W (R60). -/
  | amoxorW (aq rl rd rs1 rs2 : Nat)
  /-- AMOXOR_D (R60). -/
  | amoxorD (aq rl rd rs1 rs2 : Nat)
  /-- AMOAND_W (R60). -/
  | amoandW (aq rl rd rs1 rs2 : Nat)
  /-- AMOAND_D (R60). -/
  | amoandD (aq rl rd rs1 rs2 : Nat)
  /-- AMOOR_W (R60). -/
  | amoorW (aq rl rd rs1 rs2 : Nat)
  /-- AMOOR_D (R60). -/
  | amoorD (aq rl rd rs1 rs2 : Nat)
  /-- AMOMIN_W (R60). -/
  | amominW (aq rl rd rs1 rs2 : Nat)
  /-- AMOMIN_D (R60). -/
  | amominD (aq rl rd rs1 rs2 : Nat)
  /-- AMOMAX_W (R60). -/
  | amomaxW (aq rl rd rs1 rs2 : Nat)
  /-- AMOMAX_D (R60). -/
  | amomaxD (aq rl rd rs1 rs2 : Nat)
  /-- AMOMINU_W (R60). -/
  | amominuW (aq rl rd rs1 rs2 : Nat)
  /-- AMOMINU_D (R60). -/
  | amominuD (aq rl rd rs1 rs2 : Nat)
  /-- AMOMAXU_W (R60). -/
  | amomaxuW (aq rl rd rs1 rs2 : Nat)
  /-- AMOMAXU_D (R60). -/
  | amomaxuD (aq rl rd rs1 rs2 : Nat)
  /-- CSRRW (R65). -/
  | csrrw (rd csr rs1 : Nat)
  /-- CSRRS (R65). -/
  | csrrs (rd csr rs1 : Nat)
  /-- CSRRC (R65). -/
  | csrrc (rd csr rs1 : Nat)
  /-- CSRRWI (R65). -/
  | csrrwi (rd csr uimm : Nat)
  /-- CSRRSI (R65). -/
  | csrrsi (rd csr uimm : Nat)
  /-- CSRRCI (R65). -/
  | csrrci (rd csr uimm : Nat)
  /-- MRET (R62). -/
  | mret
  /-- WFI (R64). -/
  | wfi
  /-- BGET (R103). -/
  | bget (hd hs : Nat)
  /-- BGETQ (R103). -/
  | bgetq (hd hs : Nat)
  /-- BPUT (R104). -/
  | bput (hd hs : Nat)
  /-- BCLR (R105). -/
  | bclr (rd hs : Nat)
  /-- BPOIS (R105). -/
  | bpois (rd hs : Nat)
  /-- BSTAT (R106). -/
  | bstat (rd hs : Nat)
  /-- BWAIT (R108). -/
  | bwait (hs : Nat)
  /-- BTEST (R107). -/
  | btest (rd hs : Nat)
  /-- BREL (R109). -/
  | brel (hs : Nat)
  /-- BOPEN (R110). -/
  | bopen (hs : Nat)
  /-- BSTW (R110). -/
  | bstw (hs rs1 rs2 : Nat)
  /-- BSEAL (R110). -/
  | bseal (hs : Nat)
  /-- BLDW (R110). -/
  | bldw (rd hs rs2 : Nat)
  /-- HLD (R111). -/
  | hld (hd rs1 : Nat)
  /-- HST (R111). -/
  | hst (hs rs1 : Nat)
  /-- HMOV (R112). -/
  | hmov (hd hs : Nat)
  /-- HADV (R112). -/
  | hadv (hd rs1 : Nat)
  /-- HGINC (R112). -/
  | hginc (hd : Nat)
  /-- HSUB (R112). -/
  | hsub (hd hs rs2 : Nat)
  /-- HGETF (R113). -/
  | hgetf (rd hs sel : Nat)
  /-- HSETF (R113). -/
  | hsetf (hd rs1 sel : Nat)
  /-- LDQ (R116). -/
  | ldq (w sz off rs1 rd : Nat)
  /-- STP (R114). -/
  | stp (w sz off rs1 rs : Nat)
  /-- INVR (R119). -/
  | invr (rs1 rs2 : Nat)
  /-- INVA (R119). -/
  | inva
  /-- YLD (R120). -/
  | yld (rs1 rs2 : Nat)
  /-- OWNQ (R121). -/
  | ownq (rd rs1 : Nat)
  /-- CNTW (R118). -/
  | cntw (cls : Nat)
  /-- CNTR (R118). -/
  | cntr (rd cls : Nat)
  /-- FACQ (R122). -/
  | facq (scope rs1 : Nat)
  /-- FREL (R122). -/
  | frel (scope rs1 : Nat)
  /-- FAR (R122). -/
  | far (scope rs1 : Nat)
  /-- RLQ (R124). -/
  | rlq (rd rs1 : Nat)
  /-- STPA (R115). -/
  | stpa (rs1 rs2 : Nat)
  /-- MMA (R132). -/
  | mma (acc ha hb : Nat)
  /-- MMAZ (R132). -/
  | mmaz (acc ha hb : Nat)
  /-- MMAV (R134). -/
  | mmav (acc ha hb : Nat)
  /-- MMAVZ (R134). -/
  | mmavz (acc ha hb : Nat)
  /-- MDRN (R135). -/
  | mdrn (hd acc hs2 : Nat)
  /-- MMRG (R140). -/
  | mmrg (acc hs : Nat)
  /-- ACLR (R141). -/
  | aclr (acc : Nat)
  /-- ASTAT (R141). -/
  | astat (rd acc : Nat)
  /-- MMSEND (R142). -/
  | mmsend (rs1 rs2 : Nat)
  /-- VADD (R146). -/
  | vadd (hd ha hb : Nat)
  /-- VSUB (R146). -/
  | vsub (hd ha hb : Nat)
  /-- VMUL (R146). -/
  | vmul (hd ha hb : Nat)
  /-- VFMA (R146). -/
  | vfma (hd ha hb : Nat)
  /-- VMAX (R146). -/
  | vmax (hd ha hb : Nat)
  /-- VMIN (R146). -/
  | vmin (hd ha hb : Nat)
  /-- VSCL (R146). -/
  | vscl (hd ha rs2 : Nat)
  /-- VAXPY (R146). -/
  | vaxpy (hd ha hb : Nat)
  /-- VFILL (R146). -/
  | vfill (hd rs1 : Nat)
  /-- VCOPY (R146). -/
  | vcopy (hd ha : Nat)
  /-- VEXP2 (R146). -/
  | vexp2 (hd ha : Nat)
  /-- VRCP (R146). -/
  | vrcp (hd ha : Nat)
  /-- VRSQ (R146). -/
  | vrsq (hd ha : Nat)
  /-- VCMPLT (R149). -/
  | vcmplt (rs ha hb : Nat)
  /-- VCMPEQ (R149). -/
  | vcmpeq (rs ha hb : Nat)
  /-- VSEL (R146). -/
  | vsel (hd ha hb : Nat)
  /-- VREDS (R147). -/
  | vreds (hd ha : Nat)
  /-- VREDM (R147). -/
  | vredm (hd ha : Nat)
  /-- VARGM (R147). -/
  | vargm (hd ha : Nat)
  /-- VERRS (R148). -/
  | verrs (hd ha hb : Nat)
  /-- VTRN (R150). -/
  | vtrn (hd ha : Nat)
  /-- VCVT (R150). -/
  | vcvt (hd ha : Nat)
  /-- CVALA (R152). -/
  | cvala (hd hs hs2 : Nat)
  /-- CVALB (R152). -/
  | cvalb (hd hs hs2 : Nat)
  /-- CVQMX (R153). -/
  | cvqmx (hd hs hs2 : Nat)
  /-- CVDQ (R153). -/
  | cvdq (hd hs hs2 : Nat)
  /-- CVI8 (R154). -/
  | cvi8 (hd hs : Nat)
  /-- CVRNS (R154). -/
  | cvrns (hd hs hs2 : Nat)
  /-- CVCRT (R154). -/
  | cvcrt (hd hs : Nat)
  /-- CVLAY (R155). -/
  | cvlay (hd hs rs2 : Nat)
  /-- CPGO (R170). -/
  | cpgo (rs1 rs2 : Nat)
  /-- CPSTAT (R171). -/
  | cpstat (rd rs1 : Nat)
  /-- CPSTOP (R172). -/
  | cpstop (rs1 : Nat)
  /-- CPWAIT (R172). -/
  | cpwait (rs1 : Nat)
  /-- SQLTAB (R188). -/
  | sqltab (rs1 rs2 : Nat)
  /-- SQARM (R189). -/
  | sqarm (rs1 rs2 : Nat)
  /-- SQCOEF (R190). -/
  | sqcoef (rd rs1 rs2 : Nat)
  /-- SQHDL (R191). -/
  | sqhdl (hd rs1 : Nat)
  /-- SQPART (R192). -/
  | sqpart (rs1 rs2 : Nat)
  /-- SQSTAT (R196). -/
  | sqstat (rd rs1 : Nat)
  /-- SQDEC (R196). -/
  | sqdec (hd rs1 : Nat)
  /-- FSET (R74). -/
  | fset (n rs1 : Nat)
  /-- FCLR (R74). -/
  | fclr (n rs1 : Nat)
  /-- FTST (R75). -/
  | ftst (rd n : Nat)
  /-- FWAIT (R75). -/
  | fwait (n : Nat)
  /-- FWCLR (R75). -/
  | fwclr (n : Nat)
  /-- BFS (R76). -/
  | bfs (n off : Nat)
  /-- BFC (R76). -/
  | bfc (n off : Nat)
  /-- BARV (R77). -/
  | barv (b : Nat)
  /-- BARW (R77). -/
  | barw (b : Nat)
  /-- BARVW (R77). -/
  | barvw (b : Nat)
  /-- SEMP (R79). -/
  | semp (sem : Nat)
  /-- SEMV (R79). -/
  | semv (sem : Nat)
  /-- SEMTRY (R79). -/
  | semtry (rd sem : Nat)
  /-- MTXL (R80). -/
  | mtxl (mtx : Nat)
  /-- MTXU (R80). -/
  | mtxu (mtx : Nat)
  /-- MTXTRY (R80). -/
  | mtxtry (rd mtx : Nat)
  /-- BARANY (R78). -/
  | barany (rd rs1 mask : Nat)
  /-- QPUSH (R81). -/
  | qpush (q rs1 : Nat)
  /-- QPOP (R81). -/
  | qpop (rd q : Nat)
  /-- QTRY (R81). -/
  | qtry (rd q : Nat)
  /-- MSEND (R83). -/
  | msend (rs1 rs2 : Nat)
  /-- MRECV (R84). -/
  | mrecv (rd rs1 : Nat)
  /-- MPOLL (R84). -/
  | mpoll (rd rs1 : Nat)
  /-- HQMAKE (R176). -/
  | hqmake (rd rs1 : Nat)
  /-- HQRSV (R178). -/
  | hqrsv (rd rs1 rs2 : Nat)
  /-- HQPUB (R179). -/
  | hqpub (rs1 rs2 : Nat)
  /-- HQPOP (R180). -/
  | hqpop (rd rs1 : Nat)
  /-- TSPAWN (R182). -/
  | tspawn (rd rs1 : Nat)
  /-- TDEP (R183). -/
  | tdep (rs1 rs2 : Nat)
  /-- TDONE (R185). -/
  | tdone (rs1 : Nat)
  /-- TNEXT (R184). -/
  | tnext (rd : Nat)
  /-- REP (R72). -/
  | rep (rs1 len stride mask : Nat)
  /-- HALT (R85). -/
  | halt (rs1 : Nat)
  /-- TAIL (R86). -/
  | tail
  /-- YIELD (R87). -/
  | yield
  /-- GRPQ (R89). -/
  | grpq (rd rs1 : Nat)
  /-- PRIO (R88). -/
  | prio (rs1 : Nat)
  /-- TLBI (R90). -/
  | tlbi (rs1 rs2 : Nat)
  /-- TLBSYNC (R90). -/
  | tlbsync
  /-- PSWAP (R91). -/
  | pswap (rs1 : Nat)
  /-- ELOG (R92). -/
  | elog (rd : Nat)
  /-- EINJ (R93). -/
  | einj (rs1 rs2 : Nat)
  /-- INTERRUPT_TAKEN (R63). -/
  | interruptTaken (h : HartId)
  /-- IMPRECISE_EXCEPTION (R277). -/
  | impreciseException (h : HartId)
  /-- HART_WAKE (R228). -/
  | hartWake (h : HartId)
  /-- ENGINE_COMMAND_START (R128). -/
  | engineCommandStart (c : CellId) (eng : Nat)
  /-- ENGINE_COMMAND_DONE (R129). -/
  | engineCommandDone (c : CellId) (eng : Nat)
  /-- SRC_STARVED (R128). -/
  | srcStarved (c : CellId) (eng : Nat)
  /-- BUFFERED_COMMAND_START (R157). -/
  | bufferedCommandStart (c : CellId) (proc : Nat)
  /-- COMMIT_BUFFER_COMMIT (R158). -/
  | commitBufferCommit (h : HartId)
  /-- COMMIT_BUFFER_DISCARD (R158). -/
  | commitBufferDiscard (h : HartId)
  /-- WORD_WRITE (R139). -/
  | wordWrite (id : Nat)
  /-- READ_REQUEST (R99). -/
  | readRequest (id : Nat)
  /-- WRITE_REQUEST (R99). -/
  | writeRequest (id : Nat)
  /-- POISON_REQUEST (R99). -/
  | poisonRequest (id : Nat)
  /-- CLEAR_REQUEST (R99). -/
  | clearRequest (id : Nat)
  /-- PRESENCE_STATUS_READ (R106). -/
  | presenceStatusRead (id : Nat)
  /-- DEFER_RETRY (R101). -/
  | deferRetry (id : Nat)
  /-- BLOCK_ANSWER_LANDS (R103). -/
  | blockAnswerLands (id : Nat)
  /-- BLOCK_WRITE_ANSWER (R104). -/
  | blockWriteAnswer (id : Nat)
  /-- REMOTE_FLAG_OP (R74). -/
  | remoteFlagOp (id : Nat)
  /-- MSEND_RECORD_ARRIVES (R83). -/
  | msendRecordArrives (id : Nat)
  /-- MSEND_RETRY (R83). -/
  | msendRetry (id : Nat)
  /-- MMSEND_RECEIVE (R143). -/
  | mmsendReceive (id : Nat)
  /-- LOAD_MISS (R214). -/
  | loadMiss (id : Nat)
  /-- REGISTRATION (R214). -/
  | registration (id : Nat)
  /-- HOME_ATOMIC_OP (R214). -/
  | homeAtomicOp (id : Nat)
  /-- WRITE_BACK (R214). -/
  | writeBack (c : CellId) (w : Nat)
  /-- RANGE_LOCK (R123). -/
  | rangeLock (id : Nat)
  /-- FORWARD (R213). -/
  | forward (id : Nat)
  /-- TRANSFER_RECALL (R213). -/
  | transferRecall (c : CellId) (w : Nat)
  /-- REGISTRATION_GRANT (R215). -/
  | registrationGrant (id : Nat)
  /-- L1_FILL (R213). -/
  | l1Fill (id : Nat)
  /-- CAPACITY_EVICTION (R213). -/
  | capacityEviction (c : CellId) (w : Nat)
  /-- POST_PERFORM (R114). -/
  | postPerform (id : Nat)
  /-- POST_ACK (R114). -/
  | postAck (id : Nat)
  /-- HOME_MIGRATION (R216). -/
  | homeMigration (pkg page die : Nat)
  /-- RECORD_FETCH (R168). -/
  | recordFetch (c : CellId) (ch : Nat)
  /-- RECORD_START (R163). -/
  | recordStart (c : CellId) (ch : Nat)
  /-- RECORD_COMPLETE (R167). -/
  | recordComplete (c : CellId) (ch : Nat)
  /-- TASK_STEALABLE (R184). -/
  | taskStealable (pkg task : Nat)
  /-- SOLVER_DECISION (R194). -/
  | solverDecision (d : DieId) (set : Nat)
  /-- DECISION_WRITE_RETRY (R195). -/
  | decisionWriteRetry (d : DieId) (set : Nat)
  /-- CELL_DONE (R85). -/
  | cellDone (c : CellId)
  /-- RETENTION_EXPIRY (R261). -/
  | retentionExpiry (c : CellId)
  /-- LOTTERY_DRAW (R253). -/
  | lotteryDraw (d : DieId)
  /-- QUEUE_TAIL_SNOOP (R248). -/
  | queueTailSnoop (d : DieId) (q : Nat)
  /-- LAUNCH (R256). -/
  | launchCommand (d : DieId) (q k : Nat)
  /-- COPY (R250). -/
  | copyCommand (d : DieId) (q k : Nat)
  /-- SIGNAL (R250). -/
  | signalCommand (d : DieId) (q k : Nat)
  /-- WAIT (R250). -/
  | waitCommand (d : DieId) (q k : Nat)
  /-- LOAD (R251). -/
  | loadImage (d : DieId) (q k : Nat)
  /-- GRAPH (R252). -/
  | graphCommand (d : DieId) (q k : Nat)
  /-- SWAP (R282). -/
  | swapCommand (d : DieId) (q k : Nat)
  /-- FENCE_COMMAND (R250). -/
  | fenceCommand (d : DieId) (q k : Nat)
  /-- COND (R252). -/
  | condNode (d : DieId) (q k : Nat)
  /-- END (R252). -/
  | endNode (d : DieId) (q k : Nat)
  /-- FE_WAIT_POLL (R250). -/
  | feWaitPoll (d : DieId) (q k : Nat)
  /-- FE_WAIT_WAKE (R250). -/
  | feWaitWake (d : DieId) (q k : Nat)
  /-- PLACEMENT_ATTEMPT (R257). -/
  | placementAttempt (d : DieId) (q k : Nat)
  /-- RESERVE_REQUEST (R257). -/
  | reserveRequest (c : CellId) (d : DieId) (q k : Nat)
  /-- PLACEMENT_BACKOFF_EXPIRY (R257). -/
  | placementBackoffExpiry (d : DieId) (q k : Nat)
  /-- GANG_RELEASE (R259). -/
  | gangRelease (d : DieId) (q k : Nat)
  /-- COALESCE_DEADLINE (R262). -/
  | coalesceDeadline (d : DieId) (ring : Nat)
  /-- COALESCE_DL_WRITE (R262). -/
  | coalesceDlWrite (d : DieId) (ring value : Nat)
  /-- LEASE_BEAT (R263). -/
  | leaseBeat (d : DieId)
  /-- LEASE_CLAIM (R263). -/
  | leaseClaim (d : DieId)
  /-- HANG_MONITOR_FIRE (R266). -/
  | hangMonitorFire (d : DieId)
  /-- FERRY_DISPATCH (R267). -/
  | ferryDispatch (d : DieId)
  /-- REBOOT (R264). -/
  | reboot (d : DieId) (agent : Nat)
  /-- HANDBACK (R264). -/
  | handback (d : DieId)
  /-- FE_IRQ (R246). -/
  | feIrq (d : DieId) (agent value : Nat)
  /-- FUSE_SVN (R246). -/
  | fuseSvn (d : DieId) (agent value : Nat)
  /-- BIAS_CMD (R295). -/
  | biasCmd (d : DieId) (agent value : Nat)
  /-- BIAS_FLIP_COMPLETE (R296). -/
  | biasFlipComplete (d : DieId)
  /-- HOST_MEM_READ (R293). -/
  | hostMemRead (pkg addr size : Nat)
  /-- HOST_MEM_WRITE (R293). -/
  | hostMemWrite (pkg addr size value : Nat)
  /-- HOST_LINK_DOWN (R297). -/
  | hostLinkDown (pkg : Nat)
  /-- SERVICE_CONTEXT_START (R278). -/
  | serviceContextStart (c : CellId) (agent value : Nat)
  /-- BANK_EVICTION (R279). -/
  | bankEviction (h : HartId)
  /-- SWAP_GRACE_EXPIRY (R283). -/
  | swapGraceExpiry (c : CellId)
  /-- DEBUG_HALT_REQUEST (R287). -/
  | debugHaltRequest (c : CellId) (agent value : Nat)
  /-- DEBUG_HALT_REACHED (R287). -/
  | debugHaltReached (c : CellId)
  /-- DEBUG_RESUME (R287). -/
  | debugResume (c : CellId) (agent value : Nat)
  /-- DEBUG_STEP (R287). -/
  | debugStep (c : CellId) (agent value : Nat)
  /-- DEBUG_REG_READ (R288). -/
  | debugRegRead (c : CellId) (agent value : Nat)
  /-- DEBUG_REG_WRITE (R288). -/
  | debugRegWrite (c : CellId) (agent value : Nat)
  /-- DIE_ELOG_READ (R316). -/
  | dieElogRead (d : DieId)
  /-- DIE_EINJ (R317). -/
  | dieEinj (d : DieId) (agent value : Nat)
  /-- PORT_RETRAIN (R300). -/
  | portRetrain (pkg port : Nat)
  /-- REGISTER_WRITE (R246). -/
  | registerWrite (d : DieId) (agent off value : Nat)
  /-- PAGE_WALK (R274). -/
  | pageWalk (d : DieId) (part va : Nat)
  /-- LINK_REPLAY (R300). -/
  | linkReplay (pkg port : Nat)
  /-- PORT_DOWN (R300). -/
  | portDown (pkg port : Nat)
  /-- LINK_OPERATION_ARRIVE (R301). -/
  | linkOperationArrive (src dst lane : Nat)
  /-- DESTINATION_UNREACHABLE (R303). -/
  | destinationUnreachable (src dst : Nat)
  /-- POWER_ON (R306). -/
  | powerOn (pkg : Nat)
  /-- KEY_STORE_SIGN (R312). -/
  | keyStoreSign (d : DieId) (len msg : Nat)
  /-- ATTESTATION_REQUEST (R311). -/
  | attestationRequest (pkg nonce : Nat)
  /-- POWER_WINDOW (R315). -/
  | powerWindow (pkg watts : Nat)
  /-- POWER_SURGE (R315). -/
  | powerSurge (pkg watts : Nat)
  /-- ISLAND_LEVEL_CHANGE (R314). -/
  | islandLevelChange (d : DieId) (n level : Nat)
  /-- CORRECTABLE_ERROR (R317). -/
  | correctableError (c : CellId) (array addr synd : Nat)
  /-- UNCORRECTABLE_ERROR (R317). -/
  | uncorrectableError (c : CellId) (array addr synd : Nat)
  /-- ILLEGAL_INSTRUCTION (R51). -/
  | illegalInstruction (word : Nat)
  /-- INSTRUCTION_FETCH_FAULT (R275). -/
  | instructionFetchFault (cause va : Nat)
  /-- STORE_WRITE_THROUGH (R213). -/
  | storeWriteThrough (id die : Nat)
  /-- PORT_UP (R300). -/
  | portUp (pkg port : Nat)
  /-- HOST_LINK_UP (R297). -/
  | hostLinkUp (pkg : Nat)
  deriving DecidableEq, Repr

end Sys2Proof
end

