-- ==== Sys2Proof/WellFormed.lean ====
section
/-!
DEFINITION. Which fields an instruction word can hold (R48, R53, R69, R94, R126, R160), and which names an event can carry.
A term outside these is no instruction of the device; the decoder never answers one.
-/
namespace Sys2Proof

/-- The limits of every field: registers and handles (R48), immediates (R53, R45 to R47), the limits of the entries
(R69: barrier, semaphore and mutex numbers; R94: class, scope and selector), the names of R8 for the other steps. -/
def Instr.wf : Instr → Bool
  | .lui rd imm => decide (rd < 32 ∧ imm < 1048576)
  | .auipc rd imm => decide (rd < 32 ∧ imm < 1048576)
  | .jal rd off => decide (rd < 32 ∧ off < 2097152 ∧ off % 2 = 0)
  | .jalr rd rs1 imm => decide (rd < 32 ∧ rs1 < 32 ∧ imm < 4096)
  | .beq rs1 rs2 off => decide (rs1 < 32 ∧ rs2 < 32 ∧ off < 8192 ∧ off % 2 = 0)
  | .bne rs1 rs2 off => decide (rs1 < 32 ∧ rs2 < 32 ∧ off < 8192 ∧ off % 2 = 0)
  | .blt rs1 rs2 off => decide (rs1 < 32 ∧ rs2 < 32 ∧ off < 8192 ∧ off % 2 = 0)
  | .bge rs1 rs2 off => decide (rs1 < 32 ∧ rs2 < 32 ∧ off < 8192 ∧ off % 2 = 0)
  | .bltu rs1 rs2 off => decide (rs1 < 32 ∧ rs2 < 32 ∧ off < 8192 ∧ off % 2 = 0)
  | .bgeu rs1 rs2 off => decide (rs1 < 32 ∧ rs2 < 32 ∧ off < 8192 ∧ off % 2 = 0)
  | .lb rd rs1 imm => decide (rd < 32 ∧ rs1 < 32 ∧ imm < 4096)
  | .lh rd rs1 imm => decide (rd < 32 ∧ rs1 < 32 ∧ imm < 4096)
  | .lw rd rs1 imm => decide (rd < 32 ∧ rs1 < 32 ∧ imm < 4096)
  | .ld rd rs1 imm => decide (rd < 32 ∧ rs1 < 32 ∧ imm < 4096)
  | .lbu rd rs1 imm => decide (rd < 32 ∧ rs1 < 32 ∧ imm < 4096)
  | .lhu rd rs1 imm => decide (rd < 32 ∧ rs1 < 32 ∧ imm < 4096)
  | .lwu rd rs1 imm => decide (rd < 32 ∧ rs1 < 32 ∧ imm < 4096)
  | .sb rs1 rs2 imm => decide (rs1 < 32 ∧ rs2 < 32 ∧ imm < 4096)
  | .sh rs1 rs2 imm => decide (rs1 < 32 ∧ rs2 < 32 ∧ imm < 4096)
  | .sw rs1 rs2 imm => decide (rs1 < 32 ∧ rs2 < 32 ∧ imm < 4096)
  | .sd rs1 rs2 imm => decide (rs1 < 32 ∧ rs2 < 32 ∧ imm < 4096)
  | .addi rd rs1 imm => decide (rd < 32 ∧ rs1 < 32 ∧ imm < 4096)
  | .slti rd rs1 imm => decide (rd < 32 ∧ rs1 < 32 ∧ imm < 4096)
  | .sltiu rd rs1 imm => decide (rd < 32 ∧ rs1 < 32 ∧ imm < 4096)
  | .xori rd rs1 imm => decide (rd < 32 ∧ rs1 < 32 ∧ imm < 4096)
  | .ori rd rs1 imm => decide (rd < 32 ∧ rs1 < 32 ∧ imm < 4096)
  | .andi rd rs1 imm => decide (rd < 32 ∧ rs1 < 32 ∧ imm < 4096)
  | .slli rd rs1 amt => decide (rd < 32 ∧ rs1 < 32 ∧ amt < 64)
  | .srli rd rs1 amt => decide (rd < 32 ∧ rs1 < 32 ∧ amt < 64)
  | .srai rd rs1 amt => decide (rd < 32 ∧ rs1 < 32 ∧ amt < 64)
  | .add rd rs1 rs2 => decide (rd < 32 ∧ rs1 < 32 ∧ rs2 < 32)
  | .sub rd rs1 rs2 => decide (rd < 32 ∧ rs1 < 32 ∧ rs2 < 32)
  | .sll rd rs1 rs2 => decide (rd < 32 ∧ rs1 < 32 ∧ rs2 < 32)
  | .slt rd rs1 rs2 => decide (rd < 32 ∧ rs1 < 32 ∧ rs2 < 32)
  | .sltu rd rs1 rs2 => decide (rd < 32 ∧ rs1 < 32 ∧ rs2 < 32)
  | .xor rd rs1 rs2 => decide (rd < 32 ∧ rs1 < 32 ∧ rs2 < 32)
  | .srl rd rs1 rs2 => decide (rd < 32 ∧ rs1 < 32 ∧ rs2 < 32)
  | .sra rd rs1 rs2 => decide (rd < 32 ∧ rs1 < 32 ∧ rs2 < 32)
  | .or rd rs1 rs2 => decide (rd < 32 ∧ rs1 < 32 ∧ rs2 < 32)
  | .and rd rs1 rs2 => decide (rd < 32 ∧ rs1 < 32 ∧ rs2 < 32)
  | .fence fm pred succ rs1 rd => decide (fm < 16 ∧ pred < 16 ∧ succ < 16 ∧ rs1 < 32 ∧ rd < 32)
  | .fenceI imm rs1 rd => decide (imm < 4096 ∧ rs1 < 32 ∧ rd < 32)
  | .ecall => decide (True)
  | .ebreak => decide (True)
  | .addiw rd rs1 imm => decide (rd < 32 ∧ rs1 < 32 ∧ imm < 4096)
  | .slliw rd rs1 amt => decide (rd < 32 ∧ rs1 < 32 ∧ amt < 32)
  | .srliw rd rs1 amt => decide (rd < 32 ∧ rs1 < 32 ∧ amt < 32)
  | .sraiw rd rs1 amt => decide (rd < 32 ∧ rs1 < 32 ∧ amt < 32)
  | .addw rd rs1 rs2 => decide (rd < 32 ∧ rs1 < 32 ∧ rs2 < 32)
  | .subw rd rs1 rs2 => decide (rd < 32 ∧ rs1 < 32 ∧ rs2 < 32)
  | .sllw rd rs1 rs2 => decide (rd < 32 ∧ rs1 < 32 ∧ rs2 < 32)
  | .srlw rd rs1 rs2 => decide (rd < 32 ∧ rs1 < 32 ∧ rs2 < 32)
  | .sraw rd rs1 rs2 => decide (rd < 32 ∧ rs1 < 32 ∧ rs2 < 32)
  | .mul rd rs1 rs2 => decide (rd < 32 ∧ rs1 < 32 ∧ rs2 < 32)
  | .mulh rd rs1 rs2 => decide (rd < 32 ∧ rs1 < 32 ∧ rs2 < 32)
  | .mulhsu rd rs1 rs2 => decide (rd < 32 ∧ rs1 < 32 ∧ rs2 < 32)
  | .mulhu rd rs1 rs2 => decide (rd < 32 ∧ rs1 < 32 ∧ rs2 < 32)
  | .div rd rs1 rs2 => decide (rd < 32 ∧ rs1 < 32 ∧ rs2 < 32)
  | .divu rd rs1 rs2 => decide (rd < 32 ∧ rs1 < 32 ∧ rs2 < 32)
  | .rem rd rs1 rs2 => decide (rd < 32 ∧ rs1 < 32 ∧ rs2 < 32)
  | .remu rd rs1 rs2 => decide (rd < 32 ∧ rs1 < 32 ∧ rs2 < 32)
  | .mulw rd rs1 rs2 => decide (rd < 32 ∧ rs1 < 32 ∧ rs2 < 32)
  | .divw rd rs1 rs2 => decide (rd < 32 ∧ rs1 < 32 ∧ rs2 < 32)
  | .divuw rd rs1 rs2 => decide (rd < 32 ∧ rs1 < 32 ∧ rs2 < 32)
  | .remw rd rs1 rs2 => decide (rd < 32 ∧ rs1 < 32 ∧ rs2 < 32)
  | .remuw rd rs1 rs2 => decide (rd < 32 ∧ rs1 < 32 ∧ rs2 < 32)
  | .lrW aq rl rd rs1 => decide (aq < 2 ∧ rl < 2 ∧ rd < 32 ∧ rs1 < 32)
  | .lrD aq rl rd rs1 => decide (aq < 2 ∧ rl < 2 ∧ rd < 32 ∧ rs1 < 32)
  | .scW aq rl rd rs1 rs2 => decide (aq < 2 ∧ rl < 2 ∧ rd < 32 ∧ rs1 < 32 ∧ rs2 < 32)
  | .scD aq rl rd rs1 rs2 => decide (aq < 2 ∧ rl < 2 ∧ rd < 32 ∧ rs1 < 32 ∧ rs2 < 32)
  | .amoswapW aq rl rd rs1 rs2 => decide (aq < 2 ∧ rl < 2 ∧ rd < 32 ∧ rs1 < 32 ∧ rs2 < 32)
  | .amoswapD aq rl rd rs1 rs2 => decide (aq < 2 ∧ rl < 2 ∧ rd < 32 ∧ rs1 < 32 ∧ rs2 < 32)
  | .amoaddW aq rl rd rs1 rs2 => decide (aq < 2 ∧ rl < 2 ∧ rd < 32 ∧ rs1 < 32 ∧ rs2 < 32)
  | .amoaddD aq rl rd rs1 rs2 => decide (aq < 2 ∧ rl < 2 ∧ rd < 32 ∧ rs1 < 32 ∧ rs2 < 32)
  | .amoxorW aq rl rd rs1 rs2 => decide (aq < 2 ∧ rl < 2 ∧ rd < 32 ∧ rs1 < 32 ∧ rs2 < 32)
  | .amoxorD aq rl rd rs1 rs2 => decide (aq < 2 ∧ rl < 2 ∧ rd < 32 ∧ rs1 < 32 ∧ rs2 < 32)
  | .amoandW aq rl rd rs1 rs2 => decide (aq < 2 ∧ rl < 2 ∧ rd < 32 ∧ rs1 < 32 ∧ rs2 < 32)
  | .amoandD aq rl rd rs1 rs2 => decide (aq < 2 ∧ rl < 2 ∧ rd < 32 ∧ rs1 < 32 ∧ rs2 < 32)
  | .amoorW aq rl rd rs1 rs2 => decide (aq < 2 ∧ rl < 2 ∧ rd < 32 ∧ rs1 < 32 ∧ rs2 < 32)
  | .amoorD aq rl rd rs1 rs2 => decide (aq < 2 ∧ rl < 2 ∧ rd < 32 ∧ rs1 < 32 ∧ rs2 < 32)
  | .amominW aq rl rd rs1 rs2 => decide (aq < 2 ∧ rl < 2 ∧ rd < 32 ∧ rs1 < 32 ∧ rs2 < 32)
  | .amominD aq rl rd rs1 rs2 => decide (aq < 2 ∧ rl < 2 ∧ rd < 32 ∧ rs1 < 32 ∧ rs2 < 32)
  | .amomaxW aq rl rd rs1 rs2 => decide (aq < 2 ∧ rl < 2 ∧ rd < 32 ∧ rs1 < 32 ∧ rs2 < 32)
  | .amomaxD aq rl rd rs1 rs2 => decide (aq < 2 ∧ rl < 2 ∧ rd < 32 ∧ rs1 < 32 ∧ rs2 < 32)
  | .amominuW aq rl rd rs1 rs2 => decide (aq < 2 ∧ rl < 2 ∧ rd < 32 ∧ rs1 < 32 ∧ rs2 < 32)
  | .amominuD aq rl rd rs1 rs2 => decide (aq < 2 ∧ rl < 2 ∧ rd < 32 ∧ rs1 < 32 ∧ rs2 < 32)
  | .amomaxuW aq rl rd rs1 rs2 => decide (aq < 2 ∧ rl < 2 ∧ rd < 32 ∧ rs1 < 32 ∧ rs2 < 32)
  | .amomaxuD aq rl rd rs1 rs2 => decide (aq < 2 ∧ rl < 2 ∧ rd < 32 ∧ rs1 < 32 ∧ rs2 < 32)
  | .csrrw rd csr rs1 => decide (rd < 32 ∧ csr < 4096 ∧ rs1 < 32)
  | .csrrs rd csr rs1 => decide (rd < 32 ∧ csr < 4096 ∧ rs1 < 32)
  | .csrrc rd csr rs1 => decide (rd < 32 ∧ csr < 4096 ∧ rs1 < 32)
  | .csrrwi rd csr uimm => decide (rd < 32 ∧ csr < 4096 ∧ uimm < 32)
  | .csrrsi rd csr uimm => decide (rd < 32 ∧ csr < 4096 ∧ uimm < 32)
  | .csrrci rd csr uimm => decide (rd < 32 ∧ csr < 4096 ∧ uimm < 32)
  | .mret => decide (True)
  | .wfi => decide (True)
  | .bget hd hs => decide (hd < 16 ∧ hs < 16)
  | .bgetq hd hs => decide (hd < 16 ∧ hs < 16)
  | .bput hd hs => decide (hd < 16 ∧ hs < 16)
  | .bclr rd hs => decide (rd < 32 ∧ hs < 16)
  | .bpois rd hs => decide (rd < 32 ∧ hs < 16)
  | .bstat rd hs => decide (rd < 32 ∧ hs < 16)
  | .bwait hs => decide (hs < 16)
  | .btest rd hs => decide (rd < 32 ∧ hs < 16)
  | .brel hs => decide (hs < 16)
  | .bopen hs => decide (hs < 16)
  | .bstw hs rs1 rs2 => decide (hs < 16 ∧ rs1 < 32 ∧ rs2 < 32)
  | .bseal hs => decide (hs < 16)
  | .bldw rd hs rs2 => decide (rd < 32 ∧ hs < 16 ∧ rs2 < 32)
  | .hld hd rs1 => decide (hd < 16 ∧ rs1 < 32)
  | .hst hs rs1 => decide (hs < 16 ∧ rs1 < 32)
  | .hmov hd hs => decide (hd < 16 ∧ hs < 16)
  | .hadv hd rs1 => decide (hd < 16 ∧ rs1 < 32)
  | .hginc hd => decide (hd < 16)
  | .hsub hd hs rs2 => decide (hd < 16 ∧ hs < 16 ∧ rs2 < 32)
  | .hgetf rd hs sel => decide (rd < 32 ∧ hs < 16 ∧ sel < 18)
  | .hsetf hd rs1 sel => decide (hd < 16 ∧ rs1 < 32 ∧ sel < 18)
  | .ldq w sz off rs1 rd => decide (w < 4 ∧ sz < 4 ∧ off < 256 ∧ rs1 < 32 ∧ rd < 32)
  | .stp w sz off rs1 rs => decide (w < 4 ∧ sz < 4 ∧ off < 256 ∧ rs1 < 32 ∧ rs < 32)
  | .invr rs1 rs2 => decide (rs1 < 32 ∧ rs2 < 32)
  | .inva => decide (True)
  | .yld rs1 rs2 => decide (rs1 < 32 ∧ rs2 < 32)
  | .ownq rd rs1 => decide (rd < 32 ∧ rs1 < 32)
  | .cntw cls => decide (1 ≤ cls ∧ cls < 4)
  | .cntr rd cls => decide (rd < 32 ∧ 1 ≤ cls ∧ cls < 4)
  | .facq scope rs1 => decide (scope < 5 ∧ (scope ≠ 1 → rs1 = 0) ∧ rs1 < 32)
  | .frel scope rs1 => decide (scope < 5 ∧ (scope ≠ 1 → rs1 = 0) ∧ rs1 < 32)
  | .far scope rs1 => decide (scope < 5 ∧ (scope ≠ 1 → rs1 = 0) ∧ rs1 < 32)
  | .rlq rd rs1 => decide (rd < 32 ∧ rs1 < 32)
  | .stpa rs1 rs2 => decide (rs1 < 32 ∧ rs2 < 32)
  | .mma acc ha hb => decide (acc < 16 ∧ ha < 16 ∧ hb < 16)
  | .mmaz acc ha hb => decide (acc < 16 ∧ ha < 16 ∧ hb < 16)
  | .mmav acc ha hb => decide (acc < 16 ∧ ha < 16 ∧ hb < 16)
  | .mmavz acc ha hb => decide (acc < 16 ∧ ha < 16 ∧ hb < 16)
  | .mdrn hd acc hs2 => decide (hd < 16 ∧ acc < 16 ∧ hs2 < 16)
  | .mmrg acc hs => decide (acc < 16 ∧ hs < 16)
  | .aclr acc => decide (acc < 16)
  | .astat rd acc => decide (rd < 32 ∧ acc < 16)
  | .mmsend rs1 rs2 => decide (rs1 < 32 ∧ rs2 < 32)
  | .vadd hd ha hb => decide (hd < 16 ∧ ha < 16 ∧ hb < 16)
  | .vsub hd ha hb => decide (hd < 16 ∧ ha < 16 ∧ hb < 16)
  | .vmul hd ha hb => decide (hd < 16 ∧ ha < 16 ∧ hb < 16)
  | .vfma hd ha hb => decide (hd < 16 ∧ ha < 16 ∧ hb < 16)
  | .vmax hd ha hb => decide (hd < 16 ∧ ha < 16 ∧ hb < 16)
  | .vmin hd ha hb => decide (hd < 16 ∧ ha < 16 ∧ hb < 16)
  | .vscl hd ha rs2 => decide (hd < 16 ∧ ha < 16 ∧ rs2 < 32)
  | .vaxpy hd ha hb => decide (hd < 16 ∧ ha < 16 ∧ hb < 16)
  | .vfill hd rs1 => decide (hd < 16 ∧ rs1 < 32)
  | .vcopy hd ha => decide (hd < 16 ∧ ha < 16)
  | .vexp2 hd ha => decide (hd < 16 ∧ ha < 16)
  | .vrcp hd ha => decide (hd < 16 ∧ ha < 16)
  | .vrsq hd ha => decide (hd < 16 ∧ ha < 16)
  | .vcmplt rs ha hb => decide (rs < 32 ∧ ha < 16 ∧ hb < 16)
  | .vcmpeq rs ha hb => decide (rs < 32 ∧ ha < 16 ∧ hb < 16)
  | .vsel hd ha hb => decide (hd < 16 ∧ ha < 16 ∧ hb < 16)
  | .vreds hd ha => decide (hd < 16 ∧ ha < 16)
  | .vredm hd ha => decide (hd < 16 ∧ ha < 16)
  | .vargm hd ha => decide (hd < 16 ∧ ha < 16)
  | .verrs hd ha hb => decide (hd < 16 ∧ ha < 16 ∧ hb < 16)
  | .vtrn hd ha => decide (hd < 16 ∧ ha < 16)
  | .vcvt hd ha => decide (hd < 16 ∧ ha < 16)
  | .cvala hd hs hs2 => decide (hd < 16 ∧ hs < 16 ∧ hs2 < 16)
  | .cvalb hd hs hs2 => decide (hd < 16 ∧ hs < 16 ∧ hs2 < 16)
  | .cvqmx hd hs hs2 => decide (hd < 16 ∧ hs < 16 ∧ hs2 < 16)
  | .cvdq hd hs hs2 => decide (hd < 16 ∧ hs < 16 ∧ hs2 < 16)
  | .cvi8 hd hs => decide (hd < 16 ∧ hs < 16)
  | .cvrns hd hs hs2 => decide (hd < 16 ∧ hs < 16 ∧ hs2 < 16)
  | .cvcrt hd hs => decide (hd < 16 ∧ hs < 16)
  | .cvlay hd hs rs2 => decide (hd < 16 ∧ hs < 16 ∧ rs2 < 32)
  | .cpgo rs1 rs2 => decide (rs1 < 32 ∧ rs2 < 32)
  | .cpstat rd rs1 => decide (rd < 32 ∧ rs1 < 32)
  | .cpstop rs1 => decide (rs1 < 32)
  | .cpwait rs1 => decide (rs1 < 32)
  | .sqltab rs1 rs2 => decide (rs1 < 32 ∧ rs2 < 32)
  | .sqarm rs1 rs2 => decide (rs1 < 32 ∧ rs2 < 32)
  | .sqcoef rd rs1 rs2 => decide (rd < 32 ∧ rs1 < 32 ∧ rs2 < 32)
  | .sqhdl hd rs1 => decide (hd < 16 ∧ rs1 < 32)
  | .sqpart rs1 rs2 => decide (rs1 < 32 ∧ rs2 < 32)
  | .sqstat rd rs1 => decide (rd < 32 ∧ rs1 < 32)
  | .sqdec hd rs1 => decide (hd < 16 ∧ rs1 < 32)
  | .fset n rs1 => decide (n < 1024 ∧ rs1 < 32)
  | .fclr n rs1 => decide (n < 1024 ∧ rs1 < 32)
  | .ftst rd n => decide (rd < 32 ∧ n < 1024)
  | .fwait n => decide (n < 1024)
  | .fwclr n => decide (n < 1024)
  | .bfs n off => decide (n < 1024 ∧ off < 4096)
  | .bfc n off => decide (n < 1024 ∧ off < 4096)
  | .barv b => decide (b < 48)
  | .barw b => decide (b < 48)
  | .barvw b => decide (b < 48)
  | .semp sem => decide (sem < 16)
  | .semv sem => decide (sem < 16)
  | .semtry rd sem => decide (rd < 32 ∧ sem < 16)
  | .mtxl mtx => decide (mtx < 8)
  | .mtxu mtx => decide (mtx < 8)
  | .mtxtry rd mtx => decide (rd < 32 ∧ mtx < 8)
  | .barany rd rs1 mask => decide (rd < 32 ∧ rs1 < 32 ∧ mask < 256)
  | .qpush q rs1 => decide (q < 16 ∧ rs1 < 32)
  | .qpop rd q => decide (rd < 32 ∧ q < 16)
  | .qtry rd q => decide (rd < 32 ∧ q < 16)
  | .msend rs1 rs2 => decide (rs1 < 32 ∧ rs2 < 32)
  | .mrecv rd rs1 => decide (rd < 32 ∧ rs1 < 32)
  | .mpoll rd rs1 => decide (rd < 32 ∧ rs1 < 32)
  | .hqmake rd rs1 => decide (rd < 32 ∧ rs1 < 32)
  | .hqrsv rd rs1 rs2 => decide (rd < 32 ∧ rs1 < 32 ∧ rs2 < 32)
  | .hqpub rs1 rs2 => decide (rs1 < 32 ∧ rs2 < 32)
  | .hqpop rd rs1 => decide (rd < 32 ∧ rs1 < 32)
  | .tspawn rd rs1 => decide (rd < 32 ∧ rs1 < 32)
  | .tdep rs1 rs2 => decide (rs1 < 32 ∧ rs2 < 32)
  | .tdone rs1 => decide (rs1 < 32)
  | .tnext rd => decide (rd < 32)
  | .rep rs1 len stride mask => decide (rs1 < 32 ∧ len < 8 ∧ stride < 32 ∧ mask < 16)
  | .halt rs1 => decide (rs1 < 32)
  | .tail => decide (True)
  | .yield => decide (True)
  | .grpq rd rs1 => decide (rd < 32 ∧ rs1 < 32)
  | .prio rs1 => decide (rs1 < 32)
  | .tlbi rs1 rs2 => decide (rs1 < 32 ∧ rs2 < 32)
  | .tlbsync => decide (True)
  | .pswap rs1 => decide (rs1 < 32)
  | .elog rd => decide (rd < 32)
  | .einj rs1 rs2 => decide (rs1 < 32 ∧ rs2 < 32)
  | .interruptTaken h => decide (h.Valid)
  | .impreciseException h => decide (h.Valid)
  | .hartWake h => decide (h.Valid)
  | .engineCommandStart c eng => decide (c.Valid ∧ eng < 3)
  | .engineCommandDone c eng => decide (c.Valid ∧ eng < 3)
  | .srcStarved c eng => decide (c.Valid ∧ eng < 3)
  | .bufferedCommandStart c proc => decide (c.Valid ∧ proc < 3)
  | .commitBufferCommit h => decide (h.Valid)
  | .commitBufferDiscard h => decide (h.Valid)
  | .wordWrite _ => decide (True)
  | .readRequest _ => decide (True)
  | .writeRequest _ => decide (True)
  | .poisonRequest _ => decide (True)
  | .clearRequest _ => decide (True)
  | .presenceStatusRead _ => decide (True)
  | .deferRetry _ => decide (True)
  | .blockAnswerLands _ => decide (True)
  | .blockWriteAnswer _ => decide (True)
  | .remoteFlagOp _ => decide (True)
  | .msendRecordArrives _ => decide (True)
  | .msendRetry _ => decide (True)
  | .mmsendReceive _ => decide (True)
  | .loadMiss _ => decide (True)
  | .registration _ => decide (True)
  | .homeAtomicOp _ => decide (True)
  | .writeBack c _ => decide (c.Valid)
  | .rangeLock _ => decide (True)
  | .forward _ => decide (True)
  | .transferRecall c _ => decide (c.Valid)
  | .registrationGrant _ => decide (True)
  | .l1Fill _ => decide (True)
  | .capacityEviction c _ => decide (c.Valid)
  | .postPerform _ => decide (True)
  | .postAck _ => decide (True)
  | .homeMigration pkg _ die => decide (pkg < 64 ∧ die < 16)
  | .recordFetch c ch => decide (c.ValidOrFront ∧ ch < 4)
  | .recordStart c ch => decide (c.ValidOrFront ∧ ch < 4)
  | .recordComplete c ch => decide (c.ValidOrFront ∧ ch < 4)
  | .taskStealable pkg _ => decide (pkg < 64)
  | .solverDecision d set => decide (d.Valid ∧ set < 4)
  | .decisionWriteRetry d set => decide (d.Valid ∧ set < 4)
  | .cellDone c => decide (c.Valid)
  | .retentionExpiry c => decide (c.Valid)
  | .lotteryDraw d => decide (d.Valid)
  | .queueTailSnoop d q => decide (d.Valid ∧ q < 64)
  | .launchCommand d q _ => decide (d.Valid ∧ q < 64)
  | .copyCommand d q _ => decide (d.Valid ∧ q < 64)
  | .signalCommand d q _ => decide (d.Valid ∧ q < 64)
  | .waitCommand d q _ => decide (d.Valid ∧ q < 64)
  | .loadImage d q _ => decide (d.Valid ∧ q < 64)
  | .graphCommand d q _ => decide (d.Valid ∧ q < 64)
  | .swapCommand d q _ => decide (d.Valid ∧ q < 64)
  | .fenceCommand d q _ => decide (d.Valid ∧ q < 64)
  | .condNode d q _ => decide (d.Valid ∧ q < 64)
  | .endNode d q _ => decide (d.Valid ∧ q < 64)
  | .feWaitPoll d q _ => decide (d.Valid ∧ q < 64)
  | .feWaitWake d q _ => decide (d.Valid ∧ q < 64)
  | .placementAttempt d q _ => decide (d.Valid ∧ q < 64)
  | .reserveRequest c d q _ => decide (c.Valid ∧ d.Valid ∧ q < 64)
  | .placementBackoffExpiry d q _ => decide (d.Valid ∧ q < 64)
  | .gangRelease d q _ => decide (d.Valid ∧ q < 64)
  | .coalesceDeadline d ring => decide (d.Valid ∧ ring < 64)
  | .coalesceDlWrite d ring value => decide (d.Valid ∧ ring < 64 ∧ value < 18446744073709551616)
  | .leaseBeat d => decide (d.Valid)
  | .leaseClaim d => decide (d.Valid)
  | .hangMonitorFire d => decide (d.Valid)
  | .ferryDispatch d => decide (d.Valid)
  | .reboot d _ => decide (d.Valid)
  | .handback d => decide (d.Valid)
  | .feIrq d _ value => decide (d.Valid ∧ value < 18446744073709551616)
  | .fuseSvn d _ value => decide (d.Valid ∧ value < 18446744073709551616)
  | .biasCmd d _ value => decide (d.Valid ∧ value < 18446744073709551616)
  | .biasFlipComplete d => decide (d.Valid)
  | .hostMemRead pkg _ _ => decide (pkg < 64)
  | .hostMemWrite pkg _ _ value => decide (pkg < 64 ∧ value < 18446744073709551616)
  | .hostLinkDown pkg => decide (pkg < 64)
  | .serviceContextStart c _ value => decide (c.Valid ∧ value < 18446744073709551616)
  | .bankEviction h => decide (h.Valid)
  | .swapGraceExpiry c => decide (c.Valid)
  | .debugHaltRequest c _ value => decide (c.Valid ∧ value < 18446744073709551616)
  | .debugHaltReached c => decide (c.Valid)
  | .debugResume c _ value => decide (c.Valid ∧ value < 18446744073709551616)
  | .debugStep c _ value => decide (c.Valid ∧ value < 18446744073709551616)
  | .debugRegRead c _ value => decide (c.Valid ∧ value < 18446744073709551616)
  | .debugRegWrite c _ value => decide (c.Valid ∧ value < 18446744073709551616)
  | .dieElogRead d => decide (d.Valid)
  | .dieEinj d _ value => decide (d.Valid ∧ value < 18446744073709551616)
  | .portRetrain pkg port => decide (pkg < 64 ∧ port < 16)
  | .registerWrite d _ _ value => decide (d.Valid ∧ value < 18446744073709551616)
  | .pageWalk d part _ => decide (d.Valid ∧ part < 256)
  | .linkReplay pkg port => decide (pkg < 64 ∧ port < 16)
  | .portDown pkg port => decide (pkg < 64 ∧ port < 16)
  | .linkOperationArrive src dst lane => decide (src < 64 ∧ dst < 64 ∧ lane < 4)
  | .destinationUnreachable src dst => decide (src < 64 ∧ dst < 64)
  | .powerOn pkg => decide (pkg < 64)
  | .keyStoreSign d _ _ => decide (d.Valid)
  | .attestationRequest pkg _ => decide (pkg < 64)
  | .powerWindow pkg _ => decide (pkg < 64)
  | .powerSurge pkg _ => decide (pkg < 64)
  | .islandLevelChange d n level => decide (d.Valid ∧ n < 8 ∧ level < 8)
  | .correctableError c _ _ _ => decide (c.Valid)
  | .uncorrectableError c _ _ _ => decide (c.Valid)
  | .illegalInstruction _ => decide (True)
  | .instructionFetchFault _ _ => decide (True)
  | .storeWriteThrough _ die => decide (die < 16)
  | .portUp pkg port => decide (pkg < 64 ∧ port < 16)
  | .hostLinkUp pkg => decide (pkg < 64)

/-- The term is well formed. -/
abbrev Instr.WellFormed (i : Instr) : Prop := i.wf = true

end Sys2Proof
end

