-- ==== Sys2Proof/Decode.lean ====
section
/-!
DEFINITION. The decoder and the encoder (R44 to R54, R69, R94, R126, R160). A word is a number whose bit 0 is the least
significant bit. The decoder reads the fields, selects the row by major opcode, funct3 and funct7 (R49, R50, R54), and
accepts the word only if the row's fields are within their limits (WellFormed) and the row's own encoding is the whole
word, so that every field an entry does not name must be zero (R48).
-/
namespace Sys2Proof

/-- Why a word is no instruction (R44, R49 to R51). -/
inductive DecodeError where
  /-- Fewer than four bytes. -/
  | short
  /-- Bits [1:0] are not 0b11: no compressed instructions (R44). -/
  | notWord
  /-- Bits [4:2] are 0b111: the longer encodings (R44). -/
  | longer
  /-- A major opcode, funct3 or funct7 that no row of R49, R50 or R54 has. -/
  | unassigned
  /-- A field outside its limit, or a reserved field that is not zero (R48, R69, R94). -/
  | field
  deriving DecidableEq, Repr

/-- Bits [lo + n - 1 : lo] of a word. -/
def field (w lo n : Nat) : Nat := w / 2 ^ lo % 2 ^ n

/-- The R and Q layout: funct7, rs2, rs1, funct3, rd, opcode (R45, R53). -/
def wordR (op f3 f7 rd rs1 rs2 : Nat) : Nat :=
  op + rd * 128 + f3 * 4096 + rs1 * 32768 + rs2 * 1048576 + f7 * 33554432

/-- The I, QI, QM and QF layout: bits [31:20], rs1, funct3, rd, opcode (R45, R53). -/
def wordI (op f3 rd rs1 imm : Nat) : Nat :=
  op + rd * 128 + f3 * 4096 + rs1 * 32768 + imm * 1048576

/-- The U and J layout: bits [31:12], rd, opcode (R53). -/
def wordU (op rd imm : Nat) : Nat := op + rd * 128 + imm * 4096

/-- Bits [31:25] of a B word: imm[12] and imm[10:5] (R53). -/
def bHigh (off : Nat) : Nat := off / 4096 % 2 * 64 + off / 32 % 64

/-- Bits [11:7] of a B word: imm[4:1] and imm[11] (R53). -/
def bLow (off : Nat) : Nat := off / 2 % 16 * 2 + off / 2048 % 2

/-- The B offset from bits [31:25] and [11:7] (R53). -/
def bOff (hi lo : Nat) : Nat := hi / 64 * 4096 + lo % 2 * 2048 + hi % 64 * 32 + lo / 2 * 2

/-- Bits [31:12] of a J word: imm[20], imm[10:1], imm[11], imm[19:12] (R53). -/
def jImm (off : Nat) : Nat :=
  off / 1048576 % 2 * 524288 + off / 2 % 1024 * 512 + off / 2048 % 2 * 256 + off / 4096 % 256

/-- The J offset from bits [31:12] (R53). -/
def jOff (imm : Nat) : Nat :=
  imm / 524288 * 1048576 + imm % 256 * 4096 + imm / 256 % 2 * 2048 + imm / 512 % 1024 * 2

/-- The word of an instruction, from the encoding tables (R54, R69, R94, R126, R160); the other steps have none. -/
def encode : Instr → Option Nat
  | .lui rd imm => some (wordU 0x37 rd imm)
  | .auipc rd imm => some (wordU 0x17 rd imm)
  | .jal rd off => some (wordU 0x6f rd (jImm off))
  | .jalr rd rs1 imm => some (wordI 0x67 0 rd rs1 imm)
  | .beq rs1 rs2 off => some (wordR 0x63 0 (bHigh off) (bLow off) rs1 rs2)
  | .bne rs1 rs2 off => some (wordR 0x63 1 (bHigh off) (bLow off) rs1 rs2)
  | .blt rs1 rs2 off => some (wordR 0x63 4 (bHigh off) (bLow off) rs1 rs2)
  | .bge rs1 rs2 off => some (wordR 0x63 5 (bHigh off) (bLow off) rs1 rs2)
  | .bltu rs1 rs2 off => some (wordR 0x63 6 (bHigh off) (bLow off) rs1 rs2)
  | .bgeu rs1 rs2 off => some (wordR 0x63 7 (bHigh off) (bLow off) rs1 rs2)
  | .lb rd rs1 imm => some (wordI 0x3 0 rd rs1 imm)
  | .lh rd rs1 imm => some (wordI 0x3 1 rd rs1 imm)
  | .lw rd rs1 imm => some (wordI 0x3 2 rd rs1 imm)
  | .ld rd rs1 imm => some (wordI 0x3 3 rd rs1 imm)
  | .lbu rd rs1 imm => some (wordI 0x3 4 rd rs1 imm)
  | .lhu rd rs1 imm => some (wordI 0x3 5 rd rs1 imm)
  | .lwu rd rs1 imm => some (wordI 0x3 6 rd rs1 imm)
  | .sb rs1 rs2 imm => some (wordR 0x23 0 (imm / 32) (imm % 32) rs1 rs2)
  | .sh rs1 rs2 imm => some (wordR 0x23 1 (imm / 32) (imm % 32) rs1 rs2)
  | .sw rs1 rs2 imm => some (wordR 0x23 2 (imm / 32) (imm % 32) rs1 rs2)
  | .sd rs1 rs2 imm => some (wordR 0x23 3 (imm / 32) (imm % 32) rs1 rs2)
  | .addi rd rs1 imm => some (wordI 0x13 0 rd rs1 imm)
  | .slti rd rs1 imm => some (wordI 0x13 2 rd rs1 imm)
  | .sltiu rd rs1 imm => some (wordI 0x13 3 rd rs1 imm)
  | .xori rd rs1 imm => some (wordI 0x13 4 rd rs1 imm)
  | .ori rd rs1 imm => some (wordI 0x13 6 rd rs1 imm)
  | .andi rd rs1 imm => some (wordI 0x13 7 rd rs1 imm)
  | .slli rd rs1 amt => some (wordI 0x13 1 rd rs1 (amt + 0x0))
  | .srli rd rs1 amt => some (wordI 0x13 5 rd rs1 (amt + 0x0))
  | .srai rd rs1 amt => some (wordI 0x13 5 rd rs1 (amt + 0x400))
  | .add rd rs1 rs2 => some (wordR 0x33 0 0x0 rd rs1 rs2)
  | .sub rd rs1 rs2 => some (wordR 0x33 0 0x20 rd rs1 rs2)
  | .sll rd rs1 rs2 => some (wordR 0x33 1 0x0 rd rs1 rs2)
  | .slt rd rs1 rs2 => some (wordR 0x33 2 0x0 rd rs1 rs2)
  | .sltu rd rs1 rs2 => some (wordR 0x33 3 0x0 rd rs1 rs2)
  | .xor rd rs1 rs2 => some (wordR 0x33 4 0x0 rd rs1 rs2)
  | .srl rd rs1 rs2 => some (wordR 0x33 5 0x0 rd rs1 rs2)
  | .sra rd rs1 rs2 => some (wordR 0x33 5 0x20 rd rs1 rs2)
  | .or rd rs1 rs2 => some (wordR 0x33 6 0x0 rd rs1 rs2)
  | .and rd rs1 rs2 => some (wordR 0x33 7 0x0 rd rs1 rs2)
  | .fence fm pred succ rs1 rd => some (wordI 0xf 0 rd rs1 (fm * 256 + pred * 16 + succ))
  | .fenceI imm rs1 rd => some (wordI 0xf 1 rd rs1 imm)
  | .ecall => some (wordI 0x73 0 0 0 0x0)
  | .ebreak => some (wordI 0x73 0 0 0 0x1)
  | .addiw rd rs1 imm => some (wordI 0x1b 0 rd rs1 imm)
  | .slliw rd rs1 amt => some (wordI 0x1b 1 rd rs1 (amt + 0x0))
  | .srliw rd rs1 amt => some (wordI 0x1b 5 rd rs1 (amt + 0x0))
  | .sraiw rd rs1 amt => some (wordI 0x1b 5 rd rs1 (amt + 0x400))
  | .addw rd rs1 rs2 => some (wordR 0x3b 0 0x0 rd rs1 rs2)
  | .subw rd rs1 rs2 => some (wordR 0x3b 0 0x20 rd rs1 rs2)
  | .sllw rd rs1 rs2 => some (wordR 0x3b 1 0x0 rd rs1 rs2)
  | .srlw rd rs1 rs2 => some (wordR 0x3b 5 0x0 rd rs1 rs2)
  | .sraw rd rs1 rs2 => some (wordR 0x3b 5 0x20 rd rs1 rs2)
  | .mul rd rs1 rs2 => some (wordR 0x33 0 0x1 rd rs1 rs2)
  | .mulh rd rs1 rs2 => some (wordR 0x33 1 0x1 rd rs1 rs2)
  | .mulhsu rd rs1 rs2 => some (wordR 0x33 2 0x1 rd rs1 rs2)
  | .mulhu rd rs1 rs2 => some (wordR 0x33 3 0x1 rd rs1 rs2)
  | .div rd rs1 rs2 => some (wordR 0x33 4 0x1 rd rs1 rs2)
  | .divu rd rs1 rs2 => some (wordR 0x33 5 0x1 rd rs1 rs2)
  | .rem rd rs1 rs2 => some (wordR 0x33 6 0x1 rd rs1 rs2)
  | .remu rd rs1 rs2 => some (wordR 0x33 7 0x1 rd rs1 rs2)
  | .mulw rd rs1 rs2 => some (wordR 0x3b 0 0x1 rd rs1 rs2)
  | .divw rd rs1 rs2 => some (wordR 0x3b 4 0x1 rd rs1 rs2)
  | .divuw rd rs1 rs2 => some (wordR 0x3b 5 0x1 rd rs1 rs2)
  | .remw rd rs1 rs2 => some (wordR 0x3b 6 0x1 rd rs1 rs2)
  | .remuw rd rs1 rs2 => some (wordR 0x3b 7 0x1 rd rs1 rs2)
  | .lrW aq rl rd rs1 => some (wordR 0x2f 2 (0x2 * 4 + aq * 2 + rl) rd rs1 0)
  | .lrD aq rl rd rs1 => some (wordR 0x2f 3 (0x2 * 4 + aq * 2 + rl) rd rs1 0)
  | .scW aq rl rd rs1 rs2 => some (wordR 0x2f 2 (0x3 * 4 + aq * 2 + rl) rd rs1 rs2)
  | .scD aq rl rd rs1 rs2 => some (wordR 0x2f 3 (0x3 * 4 + aq * 2 + rl) rd rs1 rs2)
  | .amoswapW aq rl rd rs1 rs2 => some (wordR 0x2f 2 (0x1 * 4 + aq * 2 + rl) rd rs1 rs2)
  | .amoswapD aq rl rd rs1 rs2 => some (wordR 0x2f 3 (0x1 * 4 + aq * 2 + rl) rd rs1 rs2)
  | .amoaddW aq rl rd rs1 rs2 => some (wordR 0x2f 2 (0x0 * 4 + aq * 2 + rl) rd rs1 rs2)
  | .amoaddD aq rl rd rs1 rs2 => some (wordR 0x2f 3 (0x0 * 4 + aq * 2 + rl) rd rs1 rs2)
  | .amoxorW aq rl rd rs1 rs2 => some (wordR 0x2f 2 (0x4 * 4 + aq * 2 + rl) rd rs1 rs2)
  | .amoxorD aq rl rd rs1 rs2 => some (wordR 0x2f 3 (0x4 * 4 + aq * 2 + rl) rd rs1 rs2)
  | .amoandW aq rl rd rs1 rs2 => some (wordR 0x2f 2 (0xc * 4 + aq * 2 + rl) rd rs1 rs2)
  | .amoandD aq rl rd rs1 rs2 => some (wordR 0x2f 3 (0xc * 4 + aq * 2 + rl) rd rs1 rs2)
  | .amoorW aq rl rd rs1 rs2 => some (wordR 0x2f 2 (0x8 * 4 + aq * 2 + rl) rd rs1 rs2)
  | .amoorD aq rl rd rs1 rs2 => some (wordR 0x2f 3 (0x8 * 4 + aq * 2 + rl) rd rs1 rs2)
  | .amominW aq rl rd rs1 rs2 => some (wordR 0x2f 2 (0x10 * 4 + aq * 2 + rl) rd rs1 rs2)
  | .amominD aq rl rd rs1 rs2 => some (wordR 0x2f 3 (0x10 * 4 + aq * 2 + rl) rd rs1 rs2)
  | .amomaxW aq rl rd rs1 rs2 => some (wordR 0x2f 2 (0x14 * 4 + aq * 2 + rl) rd rs1 rs2)
  | .amomaxD aq rl rd rs1 rs2 => some (wordR 0x2f 3 (0x14 * 4 + aq * 2 + rl) rd rs1 rs2)
  | .amominuW aq rl rd rs1 rs2 => some (wordR 0x2f 2 (0x18 * 4 + aq * 2 + rl) rd rs1 rs2)
  | .amominuD aq rl rd rs1 rs2 => some (wordR 0x2f 3 (0x18 * 4 + aq * 2 + rl) rd rs1 rs2)
  | .amomaxuW aq rl rd rs1 rs2 => some (wordR 0x2f 2 (0x1c * 4 + aq * 2 + rl) rd rs1 rs2)
  | .amomaxuD aq rl rd rs1 rs2 => some (wordR 0x2f 3 (0x1c * 4 + aq * 2 + rl) rd rs1 rs2)
  | .csrrw rd csr rs1 => some (wordI 0x73 1 rd rs1 csr)
  | .csrrs rd csr rs1 => some (wordI 0x73 2 rd rs1 csr)
  | .csrrc rd csr rs1 => some (wordI 0x73 3 rd rs1 csr)
  | .csrrwi rd csr uimm => some (wordI 0x73 5 rd uimm csr)
  | .csrrsi rd csr uimm => some (wordI 0x73 6 rd uimm csr)
  | .csrrci rd csr uimm => some (wordI 0x73 7 rd uimm csr)
  | .mret => some (wordI 0x73 0 0 0 0x302)
  | .wfi => some (wordI 0x73 0 0 0 0x105)
  | .bget hd hs => some (wordR 0xb 0 0x0 hd hs 0)
  | .bgetq hd hs => some (wordR 0xb 0 0x1 hd hs 0)
  | .bput hd hs => some (wordR 0xb 0 0x2 hd hs 0)
  | .bclr rd hs => some (wordR 0xb 0 0x3 rd hs 0)
  | .bpois rd hs => some (wordR 0xb 0 0x4 rd hs 0)
  | .bstat rd hs => some (wordR 0xb 0 0x5 rd hs 0)
  | .bwait hs => some (wordR 0xb 0 0x6 0 hs 0)
  | .btest rd hs => some (wordR 0xb 0 0x7 rd hs 0)
  | .brel hs => some (wordR 0xb 0 0x8 0 hs 0)
  | .bopen hs => some (wordR 0xb 0 0x9 0 hs 0)
  | .bstw hs rs1 rs2 => some (wordR 0xb 0 0xa hs rs1 rs2)
  | .bseal hs => some (wordR 0xb 0 0xb 0 hs 0)
  | .bldw rd hs rs2 => some (wordR 0xb 0 0xc rd hs rs2)
  | .hld hd rs1 => some (wordR 0xb 1 0x0 hd rs1 0)
  | .hst hs rs1 => some (wordR 0xb 1 0x1 0 rs1 hs)
  | .hmov hd hs => some (wordR 0xb 1 0x2 hd hs 0)
  | .hadv hd rs1 => some (wordR 0xb 1 0x3 hd rs1 0)
  | .hginc hd => some (wordR 0xb 1 0x4 hd 0 0)
  | .hsub hd hs rs2 => some (wordR 0xb 1 0x5 hd hs rs2)
  | .hgetf rd hs sel => some (wordI 0xb 2 rd hs sel)
  | .hsetf hd rs1 sel => some (wordI 0xb 3 hd rs1 sel)
  | .ldq w sz off rs1 rd => some (wordI 0xb 4 rd rs1 (w * 1024 + sz * 256 + off))
  | .stp w sz off rs1 rs => some (wordI 0xb 5 rs rs1 (w * 1024 + sz * 256 + off))
  | .invr rs1 rs2 => some (wordR 0xb 6 0x0 0 rs1 rs2)
  | .inva => some (wordR 0xb 6 0x1 0 0 0)
  | .yld rs1 rs2 => some (wordR 0xb 6 0x2 0 rs1 rs2)
  | .ownq rd rs1 => some (wordR 0xb 6 0x3 rd rs1 0)
  | .cntw cls => some (wordR 0xb 6 0x4 0 0 cls)
  | .cntr rd cls => some (wordR 0xb 6 0x5 rd 0 cls)
  | .facq scope rs1 => some (wordR 0xb 6 0x6 0 rs1 scope)
  | .frel scope rs1 => some (wordR 0xb 6 0x7 0 rs1 scope)
  | .far scope rs1 => some (wordR 0xb 6 0x8 0 rs1 scope)
  | .rlq rd rs1 => some (wordR 0xb 6 0x9 rd rs1 0)
  | .stpa rs1 rs2 => some (wordR 0xb 6 0xa 0 rs1 rs2)
  | .mma acc ha hb => some (wordR 0x2b 0 0x0 acc ha hb)
  | .mmaz acc ha hb => some (wordR 0x2b 0 0x1 acc ha hb)
  | .mmav acc ha hb => some (wordR 0x2b 0 0x2 acc ha hb)
  | .mmavz acc ha hb => some (wordR 0x2b 0 0x3 acc ha hb)
  | .mdrn hd acc hs2 => some (wordR 0x2b 0 0x4 hd acc hs2)
  | .mmrg acc hs => some (wordR 0x2b 0 0x5 acc hs 0)
  | .aclr acc => some (wordR 0x2b 0 0x6 acc 0 0)
  | .astat rd acc => some (wordR 0x2b 0 0x7 rd acc 0)
  | .mmsend rs1 rs2 => some (wordR 0x2b 0 0x8 0 rs1 rs2)
  | .vadd hd ha hb => some (wordR 0x2b 1 0x0 hd ha hb)
  | .vsub hd ha hb => some (wordR 0x2b 1 0x1 hd ha hb)
  | .vmul hd ha hb => some (wordR 0x2b 1 0x2 hd ha hb)
  | .vfma hd ha hb => some (wordR 0x2b 1 0x3 hd ha hb)
  | .vmax hd ha hb => some (wordR 0x2b 1 0x4 hd ha hb)
  | .vmin hd ha hb => some (wordR 0x2b 1 0x5 hd ha hb)
  | .vscl hd ha rs2 => some (wordR 0x2b 1 0x6 hd ha rs2)
  | .vaxpy hd ha hb => some (wordR 0x2b 1 0x7 hd ha hb)
  | .vfill hd rs1 => some (wordR 0x2b 1 0x8 hd rs1 0)
  | .vcopy hd ha => some (wordR 0x2b 1 0x9 hd ha 0)
  | .vexp2 hd ha => some (wordR 0x2b 1 0xa hd ha 0)
  | .vrcp hd ha => some (wordR 0x2b 1 0xb hd ha 0)
  | .vrsq hd ha => some (wordR 0x2b 1 0xc hd ha 0)
  | .vcmplt rs ha hb => some (wordR 0x2b 1 0xd rs ha hb)
  | .vcmpeq rs ha hb => some (wordR 0x2b 1 0xe rs ha hb)
  | .vsel hd ha hb => some (wordR 0x2b 1 0xf hd ha hb)
  | .vreds hd ha => some (wordR 0x2b 1 0x10 hd ha 0)
  | .vredm hd ha => some (wordR 0x2b 1 0x11 hd ha 0)
  | .vargm hd ha => some (wordR 0x2b 1 0x12 hd ha 0)
  | .verrs hd ha hb => some (wordR 0x2b 1 0x13 hd ha hb)
  | .vtrn hd ha => some (wordR 0x2b 1 0x14 hd ha 0)
  | .vcvt hd ha => some (wordR 0x2b 1 0x15 hd ha 0)
  | .cvala hd hs hs2 => some (wordR 0x2b 2 0x0 hd hs hs2)
  | .cvalb hd hs hs2 => some (wordR 0x2b 2 0x1 hd hs hs2)
  | .cvqmx hd hs hs2 => some (wordR 0x2b 2 0x2 hd hs hs2)
  | .cvdq hd hs hs2 => some (wordR 0x2b 2 0x3 hd hs hs2)
  | .cvi8 hd hs => some (wordR 0x2b 2 0x4 hd hs 0)
  | .cvrns hd hs hs2 => some (wordR 0x2b 2 0x5 hd hs hs2)
  | .cvcrt hd hs => some (wordR 0x2b 2 0x6 hd hs 0)
  | .cvlay hd hs rs2 => some (wordR 0x2b 2 0x7 hd hs rs2)
  | .cpgo rs1 rs2 => some (wordR 0x2b 3 0x0 0 rs1 rs2)
  | .cpstat rd rs1 => some (wordR 0x2b 3 0x1 rd rs1 0)
  | .cpstop rs1 => some (wordR 0x2b 3 0x2 0 rs1 0)
  | .cpwait rs1 => some (wordR 0x2b 3 0x3 0 rs1 0)
  | .sqltab rs1 rs2 => some (wordR 0x2b 4 0x0 0 rs1 rs2)
  | .sqarm rs1 rs2 => some (wordR 0x2b 4 0x1 0 rs1 rs2)
  | .sqcoef rd rs1 rs2 => some (wordR 0x2b 4 0x2 rd rs1 rs2)
  | .sqhdl hd rs1 => some (wordR 0x2b 4 0x3 hd rs1 0)
  | .sqpart rs1 rs2 => some (wordR 0x2b 4 0x4 0 rs1 rs2)
  | .sqstat rd rs1 => some (wordR 0x2b 4 0x5 rd rs1 0)
  | .sqdec hd rs1 => some (wordR 0x2b 4 0x6 hd rs1 0)
  | .fset n rs1 => some (wordI 0x5b 0 0 rs1 (0x0 * 1024 + n))
  | .fclr n rs1 => some (wordI 0x5b 0 0 rs1 (0x1 * 1024 + n))
  | .ftst rd n => some (wordI 0x5b 0 rd 0 (0x2 * 1024 + n))
  | .fwait n => some (wordI 0x5b 0 0 0 (0x3 * 1024 + n))
  | .fwclr n => some (wordI 0x5b 1 0 0 (0x0 * 1024 + n))
  | .bfs n off => some (wordI 0x5b 2 (n / 32) (n % 32) off)
  | .bfc n off => some (wordI 0x5b 3 (n / 32) (n % 32) off)
  | .barv b => some (wordI 0x5b 4 0 0 (0x0 * 256 + b))
  | .barw b => some (wordI 0x5b 4 0 0 (0x1 * 256 + b))
  | .barvw b => some (wordI 0x5b 4 0 0 (0x2 * 256 + b))
  | .semp sem => some (wordI 0x5b 4 0 0 (0x3 * 256 + sem))
  | .semv sem => some (wordI 0x5b 4 0 0 (0x4 * 256 + sem))
  | .semtry rd sem => some (wordI 0x5b 4 rd 0 (0x5 * 256 + sem))
  | .mtxl mtx => some (wordI 0x5b 4 0 0 (0x6 * 256 + mtx))
  | .mtxu mtx => some (wordI 0x5b 4 0 0 (0x7 * 256 + mtx))
  | .mtxtry rd mtx => some (wordI 0x5b 4 rd 0 (0x8 * 256 + mtx))
  | .barany rd rs1 mask => some (wordI 0x5b 4 rd rs1 (0x9 * 256 + mask))
  | .qpush q rs1 => some (wordR 0x5b 5 0x0 q rs1 0)
  | .qpop rd q => some (wordR 0x5b 5 0x1 rd q 0)
  | .qtry rd q => some (wordR 0x5b 5 0x2 rd q 0)
  | .msend rs1 rs2 => some (wordR 0x5b 5 0x3 0 rs1 rs2)
  | .mrecv rd rs1 => some (wordR 0x5b 5 0x4 rd rs1 0)
  | .mpoll rd rs1 => some (wordR 0x5b 5 0x5 rd rs1 0)
  | .hqmake rd rs1 => some (wordR 0x5b 6 0x0 rd rs1 0)
  | .hqrsv rd rs1 rs2 => some (wordR 0x5b 6 0x1 rd rs1 rs2)
  | .hqpub rs1 rs2 => some (wordR 0x5b 6 0x2 0 rs1 rs2)
  | .hqpop rd rs1 => some (wordR 0x5b 6 0x3 rd rs1 0)
  | .tspawn rd rs1 => some (wordR 0x5b 7 0x0 rd rs1 0)
  | .tdep rs1 rs2 => some (wordR 0x5b 7 0x1 0 rs1 rs2)
  | .tdone rs1 => some (wordR 0x5b 7 0x2 0 rs1 0)
  | .tnext rd => some (wordR 0x5b 7 0x3 rd 0 0)
  | .rep rs1 len stride mask => some (wordI 0x7b 0 0 rs1 (mask * 256 + stride * 8 + len))
  | .halt rs1 => some (wordR 0x7b 1 0x0 0 rs1 0)
  | .tail => some (wordR 0x7b 1 0x1 0 0 0)
  | .yield => some (wordR 0x7b 1 0x2 0 0 0)
  | .grpq rd rs1 => some (wordR 0x7b 1 0x3 rd rs1 0)
  | .prio rs1 => some (wordR 0x7b 1 0x4 0 rs1 0)
  | .tlbi rs1 rs2 => some (wordR 0x7b 2 0x0 0 rs1 rs2)
  | .tlbsync => some (wordR 0x7b 2 0x1 0 0 0)
  | .pswap rs1 => some (wordR 0x7b 2 0x2 0 rs1 0)
  | .elog rd => some (wordR 0x7b 2 0x3 rd 0 0)
  | .einj rs1 rs2 => some (wordR 0x7b 2 0x4 0 rs1 rs2)
  | .interruptTaken _ => none
  | .impreciseException _ => none
  | .hartWake _ => none
  | .engineCommandStart _ _ => none
  | .engineCommandDone _ _ => none
  | .srcStarved _ _ => none
  | .bufferedCommandStart _ _ => none
  | .commitBufferCommit _ => none
  | .commitBufferDiscard _ => none
  | .wordWrite _ => none
  | .readRequest _ => none
  | .writeRequest _ => none
  | .poisonRequest _ => none
  | .clearRequest _ => none
  | .presenceStatusRead _ => none
  | .deferRetry _ => none
  | .blockAnswerLands _ => none
  | .blockWriteAnswer _ => none
  | .remoteFlagOp _ => none
  | .msendRecordArrives _ => none
  | .msendRetry _ => none
  | .mmsendReceive _ => none
  | .loadMiss _ => none
  | .registration _ => none
  | .homeAtomicOp _ => none
  | .writeBack _ _ => none
  | .rangeLock _ => none
  | .forward _ => none
  | .transferRecall _ _ => none
  | .registrationGrant _ => none
  | .l1Fill _ => none
  | .capacityEviction _ _ => none
  | .postPerform _ => none
  | .postAck _ => none
  | .homeMigration _ _ _ => none
  | .recordFetch _ _ => none
  | .recordStart _ _ => none
  | .recordComplete _ _ => none
  | .taskStealable _ _ => none
  | .solverDecision _ _ => none
  | .decisionWriteRetry _ _ => none
  | .cellDone _ => none
  | .retentionExpiry _ => none
  | .lotteryDraw _ => none
  | .queueTailSnoop _ _ => none
  | .launchCommand _ _ _ => none
  | .copyCommand _ _ _ => none
  | .signalCommand _ _ _ => none
  | .waitCommand _ _ _ => none
  | .loadImage _ _ _ => none
  | .graphCommand _ _ _ => none
  | .swapCommand _ _ _ => none
  | .fenceCommand _ _ _ => none
  | .condNode _ _ _ => none
  | .endNode _ _ _ => none
  | .feWaitPoll _ _ _ => none
  | .feWaitWake _ _ _ => none
  | .placementAttempt _ _ _ => none
  | .reserveRequest _ _ _ _ => none
  | .placementBackoffExpiry _ _ _ => none
  | .gangRelease _ _ _ => none
  | .coalesceDeadline _ _ => none
  | .coalesceDlWrite _ _ _ => none
  | .leaseBeat _ => none
  | .leaseClaim _ => none
  | .hangMonitorFire _ => none
  | .ferryDispatch _ => none
  | .reboot _ _ => none
  | .handback _ => none
  | .feIrq _ _ _ => none
  | .fuseSvn _ _ _ => none
  | .biasCmd _ _ _ => none
  | .biasFlipComplete _ => none
  | .hostMemRead _ _ _ => none
  | .hostMemWrite _ _ _ _ => none
  | .hostLinkDown _ => none
  | .serviceContextStart _ _ _ => none
  | .bankEviction _ => none
  | .swapGraceExpiry _ => none
  | .debugHaltRequest _ _ _ => none
  | .debugHaltReached _ => none
  | .debugResume _ _ _ => none
  | .debugStep _ _ _ => none
  | .debugRegRead _ _ _ => none
  | .debugRegWrite _ _ _ => none
  | .dieElogRead _ => none
  | .dieEinj _ _ _ => none
  | .portRetrain _ _ => none
  | .registerWrite _ _ _ _ => none
  | .pageWalk _ _ _ => none
  | .linkReplay _ _ => none
  | .portDown _ _ => none
  | .linkOperationArrive _ _ _ => none
  | .destinationUnreachable _ _ => none
  | .powerOn _ => none
  | .keyStoreSign _ _ _ => none
  | .attestationRequest _ _ => none
  | .powerWindow _ _ => none
  | .powerSurge _ _ => none
  | .islandLevelChange _ _ _ => none
  | .correctableError _ _ _ _ => none
  | .uncorrectableError _ _ _ _ => none
  | .illegalInstruction _ => none
  | .instructionFetchFault _ _ => none
  | .storeWriteThrough _ _ => none
  | .portUp _ _ => none
  | .hostLinkUp _ => none

/-- The rows of major opcode 0x67 (R49, R50, R54). -/
def pickJalr (f3 rd rs1 imm : Nat) : Option Instr :=
  match f3 with
  | 0 => some (.jalr rd rs1 imm)
  | _ => none

/-- The rows of major opcode 0x63 (R49, R50, R54). -/
def pickBranch (f3 f7 rd rs1 rs2 : Nat) : Option Instr :=
  match f3 with
  | 0 => some (.beq rs1 rs2 (bOff f7 rd))
  | 1 => some (.bne rs1 rs2 (bOff f7 rd))
  | 4 => some (.blt rs1 rs2 (bOff f7 rd))
  | 5 => some (.bge rs1 rs2 (bOff f7 rd))
  | 6 => some (.bltu rs1 rs2 (bOff f7 rd))
  | 7 => some (.bgeu rs1 rs2 (bOff f7 rd))
  | _ => none

/-- The rows of major opcode 0x03 (R49, R50, R54). -/
def pickLoad (f3 rd rs1 imm : Nat) : Option Instr :=
  match f3 with
  | 0 => some (.lb rd rs1 imm)
  | 1 => some (.lh rd rs1 imm)
  | 2 => some (.lw rd rs1 imm)
  | 3 => some (.ld rd rs1 imm)
  | 4 => some (.lbu rd rs1 imm)
  | 5 => some (.lhu rd rs1 imm)
  | 6 => some (.lwu rd rs1 imm)
  | _ => none

/-- The rows of major opcode 0x23 (R49, R50, R54). -/
def pickStore (f3 f7 rd rs1 rs2 : Nat) : Option Instr :=
  match f3 with
  | 0 => some (.sb rs1 rs2 (f7 * 32 + rd))
  | 1 => some (.sh rs1 rs2 (f7 * 32 + rd))
  | 2 => some (.sw rs1 rs2 (f7 * 32 + rd))
  | 3 => some (.sd rs1 rs2 (f7 * 32 + rd))
  | _ => none

/-- The rows of major opcode 0x13 (R49, R50, R54). -/
def pickOpImm (f3 rd rs1 imm : Nat) : Option Instr :=
  match f3 with
  | 0 => some (.addi rd rs1 imm)
  | 1 =>
    match imm / 64 with
    | 0 => some (.slli rd rs1 (imm % 64))
    | _ => none
  | 2 => some (.slti rd rs1 imm)
  | 3 => some (.sltiu rd rs1 imm)
  | 4 => some (.xori rd rs1 imm)
  | 5 =>
    match imm / 64 with
    | 0 => some (.srli rd rs1 (imm % 64))
    | 0x10 => some (.srai rd rs1 (imm % 64))
    | _ => none
  | 6 => some (.ori rd rs1 imm)
  | 7 => some (.andi rd rs1 imm)
  | _ => none

/-- The rows of major opcode 0x33 (R49, R50, R54). -/
def pickOp (f3 f7 rd rs1 rs2 : Nat) : Option Instr :=
  match f3 with
  | 0 =>
    match f7 with
    | 0 => some (.add rd rs1 rs2)
    | 0x20 => some (.sub rd rs1 rs2)
    | 1 => some (.mul rd rs1 rs2)
    | _ => none
  | 1 =>
    match f7 with
    | 0 => some (.sll rd rs1 rs2)
    | 1 => some (.mulh rd rs1 rs2)
    | _ => none
  | 2 =>
    match f7 with
    | 0 => some (.slt rd rs1 rs2)
    | 1 => some (.mulhsu rd rs1 rs2)
    | _ => none
  | 3 =>
    match f7 with
    | 0 => some (.sltu rd rs1 rs2)
    | 1 => some (.mulhu rd rs1 rs2)
    | _ => none
  | 4 =>
    match f7 with
    | 0 => some (.xor rd rs1 rs2)
    | 1 => some (.div rd rs1 rs2)
    | _ => none
  | 5 =>
    match f7 with
    | 0 => some (.srl rd rs1 rs2)
    | 0x20 => some (.sra rd rs1 rs2)
    | 1 => some (.divu rd rs1 rs2)
    | _ => none
  | 6 =>
    match f7 with
    | 0 => some (.or rd rs1 rs2)
    | 1 => some (.rem rd rs1 rs2)
    | _ => none
  | 7 =>
    match f7 with
    | 0 => some (.and rd rs1 rs2)
    | 1 => some (.remu rd rs1 rs2)
    | _ => none
  | _ => none

/-- The rows of major opcode 0x0f (R49, R50, R54). -/
def pickMiscMem (f3 rd rs1 imm : Nat) : Option Instr :=
  match f3 with
  | 0 => some (.fence (imm / 256) (imm / 16 % 16) (imm % 16) rs1 rd)
  | 1 => some (.fenceI imm rs1 rd)
  | _ => none

/-- The rows of major opcode 0x73 (R49, R50, R54). -/
def pickSystem (f3 rd rs1 imm : Nat) : Option Instr :=
  match f3 with
  | 0 =>
    match imm with
    | 0 => some (.ecall)
    | 1 => some (.ebreak)
    | 0x302 => some (.mret)
    | 0x105 => some (.wfi)
    | _ => none
  | 1 => some (.csrrw rd imm rs1)
  | 2 => some (.csrrs rd imm rs1)
  | 3 => some (.csrrc rd imm rs1)
  | 5 => some (.csrrwi rd imm rs1)
  | 6 => some (.csrrsi rd imm rs1)
  | 7 => some (.csrrci rd imm rs1)
  | _ => none

/-- The rows of major opcode 0x1b (R49, R50, R54). -/
def pickOpImm32 (f3 f7 rd rs1 imm : Nat) : Option Instr :=
  match f3 with
  | 0 => some (.addiw rd rs1 imm)
  | 1 =>
    match f7 with
    | 0 => some (.slliw rd rs1 (imm % 32))
    | _ => none
  | 5 =>
    match f7 with
    | 0 => some (.srliw rd rs1 (imm % 32))
    | 0x20 => some (.sraiw rd rs1 (imm % 32))
    | _ => none
  | _ => none

/-- The rows of major opcode 0x3b (R49, R50, R54). -/
def pickOp32 (f3 f7 rd rs1 rs2 : Nat) : Option Instr :=
  match f3 with
  | 0 =>
    match f7 with
    | 0 => some (.addw rd rs1 rs2)
    | 0x20 => some (.subw rd rs1 rs2)
    | 1 => some (.mulw rd rs1 rs2)
    | _ => none
  | 1 =>
    match f7 with
    | 0 => some (.sllw rd rs1 rs2)
    | _ => none
  | 4 =>
    match f7 with
    | 1 => some (.divw rd rs1 rs2)
    | _ => none
  | 5 =>
    match f7 with
    | 0 => some (.srlw rd rs1 rs2)
    | 0x20 => some (.sraw rd rs1 rs2)
    | 1 => some (.divuw rd rs1 rs2)
    | _ => none
  | 6 =>
    match f7 with
    | 1 => some (.remw rd rs1 rs2)
    | _ => none
  | 7 =>
    match f7 with
    | 1 => some (.remuw rd rs1 rs2)
    | _ => none
  | _ => none

/-- The rows of major opcode 0x2f (R49, R50, R54). -/
def pickAmo (f3 f7 rd rs1 rs2 : Nat) : Option Instr :=
  match f3 with
  | 2 =>
    match f7 / 4 with
    | 2 => some (.lrW (f7 / 2 % 2) (f7 % 2) rd rs1)
    | 3 => some (.scW (f7 / 2 % 2) (f7 % 2) rd rs1 rs2)
    | 1 => some (.amoswapW (f7 / 2 % 2) (f7 % 2) rd rs1 rs2)
    | 0 => some (.amoaddW (f7 / 2 % 2) (f7 % 2) rd rs1 rs2)
    | 4 => some (.amoxorW (f7 / 2 % 2) (f7 % 2) rd rs1 rs2)
    | 0xc => some (.amoandW (f7 / 2 % 2) (f7 % 2) rd rs1 rs2)
    | 8 => some (.amoorW (f7 / 2 % 2) (f7 % 2) rd rs1 rs2)
    | 0x10 => some (.amominW (f7 / 2 % 2) (f7 % 2) rd rs1 rs2)
    | 0x14 => some (.amomaxW (f7 / 2 % 2) (f7 % 2) rd rs1 rs2)
    | 0x18 => some (.amominuW (f7 / 2 % 2) (f7 % 2) rd rs1 rs2)
    | 0x1c => some (.amomaxuW (f7 / 2 % 2) (f7 % 2) rd rs1 rs2)
    | _ => none
  | 3 =>
    match f7 / 4 with
    | 2 => some (.lrD (f7 / 2 % 2) (f7 % 2) rd rs1)
    | 3 => some (.scD (f7 / 2 % 2) (f7 % 2) rd rs1 rs2)
    | 1 => some (.amoswapD (f7 / 2 % 2) (f7 % 2) rd rs1 rs2)
    | 0 => some (.amoaddD (f7 / 2 % 2) (f7 % 2) rd rs1 rs2)
    | 4 => some (.amoxorD (f7 / 2 % 2) (f7 % 2) rd rs1 rs2)
    | 0xc => some (.amoandD (f7 / 2 % 2) (f7 % 2) rd rs1 rs2)
    | 8 => some (.amoorD (f7 / 2 % 2) (f7 % 2) rd rs1 rs2)
    | 0x10 => some (.amominD (f7 / 2 % 2) (f7 % 2) rd rs1 rs2)
    | 0x14 => some (.amomaxD (f7 / 2 % 2) (f7 % 2) rd rs1 rs2)
    | 0x18 => some (.amominuD (f7 / 2 % 2) (f7 % 2) rd rs1 rs2)
    | 0x1c => some (.amomaxuD (f7 / 2 % 2) (f7 % 2) rd rs1 rs2)
    | _ => none
  | _ => none

/-- The rows of major opcode 0x0b (R49, R50, R54). -/
def pickCustom0 (f3 f7 rd rs1 rs2 imm : Nat) : Option Instr :=
  match f3 with
  | 0 =>
    match f7 with
    | 0 => some (.bget rd rs1)
    | 1 => some (.bgetq rd rs1)
    | 2 => some (.bput rd rs1)
    | 3 => some (.bclr rd rs1)
    | 4 => some (.bpois rd rs1)
    | 5 => some (.bstat rd rs1)
    | 6 => some (.bwait rs1)
    | 7 => some (.btest rd rs1)
    | 8 => some (.brel rs1)
    | 9 => some (.bopen rs1)
    | 0xa => some (.bstw rd rs1 rs2)
    | 0xb => some (.bseal rs1)
    | 0xc => some (.bldw rd rs1 rs2)
    | _ => none
  | 1 =>
    match f7 with
    | 0 => some (.hld rd rs1)
    | 1 => some (.hst rs2 rs1)
    | 2 => some (.hmov rd rs1)
    | 3 => some (.hadv rd rs1)
    | 4 => some (.hginc rd)
    | 5 => some (.hsub rd rs1 rs2)
    | _ => none
  | 2 => some (.hgetf rd rs1 imm)
  | 3 => some (.hsetf rd rs1 imm)
  | 4 => some (.ldq (imm / 1024) (imm / 256 % 4) (imm % 256) rs1 rd)
  | 5 => some (.stp (imm / 1024) (imm / 256 % 4) (imm % 256) rs1 rd)
  | 6 =>
    match f7 with
    | 0 => some (.invr rs1 rs2)
    | 1 => some (.inva)
    | 2 => some (.yld rs1 rs2)
    | 3 => some (.ownq rd rs1)
    | 4 => some (.cntw rs2)
    | 5 => some (.cntr rd rs2)
    | 6 => some (.facq rs2 rs1)
    | 7 => some (.frel rs2 rs1)
    | 8 => some (.far rs2 rs1)
    | 9 => some (.rlq rd rs1)
    | 0xa => some (.stpa rs1 rs2)
    | _ => none
  | _ => none

/-- The rows of major opcode 0x2b (R49, R50, R54). -/
def pickCustom1 (f3 f7 rd rs1 rs2 : Nat) : Option Instr :=
  match f3 with
  | 0 =>
    match f7 with
    | 0 => some (.mma rd rs1 rs2)
    | 1 => some (.mmaz rd rs1 rs2)
    | 2 => some (.mmav rd rs1 rs2)
    | 3 => some (.mmavz rd rs1 rs2)
    | 4 => some (.mdrn rd rs1 rs2)
    | 5 => some (.mmrg rd rs1)
    | 6 => some (.aclr rd)
    | 7 => some (.astat rd rs1)
    | 8 => some (.mmsend rs1 rs2)
    | _ => none
  | 1 =>
    match f7 with
    | 0 => some (.vadd rd rs1 rs2)
    | 1 => some (.vsub rd rs1 rs2)
    | 2 => some (.vmul rd rs1 rs2)
    | 3 => some (.vfma rd rs1 rs2)
    | 4 => some (.vmax rd rs1 rs2)
    | 5 => some (.vmin rd rs1 rs2)
    | 6 => some (.vscl rd rs1 rs2)
    | 7 => some (.vaxpy rd rs1 rs2)
    | 8 => some (.vfill rd rs1)
    | 9 => some (.vcopy rd rs1)
    | 0xa => some (.vexp2 rd rs1)
    | 0xb => some (.vrcp rd rs1)
    | 0xc => some (.vrsq rd rs1)
    | 0xd => some (.vcmplt rd rs1 rs2)
    | 0xe => some (.vcmpeq rd rs1 rs2)
    | 0xf => some (.vsel rd rs1 rs2)
    | 0x10 => some (.vreds rd rs1)
    | 0x11 => some (.vredm rd rs1)
    | 0x12 => some (.vargm rd rs1)
    | 0x13 => some (.verrs rd rs1 rs2)
    | 0x14 => some (.vtrn rd rs1)
    | 0x15 => some (.vcvt rd rs1)
    | _ => none
  | 2 =>
    match f7 with
    | 0 => some (.cvala rd rs1 rs2)
    | 1 => some (.cvalb rd rs1 rs2)
    | 2 => some (.cvqmx rd rs1 rs2)
    | 3 => some (.cvdq rd rs1 rs2)
    | 4 => some (.cvi8 rd rs1)
    | 5 => some (.cvrns rd rs1 rs2)
    | 6 => some (.cvcrt rd rs1)
    | 7 => some (.cvlay rd rs1 rs2)
    | _ => none
  | 3 =>
    match f7 with
    | 0 => some (.cpgo rs1 rs2)
    | 1 => some (.cpstat rd rs1)
    | 2 => some (.cpstop rs1)
    | 3 => some (.cpwait rs1)
    | _ => none
  | 4 =>
    match f7 with
    | 0 => some (.sqltab rs1 rs2)
    | 1 => some (.sqarm rs1 rs2)
    | 2 => some (.sqcoef rd rs1 rs2)
    | 3 => some (.sqhdl rd rs1)
    | 4 => some (.sqpart rs1 rs2)
    | 5 => some (.sqstat rd rs1)
    | 6 => some (.sqdec rd rs1)
    | _ => none
  | _ => none

/-- The rows of major opcode 0x5b (R49, R50, R54). -/
def pickCustom2 (f3 f7 rd rs1 rs2 imm : Nat) : Option Instr :=
  match f3 with
  | 0 =>
    match imm / 1024 with
    | 0 => some (.fset (imm % 1024) rs1)
    | 1 => some (.fclr (imm % 1024) rs1)
    | 2 => some (.ftst rd (imm % 1024))
    | 3 => some (.fwait (imm % 1024))
    | _ => none
  | 1 =>
    match imm / 1024 with
    | 0 => some (.fwclr (imm % 1024))
    | _ => none
  | 2 => some (.bfs (rd * 32 + rs1) imm)
  | 3 => some (.bfc (rd * 32 + rs1) imm)
  | 4 =>
    match imm / 256 with
    | 0 => some (.barv (imm % 256))
    | 1 => some (.barw (imm % 256))
    | 2 => some (.barvw (imm % 256))
    | 3 => some (.semp (imm % 256))
    | 4 => some (.semv (imm % 256))
    | 5 => some (.semtry rd (imm % 256))
    | 6 => some (.mtxl (imm % 256))
    | 7 => some (.mtxu (imm % 256))
    | 8 => some (.mtxtry rd (imm % 256))
    | 9 => some (.barany rd rs1 (imm % 256))
    | _ => none
  | 5 =>
    match f7 with
    | 0 => some (.qpush rd rs1)
    | 1 => some (.qpop rd rs1)
    | 2 => some (.qtry rd rs1)
    | 3 => some (.msend rs1 rs2)
    | 4 => some (.mrecv rd rs1)
    | 5 => some (.mpoll rd rs1)
    | _ => none
  | 6 =>
    match f7 with
    | 0 => some (.hqmake rd rs1)
    | 1 => some (.hqrsv rd rs1 rs2)
    | 2 => some (.hqpub rs1 rs2)
    | 3 => some (.hqpop rd rs1)
    | _ => none
  | 7 =>
    match f7 with
    | 0 => some (.tspawn rd rs1)
    | 1 => some (.tdep rs1 rs2)
    | 2 => some (.tdone rs1)
    | 3 => some (.tnext rd)
    | _ => none
  | _ => none

/-- The rows of major opcode 0x7b (R49, R50, R54). -/
def pickCustom3 (f3 f7 rd rs1 rs2 imm : Nat) : Option Instr :=
  match f3 with
  | 0 => some (.rep rs1 (imm % 8) (imm / 8 % 32) (imm / 256))
  | 1 =>
    match f7 with
    | 0 => some (.halt rs1)
    | 1 => some (.tail)
    | 2 => some (.yield)
    | 3 => some (.grpq rd rs1)
    | 4 => some (.prio rs1)
    | _ => none
  | 2 =>
    match f7 with
    | 0 => some (.tlbi rs1 rs2)
    | 1 => some (.tlbsync)
    | 2 => some (.pswap rs1)
    | 3 => some (.elog rd)
    | 4 => some (.einj rs1 rs2)
    | _ => none
  | _ => none

/-- The row a word selects by its major opcode, funct3 and funct7 (R49, R50, R54), with the fields read from the word. -/
def pick (w : Nat) : Option Instr :=
  let rd := field w 7 5
  let f3 := field w 12 3
  let rs1 := field w 15 5
  let rs2 := field w 20 5
  let f7 := field w 25 7
  let imm := field w 20 12
  let imm20 := field w 12 20
  match field w 0 7 with
  | 0x37 => some (.lui rd imm20)
  | 0x17 => some (.auipc rd imm20)
  | 0x6f => some (.jal rd (jOff imm20))
  | 0x67 => pickJalr f3 rd rs1 imm
  | 0x63 => pickBranch f3 f7 rd rs1 rs2
  | 0x03 => pickLoad f3 rd rs1 imm
  | 0x23 => pickStore f3 f7 rd rs1 rs2
  | 0x13 => pickOpImm f3 rd rs1 imm
  | 0x33 => pickOp f3 f7 rd rs1 rs2
  | 0x0f => pickMiscMem f3 rd rs1 imm
  | 0x73 => pickSystem f3 rd rs1 imm
  | 0x1b => pickOpImm32 f3 f7 rd rs1 imm
  | 0x3b => pickOp32 f3 f7 rd rs1 rs2
  | 0x2f => pickAmo f3 f7 rd rs1 rs2
  | 0x0b => pickCustom0 f3 f7 rd rs1 rs2 imm
  | 0x2b => pickCustom1 f3 f7 rd rs1 rs2
  | 0x5b => pickCustom2 f3 f7 rd rs1 rs2 imm
  | 0x7b => pickCustom3 f3 f7 rd rs1 rs2 imm
  | _ => none

/-- The instruction a word holds, or why it holds none (R44, R48, R51). -/
def decodeWord (w : Nat) : Except DecodeError Instr :=
  if w % 4 ≠ 3 then .error .notWord
  else if w / 4 % 8 = 7 then .error .longer
  else match pick w with
    | none => .error .unassigned
    | some i => if i.wf && encode i == some w then .ok i else .error .field

/-- The word in four bytes, the byte at the lowest address first (R4, R44). -/
def wordOfBytes (b0 b1 b2 b3 : Byte) : Nat :=
  b0.toNat + b1.toNat * 256 + b2.toNat * 65536 + b3.toNat * 16777216

/-- The four bytes of a word, as the device stores it (R4, R44). -/
def bytesOfWord (w : Nat) : List Byte :=
  [BitVec.ofNat 8 w, BitVec.ofNat 8 (w / 256), BitVec.ofNat 8 (w / 65536), BitVec.ofNat 8 (w / 16777216)]

/-- Decode the first instruction of a byte string, and what follows it. -/
def decodeBytes : List Byte → Except DecodeError (Instr × List Byte)
  | b0 :: b1 :: b2 :: b3 :: rest =>
    match decodeWord (wordOfBytes b0 b1 b2 b3) with
    | .ok i => .ok (i, rest)
    | .error e => .error e
  | _ => .error .short

/-- The instruction the decoder reads from a word numbered as the opcode table numbers it; every instruction of this
device is one 32-bit word (R44), so `nbits` is 32. -/
def decodeTableWord (_nbits w : Nat) : Option Instr :=
  match decodeBytes (bytesOfWord w) with
  | .ok (i, _) => some i
  | .error _ => none

end Sys2Proof
end

