-- ==== Sys2Proof/Event.lean ====
section
/-!
DEFINITION. The steps that have no instruction word, as data the state can hold: the same rows as the last 107 of Instr,
with the same names and fields.
-/
namespace Sys2Proof

/-- A step of the device other than an instruction word. -/
inductive Event where
  /-- INTERRUPT_TAKEN (R63). -/
  | interruptTaken (h : HartId)
  /-- IMPRECISE_EXCEPTION (R277). -/
  | impreciseException (h : HartId)
  /-- HART_WAKE (R228). -/
  | hartWake (h : HartId)
  /-- ENGINE_COMMAND_START (R128). -/
  | engineCommandStart (c : CellId) (eng : Nat)
  /-- ENGINE_COMMAND_DONE (R129). -/
  | engineCommandDone (c : CellId) (eng : Nat)
  /-- SRC_STARVED (R128). -/
  | srcStarved (c : CellId) (eng : Nat)
  /-- BUFFERED_COMMAND_START (R157). -/
  | bufferedCommandStart (c : CellId) (proc : Nat)
  /-- COMMIT_BUFFER_COMMIT (R158). -/
  | commitBufferCommit (h : HartId)
  /-- COMMIT_BUFFER_DISCARD (R158). -/
  | commitBufferDiscard (h : HartId)
  /-- WORD_WRITE (R139). -/
  | wordWrite (id : Nat)
  /-- READ_REQUEST (R99). -/
  | readRequest (id : Nat)
  /-- WRITE_REQUEST (R99). -/
  | writeRequest (id : Nat)
  /-- POISON_REQUEST (R99). -/
  | poisonRequest (id : Nat)
  /-- CLEAR_REQUEST (R99). -/
  | clearRequest (id : Nat)
  /-- PRESENCE_STATUS_READ (R106). -/
  | presenceStatusRead (id : Nat)
  /-- DEFER_RETRY (R101). -/
  | deferRetry (id : Nat)
  /-- BLOCK_ANSWER_LANDS (R103). -/
  | blockAnswerLands (id : Nat)
  /-- BLOCK_WRITE_ANSWER (R104). -/
  | blockWriteAnswer (id : Nat)
  /-- REMOTE_FLAG_OP (R74). -/
  | remoteFlagOp (id : Nat)
  /-- MSEND_RECORD_ARRIVES (R83). -/
  | msendRecordArrives (id : Nat)
  /-- MSEND_RETRY (R83). -/
  | msendRetry (id : Nat)
  /-- MMSEND_RECEIVE (R143). -/
  | mmsendReceive (id : Nat)
  /-- LOAD_MISS (R214). -/
  | loadMiss (id : Nat)
  /-- REGISTRATION (R214). -/
  | registration (id : Nat)
  /-- HOME_ATOMIC_OP (R214). -/
  | homeAtomicOp (id : Nat)
  /-- WRITE_BACK (R214). -/
  | writeBack (c : CellId) (w : Nat)
  /-- RANGE_LOCK (R123). -/
  | rangeLock (id : Nat)
  /-- FORWARD (R213). -/
  | forward (id : Nat)
  /-- TRANSFER_RECALL (R213). -/
  | transferRecall (c : CellId) (w : Nat)
  /-- REGISTRATION_GRANT (R215). -/
  | registrationGrant (id : Nat)
  /-- L1_FILL (R213). -/
  | l1Fill (id : Nat)
  /-- CAPACITY_EVICTION (R213). -/
  | capacityEviction (c : CellId) (w : Nat)
  /-- POST_PERFORM (R114). -/
  | postPerform (id : Nat)
  /-- POST_ACK (R114). -/
  | postAck (id : Nat)
  /-- HOME_MIGRATION (R216). -/
  | homeMigration (pkg page die : Nat)
  /-- RECORD_FETCH (R168). -/
  | recordFetch (c : CellId) (ch : Nat)
  /-- RECORD_START (R163). -/
  | recordStart (c : CellId) (ch : Nat)
  /-- RECORD_COMPLETE (R167). -/
  | recordComplete (c : CellId) (ch : Nat)
  /-- TASK_STEALABLE (R184). -/
  | taskStealable (pkg task : Nat)
  /-- SOLVER_DECISION (R194). -/
  | solverDecision (d : DieId) (set : Nat)
  /-- DECISION_WRITE_RETRY (R195). -/
  | decisionWriteRetry (d : DieId) (set : Nat)
  /-- CELL_DONE (R85). -/
  | cellDone (c : CellId)
  /-- RETENTION_EXPIRY (R261). -/
  | retentionExpiry (c : CellId)
  /-- LOTTERY_DRAW (R253). -/
  | lotteryDraw (d : DieId)
  /-- QUEUE_TAIL_SNOOP (R248). -/
  | queueTailSnoop (d : DieId) (q : Nat)
  /-- LAUNCH (R256). -/
  | launchCommand (d : DieId) (q k : Nat)
  /-- COPY (R250). -/
  | copyCommand (d : DieId) (q k : Nat)
  /-- SIGNAL (R250). -/
  | signalCommand (d : DieId) (q k : Nat)
  /-- WAIT (R250). -/
  | waitCommand (d : DieId) (q k : Nat)
  /-- LOAD (R251). -/
  | loadImage (d : DieId) (q k : Nat)
  /-- GRAPH (R252). -/
  | graphCommand (d : DieId) (q k : Nat)
  /-- SWAP (R282). -/
  | swapCommand (d : DieId) (q k : Nat)
  /-- FENCE_COMMAND (R250). -/
  | fenceCommand (d : DieId) (q k : Nat)
  /-- COND (R252). -/
  | condNode (d : DieId) (q k : Nat)
  /-- END (R252). -/
  | endNode (d : DieId) (q k : Nat)
  /-- FE_WAIT_POLL (R250). -/
  | feWaitPoll (d : DieId) (q k : Nat)
  /-- FE_WAIT_WAKE (R250). -/
  | feWaitWake (d : DieId) (q k : Nat)
  /-- PLACEMENT_ATTEMPT (R257). -/
  | placementAttempt (d : DieId) (q k : Nat)
  /-- RESERVE_REQUEST (R257). -/
  | reserveRequest (c : CellId) (d : DieId) (q k : Nat)
  /-- PLACEMENT_BACKOFF_EXPIRY (R257). -/
  | placementBackoffExpiry (d : DieId) (q k : Nat)
  /-- GANG_RELEASE (R259). -/
  | gangRelease (d : DieId) (q k : Nat)
  /-- COALESCE_DEADLINE (R262). -/
  | coalesceDeadline (d : DieId) (ring : Nat)
  /-- COALESCE_DL_WRITE (R262). -/
  | coalesceDlWrite (d : DieId) (ring value : Nat)
  /-- LEASE_BEAT (R263). -/
  | leaseBeat (d : DieId)
  /-- LEASE_CLAIM (R263). -/
  | leaseClaim (d : DieId)
  /-- HANG_MONITOR_FIRE (R266). -/
  | hangMonitorFire (d : DieId)
  /-- FERRY_DISPATCH (R267). -/
  | ferryDispatch (d : DieId)
  /-- REBOOT (R264). -/
  | reboot (d : DieId) (agent : Nat)
  /-- HANDBACK (R264). -/
  | handback (d : DieId)
  /-- FE_IRQ (R246). -/
  | feIrq (d : DieId) (agent value : Nat)
  /-- FUSE_SVN (R246). -/
  | fuseSvn (d : DieId) (agent value : Nat)
  /-- BIAS_CMD (R295). -/
  | biasCmd (d : DieId) (agent value : Nat)
  /-- BIAS_FLIP_COMPLETE (R296). -/
  | biasFlipComplete (d : DieId)
  /-- HOST_MEM_READ (R293). -/
  | hostMemRead (pkg addr size : Nat)
  /-- HOST_MEM_WRITE (R293). -/
  | hostMemWrite (pkg addr size value : Nat)
  /-- HOST_LINK_DOWN (R297). -/
  | hostLinkDown (pkg : Nat)
  /-- SERVICE_CONTEXT_START (R278). -/
  | serviceContextStart (c : CellId) (agent value : Nat)
  /-- BANK_EVICTION (R279). -/
  | bankEviction (h : HartId)
  /-- SWAP_GRACE_EXPIRY (R283). -/
  | swapGraceExpiry (c : CellId)
  /-- DEBUG_HALT_REQUEST (R287). -/
  | debugHaltRequest (c : CellId) (agent value : Nat)
  /-- DEBUG_HALT_REACHED (R287). -/
  | debugHaltReached (c : CellId)
  /-- DEBUG_RESUME (R287). -/
  | debugResume (c : CellId) (agent value : Nat)
  /-- DEBUG_STEP (R287). -/
  | debugStep (c : CellId) (agent value : Nat)
  /-- DEBUG_REG_READ (R288). -/
  | debugRegRead (c : CellId) (agent value : Nat)
  /-- DEBUG_REG_WRITE (R288). -/
  | debugRegWrite (c : CellId) (agent value : Nat)
  /-- DIE_ELOG_READ (R316). -/
  | dieElogRead (d : DieId)
  /-- DIE_EINJ (R317). -/
  | dieEinj (d : DieId) (agent value : Nat)
  /-- PORT_RETRAIN (R300). -/
  | portRetrain (pkg port : Nat)
  /-- REGISTER_WRITE (R246). -/
  | registerWrite (d : DieId) (agent off value : Nat)
  /-- PAGE_WALK (R274). -/
  | pageWalk (d : DieId) (part va : Nat)
  /-- LINK_REPLAY (R300). -/
  | linkReplay (pkg port : Nat)
  /-- PORT_DOWN (R300). -/
  | portDown (pkg port : Nat)
  /-- LINK_OPERATION_ARRIVE (R301). -/
  | linkOperationArrive (src dst lane : Nat)
  /-- DESTINATION_UNREACHABLE (R303). -/
  | destinationUnreachable (src dst : Nat)
  /-- POWER_ON (R306). -/
  | powerOn (pkg : Nat)
  /-- KEY_STORE_SIGN (R312). -/
  | keyStoreSign (d : DieId) (len msg : Nat)
  /-- ATTESTATION_REQUEST (R311). -/
  | attestationRequest (pkg nonce : Nat)
  /-- POWER_WINDOW (R315). -/
  | powerWindow (pkg watts : Nat)
  /-- POWER_SURGE (R315). -/
  | powerSurge (pkg watts : Nat)
  /-- ISLAND_LEVEL_CHANGE (R314). -/
  | islandLevelChange (d : DieId) (n level : Nat)
  /-- CORRECTABLE_ERROR (R317). -/
  | correctableError (c : CellId) (array addr synd : Nat)
  /-- UNCORRECTABLE_ERROR (R317). -/
  | uncorrectableError (c : CellId) (array addr synd : Nat)
  /-- ILLEGAL_INSTRUCTION (R51). -/
  | illegalInstruction (word : Nat)
  /-- INSTRUCTION_FETCH_FAULT (R275). -/
  | instructionFetchFault (cause va : Nat)
  /-- STORE_WRITE_THROUGH (R213). -/
  | storeWriteThrough (id die : Nat)
  /-- PORT_UP (R300). -/
  | portUp (pkg port : Nat)
  /-- HOST_LINK_UP (R297). -/
  | hostLinkUp (pkg : Nat)
  deriving DecidableEq, Repr

end Sys2Proof
end

