-- ==== Sys2Proof/Config.lean ====
section
/-!
DEFINITION. What the manual leaves to an implementation or to outside parties, and the results of the named standards the
manual does not restate. Each is a constant without a body: a claim about the machine holds whatever it is.
-/
namespace Sys2Proof.Config

/-- Which of the agents that may act next does so, at a count of steps: arrival order and interleaving (R102, R212, R217).
DESIGN CHOICE, log 2. -/
opaque pick : Nat → Nat

/-- What an outside party (host, firmware, debugger, link, power, a failing array) does at a count of steps, if anything.
DESIGN CHOICE, log 3. -/
opaque outside : Nat → Option Event

/-- Arithmetic-clock cycles that pass in one step of a processor (R6, R11: mcycle). DESIGN CHOICE, log 7. -/
opaque cycles : Nat → Nat

/-- The word, by its cell and a virtual address in the cell's partition, that a load brings into the cell's L1 before the loads and branches that
precede it have performed, at a count of steps (R219, R319). DESIGN CHOICE, log 4. -/
opaque early : Nat → Option (CellId × Word)

/-- The direction in which a branch that waits for a flag or a scalar result is predicted (R156). DESIGN CHOICE, log 5. -/
opaque predictTaken : Nat → Bool

/-- Whether the scalar result that a base branch tests is not yet available, so that the branch is predicted (R156), at a count of steps.
DESIGN CHOICE, log 5. -/
opaque branchWaits : Nat → Bool

/-- The physical page Xankibo takes for a page of an image (R251 step 3), by partition, virtual page and a fresh count.
DESIGN CHOICE, log 8. -/
opaque loadPage : Nat → Nat → Nat → Nat

/-- Whether a partition's share can supply an image's pages (R251), by partition and number of pages. DESIGN CHOICE, log 8. -/
opaque shareSupplies : Nat → Nat → Bool

/-- Planes of a decoded AV1 frame by bitstream bytes, stream, depth, width and height, and the frames the stream holds;
none where the bitstream does not decode (R166). The decoding is the AV1 standard's. DESIGN CHOICE, log 11. -/
opaque av1Luma : List Byte → List Nat → Nat → Nat → Nat → Option (List Nat)

/-- The chroma samples of the same frame, U then V (R166). DESIGN CHOICE, log 11. -/
opaque av1Chroma : List Byte → List Nat → Nat → Nat → Nat → List Nat

/-- The frame of a stream's reference store that a bitstream references, if it is poisoned (R166). DESIGN CHOICE, log 11. -/
opaque av1References : List Byte → List Nat

/-- SHAKE256 of FIPS 202: output length in bytes, then the message (R306, R310, R311). DESIGN CHOICE, log 11. -/
opaque shake256 : Nat → List Byte → List Byte

/-- PureEdDSA Ed448 verification of RFC 8032: public key, message, signature (R306). DESIGN CHOICE, log 11. -/
opaque ed448Verify : List Byte → List Byte → List Byte → Bool

/-- PureEdDSA Ed448 signature of RFC 8032 with the package's identity key (R309, R312). DESIGN CHOICE, log 11. -/
opaque ed448Sign : Nat → List Byte → List Byte

/-- The package's public identity key (R309), derived from a fused seed. DESIGN CHOICE, log 11. -/
opaque idPub : Nat → List Byte

/-- The key digest fused on a die (R306). DESIGN CHOICE, log 11. -/
opaque fusedDigest : DieId → List Byte

/-- The minimum security version fused on a die before any update (R308: reset "Fuse"). DESIGN CHOICE, log 11. -/
opaque fusedSvn : DieId → Nat

/-- Number of words of an error-log array (R93: an address beyond it arms nothing), by array identifier. DESIGN CHOICE, log
12. -/
opaque arrayWords : Nat → Nat

/-- What a scratch block that is POISON holds, by a fresh count: it holds no data (R129), and no rule states what a reader of
its sideband or its bytes finds. DESIGN CHOICE, log 12. -/
opaque poisonData : Nat → BitVec 32768

/-- The sideband of a scratch block that is POISON, by a fresh count. DESIGN CHOICE, log 12. -/
opaque poisonSide : Nat → BitVec 512

/-- A byte of the control granule of an evicted context, by what the granule holds: its layout and check word are the
implementation's (R280). DESIGN CHOICE, log 10. -/
opaque controlByte : List Nat → Nat → Byte

/-- The cells firmware has assigned to a partition, of those that hold none (R282), by partition. DESIGN CHOICE, log 13. -/
opaque assigned : Nat → CellId → Bool

/-- The L1 bank that holds the words of a line, by the line and a fresh count (R234). DESIGN CHOICE, log 9. -/
opaque l1Bank : Nat → Nat → Nat

/-- A byte of a package's boot flash as it stands at power-on, by offset (R306). DESIGN CHOICE, log 1. -/
opaque flashByte : Nat → Nat → Byte

/-- A read of a slot of the flash by a die's boot ROM fails, by die, slot and a count of steps (R306: code 6). DESIGN CHOICE, log 3. -/
opaque flashError : DieId → Nat → Nat → Bool

/-- What firmware writes to the boot flash at a count of steps, if anything: package, offset and byte (R318 steps 1 and 2). DESIGN CHOICE,
log 3. -/
opaque flashWrite : Nat → Option (Nat × Nat × Byte)

/-- The host physical address at which the HDM decoder of a package starts: HDMBASE (R291). DESIGN CHOICE, log 13. -/
opaque hdmBase : Nat → Nat

/-- The HBM of a package that firmware does not reserve, in units of 256 MiB: HDMSIZE (R291). DESIGN CHOICE, log 13. -/
opaque hdmBlocks : Nat → Nat

/-- The key store finds an error in its own state, at a count of steps (R312). DESIGN CHOICE, log 3. -/
opaque keyStoreFails : Nat → Bool

/-- The page of a package's HBM, modulo their number, that firmware chooses for LEASE and BEAT (R263). DESIGN CHOICE, log 13. -/
opaque leasePage : Nat → Nat

/-- The bytes that stand for the partition map in the CFG digest, by the partition of each cell (R311). DESIGN CHOICE, log 12. -/
opaque partitionMap : List Nat → List Byte

/-- The package at the far end of a port (R302). DESIGN CHOICE, log 13. -/
opaque peer : Nat → Nat → Nat

/-- What stands at a word of an array (R316): the number of the object that an error of the word strikes. DESIGN CHOICE, log 14. -/
opaque arrayObject : Nat → Nat → Nat

/-- A value no rule states, by a name of the place it arises and the operands. DESIGN CHOICE, log 12. -/
opaque unstated : Nat → Nat → Nat → Nat

end Sys2Proof.Config
end

