-- ==== Sys2Proof/Machine/State.lean ====
section
/-!
DEFINITION. The state of the machine: every piece of state the manual gives a hart, a cell, a die, a package and the links,
as plain data. Things named by a number are lists of pairs; a name that is not listed has the value the unit has at reset.
-/
namespace Sys2Proof.Machine

open Host

/-! ### Association lists -/

/-- The value listed for a key, if any. -/
def lookup {κ α : Type} [DecidableEq κ] (k : κ) : List (κ × α) → Option α
  | [] => none
  | (k', v) :: l => if k' = k then some v else lookup k l

/-- List a value for a key, in place of the one listed before. -/
def store {κ α : Type} [DecidableEq κ] (k : κ) (v : α) : List (κ × α) → List (κ × α)
  | [] => [(k, v)]
  | (k', v') :: l => if k' = k then (k, v) :: l else (k', v') :: store k v l

/-- Drop a key. -/
def erase {κ α : Type} [DecidableEq κ] (k : κ) : List (κ × α) → List (κ × α)
  | [] => []
  | (k', v') :: l => if k' = k then erase k l else (k', v') :: erase k l

/-! ### Why a step can stop -/

/-- Why a step could stop with a fault: it never does. The manual ends no run, and what an instruction meets is a trap that its
hart takes. -/
inductive Fault where
  /-- Raised by no definition. Safe. -/
  | unused
  deriving DecidableEq, Repr

/-- The one way a step can be refused. -/
inductive Refusal where
  /-- Raised by an arm of exec whose instruction has no meaning in this model. Safe. -/
  | notModelled (mnemonic : String)
  deriving DecidableEq, Repr

/-! ### Harts -/

/-- The privilege mode (R9). -/
inductive Mode where
  | u
  | m
  deriving DecidableEq, Repr

/-- Whether a hart exists and runs (R85, R86, R225). -/
inductive HartStatus where
  /-- Its bit is clear in the hart mask, or nothing was launched (R225). -/
  | absent
  /-- It runs. -/
  | running
  /-- It has halted (R85). -/
  | halted
  /-- It ended by `tail`, and the retirement tracker still follows its stores (R86). -/
  | tracked
  deriving DecidableEq, Repr

/-- The CSRs a hart holds (R11, R12), each with the bits its row implements. -/
structure HartCsrs where
  mstatus : Word
  mie : Word
  mtvec : Word
  mcounteren : Word
  mscratch : Word
  mepc : Word
  mcause : Word
  mtval : Word
  /-- Pending bits 3, 11, 17 and 18; bits 16 and 19 follow from the ring and the log (R276). -/
  mip : Word
  mcycle : Word
  minstret : Word
  mxFmt : Word
  mxAexp : Word
  mxBexp : Word
  mxDrn : Word
  mxSticky : Word
  mxCapout : Word
  veRm : Word
  veAtol : Word
  veRtol : Word
  msScope : Word
  repState : Word
  cvScale : Word
  veS : Word
  veC : Word
  veFbase : Word
  efPtr : Word
  deriving DecidableEq, Repr

/-- An active hardware loop (R72): the body, the operands of `rep`, and where the loop stands. -/
structure Loop where
  start : Word
  len : Nat
  stride : Nat
  mask : Nat
  rem : Nat
  idx : Nat
  ofs : Nat
  deriving DecidableEq, Repr

/-- What a parked or waiting hart waits for. `abandon` is held beside it: an allowed interrupt abandons the wait (R70, R97,
R161). -/
inductive WaitKind where
  /-- An answer or a hand-over that is put in the hart's `answer`. -/
  | answer
  /-- Local flag n (R75). -/
  | flag (n : Nat)
  /-- The phase of the hart's arrival at barrier b (R77). -/
  | barrier (b : Nat)
  /-- Any of the listed barriers (R78). -/
  | anyBarrier (bs : List Nat)
  /-- No listed scratch block is FILLING or DRAINING (R104, R108, R109). -/
  | tiles (bs : List Nat)
  /-- A scratch block is neither EMPTY nor FILLING (R107: `bldw`). -/
  | tileData (b : Nat)
  /-- A non-pad record in channel c (R84). -/
  | message (c : Nat)
  /-- Copy channel c is idle (R170, R172). -/
  | channel (c : Nat)
  /-- A bit of mie AND mip (R64). -/
  | interrupt
  /-- Room in the die's miss table for its miss (R274). -/
  | admission
  /-- A condition that the instruction itself tests when it is taken up again. -/
  | retry
  deriving DecidableEq, Repr

/-- A wait. -/
structure Wait where
  kind : WaitKind
  abandon : Bool
  deriving DecidableEq, Repr

/-- What reached a waiting instruction. -/
inductive Answer where
  | done
  | word (v : Word)
  /-- The word as the cell that owns it holds it: no message of the home (R213, R214). -/
  | supplied (owner : CellId) (v : Word)
  | trap (cause : Nat) (tval : Word)
  deriving DecidableEq, Repr

/-- A piece of a byte range that lies on one page: qualified address, number of bytes, page kind, home, and the KIND of its leaf. -/
structure Seg where
  qa : Nat
  len : Nat
  kind : Nat
  home : DieId
  leaf : Nat
  deriving DecidableEq, Repr

/-- A row of a drain to register (R139): the virtual address, the piece, and its post class. -/
structure RowReq where
  va : Word
  seg : Seg
  cls : Nat
  deriving DecidableEq, Repr

/-- The part of a waiting instruction that is already done. -/
inductive Progress where
  /-- `bget` or `bput` has sent its requests (R103, R104): those not yet answered, and the failures so far, as index of the
  block and cause. -/
  | blocks (ids : List Nat) (bad : List (Nat × Nat))
  /-- The single request or lock of the instruction is under way. -/
  | asked (id : Nat)
  /-- `tspawn` has taken a slot for its task and stores its id (R182), or it has stored it. -/
  | spawning (id : Nat) (stored : Bool)
  /-- The arrival of `barvw` is counted (R77). -/
  | arrived
  /-- The rows of an `mdrn` that are being locked, and those still to be registered (R139). -/
  | rows (ids : List Nat) (left : List RowReq)
  /-- Words already loaded or stored, of an instruction that makes several accesses. -/
  | words (vs : List Word)
  /-- The words of a message already stored by `mrecv`, which holds the channel meanwhile (R84). -/
  | receiving (ch : Nat) (vs : List Word)
  /-- The words that `yld` has sent for write-back (R120). -/
  | yields (ws : List Nat)
  /-- The releases, posts and retained objects are settled up to this stage of a `halt` or release. -/
  | stage (n : Nat)
  deriving DecidableEq, Repr

/-- An open predicted branch (R156): where the branch stands, the direction taken, and what a mispredict restores. -/
structure Spec where
  branchPc : Word
  /-- The flag that the branch waits for; none for a branch that waits for a scalar result. -/
  flag : Option Nat
  /-- The flag value for which the predicted path is right; of a branch on scalars, whether it is right. -/
  expect : Bool
  /-- Another hart of the cell has handed work over by the flag since the branch was predicted (R71). -/
  handed : Bool
  otherPc : Word
  savedX : Vector Word 32
  savedMinstret : Word
  deriving DecidableEq, Repr

/-- The engine fault record of R277, as the values that go into it. -/
structure FaultRecord where
  cause : Nat
  sub : Nat
  src : Nat
  ovf : Nat
  seq : Nat
  addr : Word
  tgt : Word
  insn : Nat
  deriving DecidableEq, Repr

/-- A context: the state of a hart (R9) and what the model keeps of an instruction under way. -/
structure Hart where
  status : HartStatus
  pc : Word
  mode : Mode
  x : Vector Word 32
  h : Vector (BitVec 256) 16
  csr : HartCsrs
  prio : Nat
  loop : Option Loop
  /-- Barriers whose pending bit is set, with the phase of the arrival (R77). -/
  bars : List (Nat × Nat)
  /-- Barriers whose `barvw` was abandoned after its arrival, so that re-execution resumes the wait (R77). -/
  resumed : List Nat
  baranyPtr : Nat
  wait : Option Wait
  answer : Option Answer
  /-- The instruction at the pc has begun a wait that no interrupt abandons, so that it completes before one is taken (R128,
  R277). -/
  stalled : Bool
  /-- The instruction at the pc has parked: it completes during a debug halt when its condition becomes true (R287). -/
  parked : Bool
  /-- The virtual page whose walk faulted for the instruction under way (R272: no entry is made). -/
  walkFault : Option (Nat × Nat)
  /-- The instruction word under way: one that waits and is taken up again is not fetched again (log 4). -/
  insn : Option Nat
  op : Option Progress
  /-- The oldest open predicted branch (R156). -/
  spec : Option Spec
  /-- The predicted branches that are open on its path, oldest first (R156). -/
  younger : List Spec
  postDie : Nat
  postPkg : Nat
  postSys : Nat
  /-- The pending imprecise exception (R277). -/
  imprecise : Option FaultRecord
  /-- The context is a service context (R278). -/
  service : Bool
  /-- Granules not yet filled from the save area after an eviction (R280): 0 to 3 for x, 4 and 5 for h. -/
  absent : List Nat
  /-- The bank was evicted (R279). -/
  evicted : Bool
  deriving DecidableEq, Repr

/-- The CSRs at a hart's start (R10: the Reset column of R11 and R12). mtvec's number is the model's: DESIGN CHOICE, log 1. -/
def HartCsrs.reset : HartCsrs where
  mstatus := 0
  mie := 0
  mtvec := 0
  mcounteren := 5
  mscratch := 0
  mepc := 0
  mcause := 0
  mtval := 0
  mip := 0
  mcycle := 0
  minstret := 0
  mxFmt := 0x101
  mxAexp := 0x7F
  mxBexp := 0x7F
  mxDrn := 0x08
  mxSticky := 0
  mxCapout := 0
  veRm := 0
  veAtol := 0
  veRtol := 0
  msScope := 3
  repState := 0
  cvScale := 0x3F800000
  veS := 0
  veC := 0
  veFbase := 0
  efPtr := 0

/-- A hart before any launch: absent, with the values R10 gives a hart at its start and pc 0 (DESIGN CHOICE, log 1). -/
def Hart.reset : Hart where
  status := .absent
  pc := 0
  mode := .u
  x := Vector.replicate 32 0
  h := Vector.replicate 16 0
  csr := HartCsrs.reset
  prio := 3
  loop := none
  bars := []
  resumed := []
  baranyPtr := 0
  wait := none
  answer := none
  stalled := false
  parked := false
  walkFault := none
  insn := none
  op := none
  spec := none
  younger := []
  postDie := 0
  postPkg := 0
  postSys := 0
  imprecise := none
  service := false
  absent := []
  evicted := false

/-! ### The cell -/

/-- The scratch tile states (R19). -/
inductive TileState where
  | empty
  | filling
  | full
  | draining
  | refused
  | poison
  deriving DecidableEq, Repr

/-- A scratch block: its state, 4,096 data bytes and 64 sideband bytes, the byte at the lowest offset in the least
significant bits; the hart that holds it open (R110); and a pending `brel` with the commands it waits for (R109). -/
structure Tile where
  st : TileState
  data : BitVec 32768
  side : BitVec 512
  opener : Option Nat
  brel : Option (List Nat)
  deriving DecidableEq, Repr

/-- An RN30 value: residues modulo 1023, 1024 and 1025 (R201). -/
abbrev Rn30 := Nat × Nat × Nat

/-- An accumulator tile (R17, R132): 32 x 32 values row-major (a value not listed is zero), the status word, and the
exponent latch. -/
structure AccTile where
  vals : List Rn30
  status : Word
  latched : Bool
  ea : List Nat
  eb : List Nat
  deriving DecidableEq, Repr

/-- The CSR values an engine command captures (R13). -/
structure Captured where
  fmt : Nat
  aexp : Nat
  bexp : Nat
  drn : Nat
  rm : Nat
  atol : Nat
  rtol : Nat
  scale : Nat
  s : Nat
  fbase : Nat
  deriving DecidableEq, Repr

/-- What a started command will write when it is done (R129): scratch blocks (none: poison), flags in order, the rows of a
drain, and a sub-code that is reported after completion (R149). -/
structure EngineResult where
  blocks : List (Nat × Option (BitVec 32768 × BitVec 512))
  flags : List (Nat × Bool)
  rows : List (List Byte)
  late : Nat
  deriving DecidableEq, Repr

/-- An engine command (R127, R128): the instruction, the context that issued it with its partition, the descriptor of a
command that came by `mmsend` (R143), the handles, CSR values and scalar it captured, minstret and the instruction word for
its fault record, the operations of its WSPAN rows (R139), and what it will write once it has started. -/
structure Cmd where
  id : Nat
  instr : Instr
  src : HartId
  part : Nat
  desc : Option Word
  hd : BitVec 256
  ha : BitVec 256
  hb : BitVec 256
  hc : BitVec 256
  csr : Captured
  xv : Word
  seq : Nat
  insn : Nat
  rows : List Nat
  result : Option EngineResult
  deriving DecidableEq, Repr

/-- A semaphore (R79): count, parked `semp` harts, parked `semv` harts, in order. -/
structure Sem where
  count : Nat
  takers : List Nat
  givers : List Nat
  deriving DecidableEq, Repr

/-- A mutex (R80): holder and parked harts in order. -/
structure Mutex where
  holder : Option Nat
  waiters : List Nat
  deriving DecidableEq, Repr

/-- A queue register (R81): entries oldest first, named-pipe binding (producer, consumer), parked pushers with the value
they push, parked poppers. -/
structure QueueReg where
  entries : List Word
  pipe : Option (Nat × Nat)
  pushers : List (Nat × Word)
  poppers : List Nat
  deriving DecidableEq, Repr

/-- A message channel (R82): head, tail and used count, in words, and the 32 words of its ring by index. -/
structure MsgRing where
  head : Nat
  tail : Nat
  used : Nat
  ring : List (Nat × Word)
  deriving DecidableEq, Repr

/-- A unit that a running record has read and has still to write: data, sideband, poison (R163, R164). -/
structure Moved where
  data : BitVec 32768
  side : BitVec 512
  poison : Bool
  deriving DecidableEq, Repr

/-- The record in flight of a copy channel (R163 to R168): its address and its bytes, the range-lock operations of the record
and of its WORD sides, how far it is (0 not started, 1 to lock its sides, 2 moving, 3 to 7 the steps of R167), the next unit,
the read or the write of a unit under way, the unit read, posted writes not acknowledged, the scratch block it drains, the
remote flag operation of step 3, the decoded frame of a DECODE record (luma and chroma samples; none inside: poisoned), and the decode
engine that it started on (R260). -/
structure RecRun where
  addr : Nat
  bytes : BitVec 2048
  lock : Nat
  sides : List Nat
  stage : Nat
  next : Nat
  reading : Option Nat
  writing : Option Nat
  ready : Option Moved
  posts : List Nat
  draining : Option Nat
  flagOp : Option Nat
  frame : Option (Option (List Nat × List Nat))
  engine : Nat
  deriving DecidableEq, Repr

/-- A copy channel (R168 to R172). -/
structure Channel where
  busy : Bool
  ended : Nat
  recAddr : Nat
  corrupt : Bool
  owner : Option HartId
  /-- The mode of the owner at the `cpgo`, under which the chain's accesses are checked. -/
  mode : Mode
  seq : Nat
  /-- Address of the next record to fetch; 0 when prefetch has stopped. -/
  fetch : Nat
  /-- The chain's fetched records, oldest first: address, the 256 bytes, and the range-lock operation. -/
  cache : List (Nat × BitVec 2048 × Nat)
  /-- Why prefetch stopped: the chain reaches a record that is unowned, or whose fetch failed with a sub-code. -/
  unowned : Bool
  failed : Option (Nat × Nat)
  cur : Option RecRun
  stopping : Bool
  /-- The sub-code of the fault that ended the last chain; 0 for none (R250: DETAIL of a COPY command). -/
  sub : Nat
  deriving DecidableEq, Repr

/-- A word held in the L1 (R213): OWNED or VALID, with its data. -/
structure L1Word where
  owned : Bool
  data : Word
  deriving DecidableEq, Repr

/-- A cached translation (R272): partition, the package whose window root was walked (or the cell's own package), the page's
virtual base and size, its qualified physical base, and the leaf's fields. -/
structure TlbEntry where
  part : Nat
  win : Nat
  va : Nat
  size : Nat
  pa : Nat
  kind : Nat
  pin : Bool
  us : Bool
  ex : Bool
  wr : Bool
  rd : Bool
  deriving DecidableEq, Repr

/-- An unread error-log entry and whether it has been read (R92). -/
abbrev LogEntry := Word

/-- An entry of a commit buffer (R156): the command it will become, its engine, whether a staged result is held, the number of the
hart's open branches that are older than it, which is its tag, and the rows that it registers once it commits (R157). -/
structure Buffered where
  cmd : Cmd
  eng : Nat
  staged : Bool
  tag : Nat
  rows : List RowReq
  deriving DecidableEq, Repr

/-- A retention (R261): the partition and the kernel SUCC it is for, and the shape of the retained rectangle (0 for a gang that
was scattered). -/
structure Retention where
  part : Nat
  succ : Nat
  width : Nat
  height : Nat
  deriving DecidableEq, Repr

/-- A cell's place in the front end's protocol (R257, R261). -/
inductive CellUse where
  | idle
  /-- Reserved for a launch: die, queue and running command of the requester, and the retention it claims. -/
  | reserved (d : DieId) (q k : Nat) (kept : Option Retention)
  /-- Part of a gang. -/
  | busy
  /-- Retained (R261). -/
  | retained (r : Retention)
  deriving DecidableEq, Repr

/-- The part of a cell that a berth swap exchanges (R284). -/
structure CellCtx where
  part : Nat
  gang : Option Nat
  rank : Nat
  use : CellUse
  flags : BitVec 1024
  /-- Harts parked on a flag, in order: flag, hart, and whether the wait clears it (R75). -/
  flagWaiters : List (Nat × Nat × Bool)
  sems : List (Nat × Sem)
  mutexes : List (Nat × Mutex)
  queues : List (Nat × QueueReg)
  rings : List (Nat × MsgRing)
  tiles : List (Nat × Tile)
  accs : List (Nat × AccTile)
  /-- The command queues of the matrix unit, the vector engine and the conversion engine: the first command may have
  started (R128). -/
  mq : List Cmd
  vq : List Cmd
  cq : List Cmd
  commit : List Buffered
  chans : List (Nat × Channel)
  capin : Nat
  spad : Nat
  /-- Harts whose `tail` still holds mutexes and barriers (R86). -/
  retainBit : Bool
  succ : Nat
  lastHalted : Bool
  deriving DecidableEq, Repr

/-- A service context that is to start: slot, tiles, priority and pc as they stood when GO was written (R278, R281). -/
structure Starting where
  slot : Nat
  tiles : List Nat
  prio : Nat
  pc : Word
  deriving DecidableEq, Repr

/-- A cell. -/
structure Cell where
  ctx : CellCtx
  /-- The berthed partition with its image and its harts' contexts (R282 to R284). -/
  berth : Option (CellCtx × List (Nat × Hart))
  l1 : List (Nat × L1Word)
  istore : List (Nat × Nat)
  /-- Words of the instruction store that hold an uncorrectable error not yet found: physical address, array address, syndrome
  (R275, R289). -/
  istoreBad : List (Nat × Nat × Nat)
  tlb : List TlbEntry
  dbg : Word
  dbgCmd : Word
  dbgData : Word
  elog : List LogEntry
  /-- Entries recorded so far; the newest has this number less one, modulo 16, as its INDEX. -/
  elogCount : Nat
  einj : Option (Nat × Nat × Nat)
  /-- Round-robin pointer of processor p, level l, at 4 p + l (R226); not listed: the processor's highest hart. -/
  rr : List (Nat × Nat)
  ctxCtl : Word
  ctxPc : Word
  csave : Word
  /-- Gang contexts pre-empted by a service context, by slot (R278). An operation of a service context names its hart by the
  slot plus 32, so that it is told from one of the gang context. -/
  preempted : List (Nat × Hart)
  /-- The tiles that a service context saved, by slot (R281). -/
  savedTiles : List (Nat × List Nat)
  /-- Service contexts that are to start (R278, R279, R281). -/
  starting : List Starting
  /-- How far a swap is (R283): 0 none, 1 requested, 2 GRACE runs, 3 issue has stopped; the hart that waits for it, with its
  partition. -/
  swap : Nat
  swapWaiter : Option (HartId × Nat)
  /-- A debug halt has been asked for and is not reached (R287): the DCAUSE it will have; 0 none. -/
  haltCause : Nat
  /-- STEP: hart SEL has still to run its one instruction (R287). -/
  stepping : Bool
  deriving DecidableEq, Repr

/-- A scratch block at launch (R18: EMPTY), with zero contents. -/
def Tile.reset : Tile := ⟨.empty, 0, 0, none, none⟩

/-- A zeroed accumulator tile (R17, R132). -/
def AccTile.reset : AccTile := ⟨[], 0, false, [], []⟩

/-- A channel that never ran (R171: END 0). -/
def Channel.reset : Channel where
  busy := false
  ended := 0
  recAddr := 0
  corrupt := false
  owner := none
  mode := .u
  seq := 0
  fetch := 0
  cache := []
  unowned := false
  failed := none
  cur := none
  stopping := false
  sub := 0

/-- A cell's exchangeable part before a launch (R18: the values at launch). -/
def CellCtx.reset : CellCtx where
  part := 0xFF
  gang := none
  rank := 0
  use := .idle
  flags := 0
  flagWaiters := []
  sems := []
  mutexes := []
  queues := []
  rings := []
  tiles := []
  accs := []
  mq := []
  vq := []
  cq := []
  commit := []
  chans := []
  capin := 0
  spad := 0
  retainBit := false
  succ := 0
  lastHalted := false

/-- A cell at reset: it holds no partition (R282), its logs and caches are empty, and every register is 0 (R12, R278). -/
def Cell.reset : Cell where
  ctx := CellCtx.reset
  berth := none
  l1 := []
  istore := []
  istoreBad := []
  tlb := []
  dbg := 0
  dbgCmd := 0
  dbgData := 0
  elog := []
  elogCount := 0
  einj := none
  rr := []
  ctxCtl := 0
  ctxPc := 0
  csave := 0
  preempted := []
  savedTiles := []
  starting := []
  swap := 0
  swapWaiter := none
  haltCause := 0
  stepping := false

/-! ### The die -/

/-- A task (R181 to R186). -/
structure Task where
  record : Word
  part : Nat
  gang : Nat
  owner : CellId
  count : Nat
  scope : Nat
  group : Nat
  nosteal : Bool
  succ : Nat
  /-- none: not ready; some n: ready, the n-th to become so on its die. -/
  ready : Option Nat
  stealable : Bool
  taken : Option HartId
  /-- The `tspawn` has made its release and entered the task (R182). -/
  entered : Bool
  producers : List HartId
  deriving DecidableEq, Repr

/-- A loaded solver table (R188): FP32 bits. -/
structure SolverTable where
  s : Nat
  p : Nat
  phat : Nat
  fsal : Bool
  tau : List Nat
  c : List Nat
  b : List Nat
  bhat : List Nat
  d : List Nat
  a : List Nat
  deriving DecidableEq, Repr

/-- The state of a sample (R193). -/
inductive SampleState where
  | collecting
  | ready
  | done
  | failed
  deriving DecidableEq, Repr

/-- A sample of an armed set (R189): FP32 bits, ten history handles, and the partials held by slice. -/
structure Sample where
  st : SampleState
  t : Nat
  h : Nat
  tend : Nat
  atol : Nat
  rtol : Nat
  hdl : List (BitVec 256)
  parts : List (Nat × Nat)
  stage0 : Nat
  deriving DecidableEq, Repr

/-- An armed sample set (R189). -/
structure SampleSet where
  table : Nat
  slices : Nat
  nelem : Nat
  dcount : Nat
  dbase : Nat
  dgen : Nat
  part : Nat
  armer : HartId
  attempt : Nat
  err : Nat
  samples : List Sample
  /-- Names the arming, so that a late answer is told from one of an earlier arming. -/
  arm : Nat
  deriving DecidableEq, Repr

/-- A decision whose block is not yet written (R195): set and arming, partition, address, generation, data, and the request
under way, if one is. -/
structure Decision where
  set : Nat
  arm : Nat
  part : Nat
  va : Nat
  gen : Nat
  data : BitVec 32768
  op : Option Nat
  deriving DecidableEq, Repr

/-- A coalescing ring (R262). -/
structure Ring where
  thr : Nat
  vector : Nat
  dl : Nat
  count : Nat
  /-- Front-end cycles since the count left 0, as last noted. -/
  timer : Nat
  deriving DecidableEq, Repr

/-- The launch parameter block as the front end checked it (R255, R256). -/
structure Lpb where
  va : Word
  pcs : List Word
  masks : List Nat
  width : Nat
  height : Nat
  spadKib : Nat
  slices : Nat
  test : Bool
  scatter : Bool
  retain : Bool
  order : Nat
  swz : Nat
  cap : Nat
  kid : Nat
  succ : Nat
  groups : List (Nat × List Nat)
  barriers : List (Nat × Nat × Nat)
  pipes : List (Nat × Nat × Nat)
  textBase : Word
  textLen : Nat
  hook : Word
  deriving DecidableEq, Repr

/-- How far a launch is (R257 to R259). -/
inductive LaunchStage where
  | choosing
  /-- Requests sent: cells wanted in rank order, and the cells that have granted; `refused` once one has not. -/
  | reserving (wanted granted : List CellId) (waiting : List CellId) (refused : Bool) (scatter : Bool)
  | backoff
  | setup (gang : Nat)
  | running (gang : Nat)
  deriving DecidableEq, Repr

/-- A launch in progress: its checked block and the count of failed attempts. -/
structure LaunchRun where
  lpb : Lpb
  attempts : Nat
  stage : LaunchStage
  /-- The bytes of the text that are multicast, which the digest of the launch log covers (R259, R310). -/
  text : List Byte
  deriving DecidableEq, Repr

/-- A command or node in progress (R249, R252): index of the command since mapping, the VA of its 64 bytes, the eight words, the
node number of a node, a launch, the step a command of several steps is at, the cells whose swap a SWAP waits for (R282), whether
it waits for its condition (WAIT), whether the ferry took it, the CODE and DETAIL it is completing with, and which of STATUS and HEADA
have been stored (0 neither, 1 STATUS, 2 both: R249). -/
structure Running where
  idx : Nat
  va : Word
  words : List Word
  node : Option Nat
  launch : Option LaunchRun
  step : Nat
  swaps : List CellId
  waiting : Bool
  ferry : Bool
  finish : Option (Nat × Nat)
  told : Nat
  deriving DecidableEq, Repr

/-- A graph being run (R252): its command, nodes, start, the node to run next, completion counts, DONE_FAULTED seen. -/
structure GraphRun where
  cmd : Nat
  nbase : Word
  n : Nat
  next : Nat
  done : List Nat
  faulted : Bool
  deriving DecidableEq, Repr

/-- The run-time state of a mapped queue (R247, R248). -/
structure FeQueue where
  head : Nat
  tail : Nat
  /-- Next command to dispatch. -/
  disp : Nat
  /-- Commands completed out of order, waiting for the head to pass them. -/
  completed : List Nat
  running : List (Nat × Running)
  graph : Option GraphRun
  lastNowait : Bool
  outOfRange : Bool
  deriving DecidableEq, Repr

/-- An entry of a die's miss table (R274): partition, the package of the window root (or the die's own), VA[56:12], the
harts whose accesses wait for it, and the engines: the cell of each, the front end for one of the die. -/
structure Miss where
  part : Nat
  win : Nat
  vpn : Nat
  waiting : List HartId
  units : List CellId
  deriving DecidableEq, Repr

/-- A die. -/
structure Die where
  /-- BOOT.STAT.STATE: 0 RESET, 1 READ, 2 VERIFY, 3 RUN, 4 FAILED (R308). -/
  bootState : Nat
  bootFail : Nat
  bootSvn : Nat
  bootSlot : Nat
  /-- FSVN raised above the fuse value, if it has been. -/
  fsvnRaised : Option Nat
  imageDigest : List Byte
  /-- The die's firmware SRAM of 512 KiB: the body of the image that runs, from its first byte up (R306). -/
  sram : List Byte
  /-- Registers of R246 that hold what is written, by offset. -/
  regs : List (Nat × Word)
  /-- The last 4,096 registrations at the die's slice, newest first: page, and the die that made it (16 for another package: R265,
  R305). -/
  recent : List (Nat × Nat)
  queueTable : List (Nat × List Word)
  rings : List (Nat × Ring)
  ptroot : List (Nat × Word)
  wroot : List (Nat × Word)
  route : List (Nat × Word)
  lottery : Word
  queues : List (Nat × FeQueue)
  ferry : Bool
  ferryPtr : Nat
  hangset : BitVec 16
  leader : Nat
  leaseTerm : Nat
  launchLog : List (Nat × Nat × List Byte)
  tlb : List TlbEntry
  /-- Miss table, in order of admission (R274). -/
  misses : List Miss
  /-- Engines whose walk faulted, with the key of it: the access that waited fails, and no entry is made (R272, R274). -/
  unitFaults : List (CellId × Nat × Nat × Nat)
  /-- Engines whose walk returned a leaf, with the key of it: their access is served, also where the TLB has dropped the leaf since (R274). -/
  unitPages : List (CellId × Nat × Nat × Nat)
  /-- The cells whose engines wait for a miss to be admitted, each with the event that waits (R274). -/
  unitWaits : List (CellId × Event)
  /-- The cell whose miss was admitted last after it had waited, from which the round of the cells goes on (R274). -/
  missTurn : Nat
  sillage : Nat
  spilled : Nat
  tasks : List (Nat × Task)
  readyCount : Nat
  tables : List (Nat × SolverTable)
  sets : List (Nat × SampleSet)
  decisions : List Decision
  elog : List LogEntry
  elogCount : Nat
  einj : Option (Nat × Nat × Nat)
  biasCmd : Word
  /-- The bias flip in progress: the page, by qualified page number, and whether it goes to host bias (R295, R296). -/
  flip : Option (Nat × Bool)
  /-- Island levels: request, floor, gate (R314), by island. -/
  islands : List (Nat × (Nat × Nat × Bool))
  /-- The COPY command that has the front end's copy channel: queue and running command (R250). -/
  feCopy : Option (Nat × Nat)
  av1Frames : List (Nat × Nat × Bool)
  deriving DecidableEq, Repr

/-- A die at reset: in the boot ROM's RESET state (R308), with the reset values of its register maps (R246 to R266). The
lottery generator starts at its constant xor the die id (R253). -/
def Die.reset (d : DieId) : Die where
  bootState := 0
  bootFail := 0
  bootSvn := 0
  bootSlot := 0
  fsvnRaised := none
  imageDigest := []
  sram := []
  regs := []
  recent := []
  queueTable := []
  rings := []
  ptroot := []
  wroot := []
  route := []
  lottery := 0x9E3779B97F4A7C15 ^^^ BitVec.ofNat 64 d.die
  queues := []
  ferry := false
  ferryPtr := 0
  hangset := 0
  leader := 0
  leaseTerm := 1
  launchLog := []
  tlb := []
  misses := []
  unitFaults := []
  unitPages := []
  unitWaits := []
  missTurn := 0
  sillage := 0
  spilled := 0
  tasks := []
  readyCount := 0
  tables := []
  sets := []
  decisions := []
  elog := []
  elogCount := 0
  einj := none
  biasCmd := 0
  flip := none
  islands := []
  feCopy := none
  av1Frames := []

/-! ### The package, the blocks, the operations in flight -/

/-- A Selren port (R302: STATE 0 off, 1 training, 2 up, 3 down), with the replays of the flit in hand (R300). -/
structure Port where
  st : Nat
  lanes : Nat
  peer : Nat
  replay : Nat
  again : Nat
  deriving DecidableEq, Repr

/-- A package: its ports, host link, power limiter (R315), the bytes of its boot flash that have been written (R306), and its HDM
decoder (R291). -/
structure Pkg where
  ports : List (Nat × Port)
  hostUp : Bool
  limit : Nat
  ceiling : Nat
  flash : List (Nat × Byte)
  hdmBase : Nat
  hdmSize : Nat
  deriving DecidableEq, Repr

/-- A package at reset: ports off, host link up (DESIGN CHOICE, log 1), LIMIT 3,600 W (R315), no byte of the flash written, and an HDM
decoder that maps nothing until firmware sets it at boot (R291). -/
def Pkg.reset : Pkg := ⟨[], true, 3600, 0, [], 0, 0⟩

/-- An entry of a sillage list (R101): who reads, into which scratch block, at which generation; `op` names the operation
that carries the answer. -/
structure Sillage where
  q : Bool
  op : Nat
  egen : Nat
  /-- The place of the entry in the spill region, if it is held there (R101). -/
  spilled : Option Nat
  deriving DecidableEq, Repr

/-- The presence of a block at its home (R20, R99, R100). `filled` is FULL or POISON; EMPTY and DEFERRED follow from the
list. -/
structure Block where
  gen : Nat
  full : Bool
  poison : Bool
  list : List Sillage
  side : BitVec 512
  deriving DecidableEq, Repr

/-- A block when its page is allocated: EMPTY at generation 0, SPILL clear (R20). -/
def Block.reset : Block := ⟨0, false, false, [], 0⟩

/-- The state of a tracked word at its home (R214); a word not listed is HOME. -/
inductive WordState where
  | registered (c : CellId)
  | lost
  deriving DecidableEq, Repr

/-- Who made a block request. -/
inductive Requester where
  | hart (h : HartId)
  | chan (c : CellId) (ch : Nat)
  | solver (d : DieId) (set : Nat)
  deriving DecidableEq, Repr

/-- A presence request (R99, R106). -/
inductive BlockReq where
  | read (q : Bool)
  | write
  | poison
  | clear
  | status
  deriving DecidableEq, Repr

/-- What the home answered (R99, R101, R103 to R106). -/
inductive BlockAns where
  | data (d : BitVec 32768) (side : BitVec 512)
  | poison
  | stale
  /-- A write that is ahead of the block's generation (R98). -/
  | ahead
  | doubleFill
  | written
  | deferFull
  | coded (w : Word)
  | unreachable
  deriving DecidableEq, Repr

/-- Which words of word space an atomic operation at the home applies (R59, R60, R114, R115). -/
inductive AtomicKind where
  | lr
  | sc
  | swap
  | add
  | xor
  | and
  | or
  | min
  | max
  | minu
  | maxu
  deriving DecidableEq, Repr

/-- One access of a hart to word space: who makes it, the partition, the virtual address, the qualified physical address,
the bytes, the page kind it is served under (R21, R294), the word's home, and the KIND of its leaf, which counts again when the page
leaves host bias (R296). -/
structure Access where
  hart : HartId
  part : Nat
  va : Word
  qa : Nat
  size : Nat
  kind : Nat
  home : DieId
  leaf : Nat
  deriving DecidableEq, Repr

/-- An operation in flight, by number. -/
inductive Op where
  /-- A presence request of a partition for the block at a qualified physical address: expected generation, scratch block it serves, its
  index in the instruction's handle, data of a write, number of DEFER_FULL answers, whether the home has applied it, and the
  answer. -/
  | block (req : BlockReq) (who : Requester) (part blk gen tile idx : Nat) (data : BitVec 32768) (side : BitVec 512)
      (retries : Nat) (applied : Bool) (ans : Option BlockAns)
  /-- A remote flag operation (R74): sender and its partition, target cell, flag, set or clear. -/
  | flag (src : HartId) (part : Nat) (dst : CellId) (n : Nat) (value : Bool)
  /-- A message (R83): sender and its partition, target cell, channel, payload, refusals so far, waiting to be retried. -/
  | message (src : HartId) (part : Nat) (dst : CellId) (ch : Nat) (words : List Word) (retries : Nat) (refused : Bool)
  /-- A matrix command sent by `mmsend` (R142). -/
  | matrix (src : HartId) (part : Nat) (dst : CellId) (cap : Nat) (cmd : Cmd)
  /-- A load miss (R213, R214); invalidated in flight; the answer. -/
  | load (a : Access) (invalid : Bool) (ans : Option Answer)
  /-- A registration request with the store that waits on its grant; the answer of the home; and whether its hart has gone on without
  waiting for it, as it may once the store can no longer be refused (R120, R319). -/
  | register (a : Access) (val : Word) (ans : Option Answer) (retired : Bool)
  /-- An AMO, LR or SC at the home (R59, R60). -/
  | atomic (a : Access) (kind : AtomicKind) (val : Word) (ans : Option Answer)
  /-- A posted store or add (R114, R115), or a base store written through (R213): post class (none for a base store), byte
  mask and value of the word, add, the dies whose replica has still to apply it, and whether it has performed. -/
  | post (a : Access) (cls : Option Nat) (mask val : Word) (add : Bool) (left : List Nat) (performed : Bool)
  /-- A drain row (R139): hart, partition, post class, cell, virtual address and place, whether its range is locked (0 not
  yet, 1 held, 2 refused), the bytes once the drain has converted them, and whether it has performed. -/
  | row (h : HartId) (part cls : Nat) (cell : CellId) (va : Word) (seg : Seg) (lock : Nat) (bytes : Option (List Byte))
      (performed : Bool)
  /-- A copy record's write (R165): cell and channel, partition, virtual address, the piece, and the bytes. -/
  | copyWrite (c : CellId) (ch part : Nat) (va : Word) (seg : Seg) (bytes : List Byte)
  /-- A range to lock for a copy record (R123): cell and channel, partition, first and last virtual address, the pieces it
  covers, and whether it is locked (0 not yet, 1 held, 2 refused). -/
  | lock (c : CellId) (ch part lo hi : Nat) (segs : List Seg) (lock : Nat)
  deriving DecidableEq, Repr

/-- An entry of a range-lock table (R123): die, partition, virtual range with both ends included, the locking operation,
and the cell whose engine it is. -/
structure RangeLock where
  die : DieId
  part : Nat
  lo : Nat
  hi : Nat
  op : Nat
  cell : CellId
  deriving DecidableEq, Repr

/-- A gang (R24, R255 to R261). -/
structure Gang where
  part : Nat
  pkg : Nat
  lpb : Lpb
  cells : List CellId
  /-- The command that launched it: die, queue, running command. -/
  die : DieId
  queue : Nat
  cmd : Nat
  /-- Cells that the release has reached (R259). -/
  started : List CellId
  doneCells : List CellId
  faulted : Bool
  /-- Barrier b: phase number, arrivals in the current phase, harts that count in every later phase (R77, R85). -/
  bars : List (Nat × (Nat × List HartId))
  gone : List HartId
  deriving DecidableEq, Repr

/-- A copy of an operation on its way to another package (R301, R302): its number, the package where it is, and its hops so far. -/
structure Copy where
  seq : Nat
  op : Event
  at' : Nat
  hops : Nat
  deriving DecidableEq, Repr

/-- One direction of traffic between two packages on one lane (R301): the next number to send, the next to apply, the
operations sent and not acknowledged, oldest first, with the port each left by, the copies on the way, operations that wait because
4,096 are not acknowledged, and operations for an unreachable destination, which are still to be failed (R303). -/
structure Flow where
  sendSeq : Nat
  recvSeq : Nat
  sent : List (Nat × Event × Nat)
  wire : List Copy
  waiting : List Event
  doomed : List Event
  deriving DecidableEq, Repr

/-- Who acts next. -/
inductive Turn where
  /-- The hart `cur` takes its turn. -/
  | hart
  /-- The named event happens. -/
  | event (e : Event)
  /-- A request that was held at its home is served (R214, R296). -/
  | held (e : Event)
  /-- Firmware writes a byte of the boot flash of a package (R318). -/
  | flash (pkg off : Nat) (b : Byte)
  /-- A word that a cell's L1 does not hold is brought in by a load that performs before those that precede it (R319; log 4). -/
  | early (c : CellId) (va : Word)
  deriving DecidableEq, Repr

/-- What left the machine. -/
inductive Emitted where
  | msix (d : DieId) (vector : Nat)
  | hostRead (pkg : Nat) (bytes : Option (List Byte))
  | debugRead (c : CellId) (v : Word)
  | logRead (d : DieId) (v : Word)
  | signature (d : DieId) (bytes : Option (List Byte))
  | report (pkg : Nat) (bytes : Option (List Byte))
  deriving DecidableEq, Repr

/-! ### Memory -/

/-- The bytes of memory that differ from what an unlisted address reads as, by address, strictly rising. -/
abbrev Memory := List Host.Cell

/-- What a byte of memory that nothing has written reads as: zero (DESIGN CHOICE, log 6). -/
def Memory.unlisted : Byte := 0

/-- The one form in which a memory is listed: addresses strictly rising, and no byte that an unlisted address reads as. -/
def Memory.wfFrom : Nat → Memory → Bool
  | _, [] => true
  | lo, (a, b) :: m => decide (lo ≤ a) && decide (b ≠ Memory.unlisted) && Memory.wfFrom (a + 1) m

/-- The canonical form holds. -/
def Memory.wf (m : Memory) : Bool := Memory.wfFrom 0 m

/-! ### The machine -/

/-- The state of the machine. A memory address, word address or block address in it is qualified: package times 2^52 plus
the 52-bit physical address (R290). -/
structure State where
  turn : Turn
  cur : HartId
  /-- Events under way, which happen in an order that Config.pick chooses. -/
  pool : List Event
  tick : Nat
  nextId : Nat
  harts : List (HartId × Hart)
  cells : List (CellId × Cell)
  dies : List (DieId × Die)
  pkgs : List (Nat × Pkg)
  mem : Memory
  words : List (Nat × WordState)
  /-- Words of memory that hold an uncorrectable error (R317). -/
  badWords : List Nat
  /-- Words whose home waits for an owner's reply, with the operation in service (R214). -/
  busy : List (Nat × Nat)
  blocks : List (Nat × Block)
  /-- Words whose value at the replica of a die differs from the sequencer's: die and word (R219). -/
  replicas : List ((Nat × Nat) × Word)
  /-- Sequenced stores not yet applied everywhere, oldest first: sequencing die and operation (R219). -/
  replOrder : List (DieId × Nat)
  resvs : List (HartId × Nat × Bool)
  /-- Harts parked by `hqpop` at the home of a descriptor, in order of arrival: descriptor, hart and partition (R180). -/
  hqWaiters : List (Nat × HartId × Nat)
  locks : List RangeLock
  ops : List (Nat × Op)
  gangs : List (Nat × Gang)
  /-- Landing tables: the home of a word page that is not the die of its stack (R216, R290), by qualified page number. -/
  homes : List (Nat × DieId)
  /-- Pages in host bias (R292), by qualified page number. -/
  hostBias : List Nat
  /-- Requests that their home holds, because it serves another request for the word, a range is locked, or it flips the bias of the page, in
  order of arrival; those of a page whose bias flips are marked with its number plus 1 (R114, R214, R296). -/
  held : List (Nat × Event)
  /-- Link traffic by source package, destination package and lane. -/
  flows : List ((Nat × Nat × Nat) × Flow)
  /-- Ordered pairs of packages of which the second is unreachable for the first (R303). -/
  cut : List (Nat × Nat)
  emitted : List Emitted
  deriving DecidableEq, Repr

/-- The machine right after reset: nothing launched, every die in RESET, memory with nothing listed. The model's own fields
turn, cur, pool, tick and nextId are a DESIGN CHOICE, log 2. -/
def State.reset : State where
  turn := .hart
  cur := ⟨0, 0, 0, 0⟩
  pool := []
  tick := 0
  nextId := 0
  harts := []
  cells := []
  dies := []
  pkgs := []
  mem := []
  words := []
  badWords := []
  busy := []
  blocks := []
  replicas := []
  replOrder := []
  resvs := []
  hqWaiters := []
  locks := []
  ops := []
  gangs := []
  homes := []
  hostBias := []
  held := []
  flows := []
  cut := []
  emitted := []

end Sys2Proof.Machine
end

