-- ==== Sys2Proof/Machine/Ops.lean ====
section
/-!
DEFINITION. The named operations every meaning is built from: reading and writing the parts of the state, memory, bit
fields, retirement, trap entry and return, waiting, numbered operations and the error logs.
-/
namespace Sys2Proof.Machine

/-- What a meaning answers. -/
abbrev Out := Host.Outcome State Fault Refusal

/-! ### The results of the named standards, at the lengths that they give (R306, R309 to R312) -/

/-- `n` bytes of a list: what it has beyond them is cut off, and what it lacks of them is 0. -/
def exactly (n : Nat) (l : List Byte) : List Byte := (List.range n).map fun i => l.getD i 0

/-- `n` bytes of SHAKE256 of a message. -/
def shake256 (n : Nat) (msg : List Byte) : List Byte := exactly n (Config.shake256 n msg)

/-- The 114 bytes of an Ed448 signature with a package's identity key. -/
def ed448Sign (pkg : Nat) (msg : List Byte) : List Byte := exactly 114 (Config.ed448Sign pkg msg)

/-- The 57 bytes of a package's public identity key. -/
def idPub (pkg : Nat) : List Byte := exactly 57 (Config.idPub pkg)

/-- The 32 bytes of the key digest fused on a die. -/
def fusedDigest (d : DieId) : List Byte := exactly 32 (Config.fusedDigest d)

/-! ### Bit fields -/

/-- Bits [lo + len - 1 : lo] of a number. -/
def bitsOf (v lo len : Nat) : Nat := v / 2 ^ lo % 2 ^ len

/-- Bits [lo + len - 1 : lo] of a word. -/
def fld (w : Word) (lo len : Nat) : Nat := bitsOf w.toNat lo len

/-- Bit `i` of a word. -/
def wbit (w : Word) (i : Nat) : Bool := w.getLsbD i

/-- A word with the number `v` put at bit `lo`; the caller keeps fields apart. -/
def putAt (v lo : Nat) : Word := BitVec.ofNat 64 (v * 2 ^ lo)

/-- A word with bits [lo + len - 1 : lo] replaced. -/
def setFld (w : Word) (lo len v : Nat) : Word :=
  (w &&& ~~~(BitVec.ofNat 64 ((2 ^ len - 1) * 2 ^ lo))) ||| BitVec.ofNat 64 (v % 2 ^ len * 2 ^ lo)

/-- The raw field `v` of `n` bits, sign-extended to 64. -/
def sextTo (n v : Nat) : Word := (BitVec.ofNat n v).signExtend 64

/-- The low 32 bits, sign-extended. -/
def sext32 (v : BitVec 32) : Word := v.signExtend 64

/-- A truth value as the bit of that value. -/
def bit01 (b : Bool) : Word := if b then 1 else 0

/-- The signed reading of an `n`-bit number. -/
def signedOf (n v : Nat) : Int := (BitVec.ofNat n v).toInt

/-- The least significant 64 bits of an integer. -/
def wordOfInt (i : Int) : Word := BitVec.ofInt 64 i

/-! ### Bytes and memory (R4: little-endian) -/

/-- The number whose bytes, least significant first, are listed. -/
def bytesToNat : List Byte → Nat
  | [] => 0
  | b :: bs => b.toNat + 256 * bytesToNat bs

/-- The `n` low bytes of a number, least significant first. -/
def natToBytes : Nat → Nat → List Byte
  | 0, _ => []
  | n + 1, v => BitVec.ofNat 8 v :: natToBytes n (v / 256)

/-- The byte at an address. -/
def Memory.read : Memory → Nat → Byte
  | [], _ => Memory.unlisted
  | (a', b) :: m, a => if a' = a then b else if a < a' then Memory.unlisted else Memory.read m a

/-- Put a byte at an address, keeping the canonical form. -/
def Memory.write : Memory → Nat → Byte → Memory
  | [], a, b => if b = Memory.unlisted then [] else [(a, b)]
  | (a', b') :: m, a, b =>
    if a < a' then (if b = Memory.unlisted then (a', b') :: m else (a, b) :: (a', b') :: m)
    else if a = a' then (if b = Memory.unlisted then m else (a, b) :: m)
    else (a', b') :: Memory.write m a b

/-- The `n` bytes from an address. -/
def Memory.readBytes (m : Memory) (a n : Nat) : List Byte := (List.range n).map fun i => m.read (a + i)

/-- Put bytes from an address up. -/
def Memory.writeBytes : Memory → Nat → List Byte → Memory
  | m, _, [] => m
  | m, a, b :: bs => Memory.writeBytes (m.write a b) (a + 1) bs

/-- The 8-byte word at an address. -/
def Memory.word (m : Memory) (a : Nat) : Word := BitVec.ofNat 64 (bytesToNat (m.readBytes a 8))

/-- Put an 8-byte word at an address. -/
def Memory.setWord (m : Memory) (a : Nat) (w : Word) : Memory := m.writeBytes a (natToBytes 8 w.toNat)

/-- The bit mask of `size` bytes at byte offset `off` of an 8-byte word. -/
def byteMask (off size : Nat) : Word := BitVec.ofNat 64 ((2 ^ (8 * size) - 1) * 2 ^ (8 * off))

/-- The bytes of `val` that `mask` selects, over those of `old` (R210). -/
def mergeWord (old mask val : Word) : Word := (old &&& ~~~mask) ||| (val &&& mask)

/-! ### A hart that completes an instruction or traps (R62, R72, R73) -/

/-- Forget what was kept of the instruction under way. -/
def Hart.settle (h : Hart) : Hart :=
  { h with wait := none, answer := none, stalled := false, parked := false, op := none, walkFault := none, insn := none }

/-- The active loop of a hart after the instruction at its pc has completed, with the pc that follows (R72): REM, of 32 bits, is decremented
and then tested. -/
def loopNext (l : Loop) (pc npc : Word) : Option Loop × Word :=
  if pc = l.start + BitVec.ofNat 64 (4 * l.idx) then
    if l.idx + 1 < l.len then (some { l with idx := l.idx + 1 }, npc)
    else if (l.rem + 2 ^ 32 - 1) % 2 ^ 32 = 0 then (none, l.start + BitVec.ofNat 64 (4 * l.len))
    else (some { l with rem := (l.rem + 2 ^ 32 - 1) % 2 ^ 32, idx := 0, ofs := (l.ofs + l.stride) % 16 }, l.start)
  else (some l, npc)

/-- rep.state as the loop shows it (R12). -/
def repShow (l : Loop) : Word := BitVec.ofNat 64 (l.rem % 2 ^ 32 + l.idx % 8 * 2 ^ 32 + 2 ^ 35 + l.ofs % 16 * 2 ^ 36)

/-- rep.state once the last pass has ended: REM 0 and ACT 0, IDX and OFS as they were (R72). -/
def repEnd (w : Word) : Word := setFld (setFld w 0 32 0) 35 1 0

/-- A hart whose instruction has completed, with the pc that follows. -/
def Hart.retired (h : Hart) (npc : Word) : Hart :=
  match h.loop with
  | none => { h with pc := npc, wait := none, answer := none, stalled := false, parked := false, op := none, walkFault := none, insn := none,
                     csr := { h.csr with minstret := h.csr.minstret + 1 } }
  | some l =>
    let r := loopNext l h.pc npc
    { h with pc := r.2, loop := r.1, wait := none, answer := none, stalled := false, parked := false, op := none, walkFault := none, insn := none,
             csr := { h.csr with minstret := h.csr.minstret + 1,
                                 repState := match r.1 with
                                   | some l' => repShow l'
                                   | none => repEnd h.csr.repState } }

/-- mstatus at trap entry. -/
def trapStatus (m : Word) (mode : Mode) : Word :=
  BitVec.ofNat 64 (fld m 3 1 * 128 + if mode = .m then 0x1800 else 0)

/-- mstatus after mret. -/
def mretStatus (m : Word) : Word := BitVec.ofNat 64 (128 + fld m 7 1 * 8)

/-- Where a trap goes. -/
def trapPc (mtvec : Word) (intr : Bool) (c : Nat) : Word :=
  let base := mtvec &&& ~~~(3 : Word)
  if intr && fld mtvec 0 2 == 1 then base + BitVec.ofNat 64 (4 * c) else base

/-- A hart that enters a trap: R62, with the active loop shown in rep.state only (R73). -/
def Hart.trapped (h : Hart) (intr : Bool) (c : Nat) (epc tval : Word) : Hart :=
  { h with
    pc := trapPc h.csr.mtvec intr c
    mode := .m
    loop := none
    wait := none
    answer := none
    stalled := false
    parked := false
    op := none
    walkFault := none
    insn := none
    csr := { h.csr with
      mepc := epc &&& ~~~(3 : Word)
      mcause := BitVec.ofNat 64 ((if intr then 2 ^ 63 else 0) + c)
      mtval := tval
      mstatus := trapStatus h.csr.mstatus h.mode } }

/-- A flow with an operation sent under its next number of 32 bits, by a port (R301). -/
def Flow.issue (f : Flow) (src port : Nat) (e : Event) : Flow :=
  { f with sendSeq := (f.sendSeq + 1) % 2 ^ 32, sent := f.sent ++ [(f.sendSeq, e, port)], wire := f.wire ++ [⟨f.sendSeq, e, src, 0⟩] }

/-! ### Parts of the state -/

namespace State

/-- A hart. -/
def getHart (s : State) (h : HartId) : Hart := (lookup h s.harts).getD Hart.reset

/-- Replace a hart. -/
def setHart (s : State) (h : HartId) (v : Hart) : State := { s with harts := store h v s.harts }

/-- Change a hart. -/
def updHart (s : State) (h : HartId) (f : Hart → Hart) : State := s.setHart h (f (s.getHart h))

/-- The hart whose instruction is executed. -/
def me (s : State) : Hart := s.getHart s.cur

/-- Change that hart. -/
def updMe (s : State) (f : Hart → Hart) : State := s.updHart s.cur f

/-- A cell. -/
def getCell (s : State) (c : CellId) : Cell := (lookup c s.cells).getD Cell.reset

/-- Replace a cell. -/
def setCell (s : State) (c : CellId) (v : Cell) : State := { s with cells := store c v s.cells }

/-- Change a cell. -/
def updCell (s : State) (c : CellId) (f : Cell → Cell) : State := s.setCell c (f (s.getCell c))

/-- Change the part of a cell that a swap exchanges. -/
def updCtx (s : State) (c : CellId) (f : CellCtx → CellCtx) : State :=
  s.updCell c fun v => { v with ctx := f v.ctx }

/-- The cell of the current hart. -/
def myCell (s : State) : CellId := s.cur.cellId

/-- The exchangeable part of the current hart's cell. -/
def ctx (s : State) : CellCtx := (s.getCell s.myCell).ctx

/-- Change it. -/
def updMyCtx (s : State) (f : CellCtx → CellCtx) : State := s.updCtx s.myCell f

/-- A die. -/
def getDie (s : State) (d : DieId) : Die := (lookup d s.dies).getD (Die.reset d)

/-- Replace a die. -/
def setDie (s : State) (d : DieId) (v : Die) : State := { s with dies := store d v s.dies }

/-- Change a die. -/
def updDie (s : State) (d : DieId) (f : Die → Die) : State := s.setDie d (f (s.getDie d))

/-- A die's STATE is RUN (R307, R308). -/
def dieRuns (s : State) (d : DieId) : Bool := (s.getDie d).bootState == 3

/-- A package. -/
def getPkg (s : State) (p : Nat) : Pkg := (lookup p s.pkgs).getD Pkg.reset

/-- Change a package. -/
def updPkg (s : State) (p : Nat) (f : Pkg → Pkg) : State := { s with pkgs := store p (f (s.getPkg p)) s.pkgs }

/-- A block's presence. -/
def getBlock (s : State) (b : Nat) : Block := (lookup b s.blocks).getD Block.reset

/-- Replace a block's presence. -/
def setBlock (s : State) (b : Nat) (v : Block) : State := { s with blocks := store b v s.blocks }

/-- A scratch block of a cell. -/
def getTile (s : State) (c : CellId) (i : Nat) : Tile := (lookup i (s.getCell c).ctx.tiles).getD Tile.reset

/-- Replace a scratch block. -/
def setTile (s : State) (c : CellId) (i : Nat) (v : Tile) : State :=
  s.updCtx c fun x => { x with tiles := store i v x.tiles }

/-- An accumulator tile of a cell. -/
def getAcc (s : State) (c : CellId) (i : Nat) : AccTile := (lookup i (s.getCell c).ctx.accs).getD AccTile.reset

/-- Replace an accumulator tile. -/
def setAcc (s : State) (c : CellId) (i : Nat) (v : AccTile) : State :=
  s.updCtx c fun x => { x with accs := store i v x.accs }

/-- A copy channel of a cell. -/
def getChan (s : State) (c : CellId) (i : Nat) : Channel := (lookup i (s.getCell c).ctx.chans).getD Channel.reset

/-- Replace a copy channel. -/
def setChan (s : State) (c : CellId) (i : Nat) (v : Channel) : State :=
  s.updCtx c fun x => { x with chans := store i v x.chans }

/-- The gang of a cell, if it has one. -/
def gangOf (s : State) (c : CellId) : Option Gang := (s.getCell c).ctx.gang.bind fun g => lookup g s.gangs

/-! ### Events and operations under way -/

/-- An event becomes possible. -/
def push (s : State) (i : Event) : State := { s with pool := s.pool ++ [i] }

/-- An event becomes possible, if it is not already. -/
def pushOnce (s : State) (i : Event) : State := if s.pool.contains i then s else s.push i

/-- Several events become possible. -/
def pushAll (s : State) (is : List Event) : State := { s with pool := s.pool ++ is }

/-- Name a new operation; its number is the state's nextId before. -/
def newOp (s : State) (o : Op) : State := { s with ops := (s.nextId, o) :: s.ops, nextId := s.nextId + 1 }

/-- An operation under way. -/
def getOp (s : State) (id : Nat) : Option Op := lookup id s.ops

/-- Replace an operation. -/
def setOp (s : State) (id : Nat) (o : Op) : State := { s with ops := store id o s.ops }

/-- An operation has ended. -/
def dropOp (s : State) (id : Nat) : State := { s with ops := erase id s.ops }

/-- Something leaves the machine. -/
def emit (s : State) (e : Emitted) : State := { s with emitted := s.emitted ++ [e] }

/-- The next free value drawn at this state. -/
def draw (s : State) : Nat := Config.pick s.tick

/-! ### Links between packages (R299 to R303) -/

/-- The flow from one package to another on a lane. -/
def getFlow (s : State) (src dst lane : Nat) : Flow := (lookup (src, dst, lane) s.flows).getD ⟨0, 0, [], [], [], []⟩

/-- Whether the destination is unreachable for the source. -/
def isCut (s : State) (src dst : Nat) : Bool := s.cut.contains (src, dst)

/-- The port an operation to a package leaves by: the first valid route whose port is not down (R302). -/
def routePort (s : State) (src dst : Nat) : Option Nat :=
  let r := (lookup dst (s.getDie ⟨src, 0⟩).route).getD 0
  ([0, 1, 2, 3].filter fun i => fld r (16 + i) 1 = 1).map (fun i => fld r (4 * i) 4)
    |>.find? fun p => ((lookup p (s.getPkg src).ports).getD ⟨0, 0, 0, 0, 0⟩).st ≠ 3

/-- No valid route remains to a package, or its operations have failed (R303). -/
def unreachable (s : State) (src dst : Nat) : Bool := s.isCut src dst || (s.routePort src dst).isNone

/-- Send an operation to another package in its lane: the event happens when it arrives (R301); while 4,096 are not acknowledged it
waits. One to an unreachable package is held only to be failed (R303). An operation within the package is put among the events under
way. -/
def send (s : State) (src dst lane : Nat) (i : Event) : State :=
  if src = dst then s.push i
  else
    let f := s.getFlow src dst lane
    let put := fun g : Flow => { s with flows := store (src, dst, lane) g s.flows }
    if s.unreachable src dst then (put { f with doomed := f.doomed ++ [i] }).push (.destinationUnreachable src dst)
    else if 4096 ≤ f.sent.length then put { f with waiting := f.waiting ++ [i] }
    else (put (f.issue src ((s.routePort src dst).getD 16) i)).push (.linkOperationArrive src dst lane)

/-! ### Scalar and handle registers -/

/-- Read a scalar register of the current hart. -/
def xr (s : State) (r : Nat) : Word := if r = 0 then 0 else (s.me.x[r]?).getD 0

/-- Write a scalar register of the current hart: x0 ignores writes (R9). -/
def setX (s : State) (r : Nat) (v : Word) : State :=
  if r = 0 then s else s.updMe fun h => { h with x := h.x.setIfInBounds r v }

/-- Read a handle register. -/
def hr (s : State) (r : Nat) : BitVec 256 := (s.me.h[r]?).getD 0

/-- Write a handle register. -/
def setH (s : State) (r : Nat) (v : BitVec 256) : State :=
  s.updMe fun h => { h with h := h.h.setIfInBounds r v }

/-! ### Waiting (R70, R227) -/

/-- The hart waits; the instruction is taken up again when it no longer does. -/
def await (s : State) (k : WaitKind) (abandon : Bool) : State :=
  s.updMe fun h => { h with wait := some ⟨k, abandon⟩, answer := none, stalled := !abandon, parked := abandon || k != .retry }

/-- The hart waits for what its access has asked for. Such an instruction is no parked one (R70): it completes before its cell stands in a
debug halt or swaps (R283, R287). -/
def pending (s : State) (k : WaitKind) : State := (s.await k false).updMe fun h => { h with parked := false }

/-- The hart stalls with its instruction, keeping what has reached it (R227). -/
def stall (s : State) : State := s.updMe fun h => { h with wait := some ⟨.retry, false⟩, stalled := true }

/-- The name under which the current hart makes requests and waits: a service context is named by its slot plus 32, and the
gang context it pre-empts keeps the slot's number (R278). -/
def who (s : State) : HartId := if s.me.service then { s.cur with hart := s.cur.hart + 32 } else s.cur

/-- Change the context that a request of a partition names: the one in its slot, a pre-empted one, or one of the berth image
(R278, R285). -/
def updWho (s : State) (h : HartId) (part : Nat) (f : Hart → Hart) : State :=
  let c := s.getCell h.cellId
  let k : HartId := { h with hart := h.hart - 32 }
  if 32 ≤ h.hart then (if (s.getHart k).service then s.updHart k f else s)
  else if c.ctx.part = part then
    match lookup h.hart c.preempted with
    | some g => s.setCell h.cellId { c with preempted := store h.hart (f g) c.preempted }
    | none => s.updHart h f
  else match c.berth with
    | some (x, hs) =>
      if x.part = part then
        s.setCell h.cellId { c with berth := some (x, store h.hart (f ((lookup h.hart hs).getD Hart.reset)) hs) }
      else s
    | none => s

/-- The context that a request of a partition names. -/
def getWho (s : State) (h : HartId) (part : Nat) : Hart :=
  let c := s.getCell h.cellId
  let k : HartId := { h with hart := h.hart - 32 }
  if 32 ≤ h.hart then (if (s.getHart k).service then s.getHart k else Hart.reset)
  else if c.ctx.part = part then (lookup h.hart c.preempted).getD (s.getHart h)
  else match c.berth with
    | some (x, hs) => if x.part = part then (lookup h.hart hs).getD Hart.reset else Hart.reset
    | none => Hart.reset

/-- Change the exchangeable part that holds a partition: the active one, or the berth image (R285). -/
def updCtxFor (s : State) (id : CellId) (part : Nat) (f : CellCtx → CellCtx) : State :=
  let c := s.getCell id
  if c.ctx.part = part then s.setCell id { c with ctx := f c.ctx }
  else match c.berth with
    | some (x, hs) => if x.part = part then s.setCell id { c with berth := some (f x, hs) } else s
    | none => s

/-- The exchangeable part that holds a partition. -/
def ctxFor (s : State) (id : CellId) (part : Nat) : Option CellCtx :=
  let c := s.getCell id
  if c.ctx.part = part then some c.ctx
  else match c.berth with
    | some (x, _) => if x.part = part then some x else none
    | none => none

/-- The condition of a hart's wait holds: it waits no longer, and its instruction completes before an interrupt is taken (R70, R274). -/
def wake (s : State) (h : HartId) (part : Nat) : State := s.updWho h part fun v => { v with wait := none, stalled := true }

/-- An answer reaches a hart, which no longer waits. -/
def answer (s : State) (h : HartId) (part : Nat) (a : Answer) : State :=
  s.updWho h part fun v => { v with wait := none, answer := some a }

/-- Note how far the current instruction is. -/
def note (s : State) (p : Progress) : State := s.updMe fun h => { h with op := some p, answer := none }

/-! ### Retirement (R72, R11) -/

/-- The instruction completes and control goes to `npc`. -/
def retireTo (s : State) (npc : Word) : State := s.updMe fun h => h.retired npc

/-- The instruction completes and control goes to the next word. -/
def retire (s : State) : State := s.retireTo (s.me.pc + 4)

/-- Write a scalar register and complete. -/
def finish (s : State) (rd : Nat) (v : Word) : State := (s.setX rd v).retire

/-! ### Reservations (R59) -/

/-- A hart loses its reservation. -/
def dropResv (s : State) (h : HartId) : State := { s with resvs := s.resvs.filter fun r => r.1 ≠ h }

/-- Every reservation of the word is lost, but that of `keep`. -/
def loseResv (s : State) (word : Nat) (keep : Option HartId) : State :=
  { s with resvs := s.resvs.filter fun r => !(r.2.1 == word && some r.1 != keep) }

/-- A hart reserves a word, in place of any other (R59). -/
def setResv (s : State) (h : HartId) (word : Nat) (wide : Bool) : State :=
  { s.dropResv h with resvs := (h, word, wide) :: (s.dropResv h).resvs }

/-! ### Traps (R62) -/

/-- Trap entry of the current hart; it loses its reservation (R59). -/
def trapEntry (s : State) (intr : Bool) (c : Nat) (epc tval : Word) : State :=
  (s.updMe fun h => h.trapped intr c epc tval).dropResv s.who

/-- A precise exception of the instruction at the pc (R52, R275). On a predicted path nothing is raised: the hart stalls
until its branch has resolved (R51, R289). -/
def trap (s : State) (c : Nat) (tval : Word) : State :=
  if s.me.spec.isSome then s.stall else s.trapEntry false c s.me.pc tval

/-- The instruction is illegal as it stands: cause 2 with the word in mtval (R51). -/
def illegal (s : State) (i : Instr) : State := s.trap 2 (BitVec.ofNat 64 ((encode i).getD 0))

/-! ### The error logs (R92, R316, R321) -/

/-- An error-log word. -/
def logWord (ue : Bool) (array addr synd part hart index : Nat) : Word :=
  BitVec.ofNat 64 (2 ^ 63 + (if ue then 2 ^ 61 else 0) + array % 64 * 2 ^ 55 + addr % 2 ^ 24 * 2 ^ 31 + synd % 256 * 2 ^ 23
    + part % 256 * 2 ^ 15 + hart % 32 * 2 ^ 10 + index)

/-- Add an entry to a log of `cap` unread entries: OVF of the newest when it is full (R92). -/
def logAdd (cap : Nat) (log : List LogEntry) (count : Nat) (mk : Nat → LogEntry) : List LogEntry × Nat :=
  if log.length < cap then (log ++ [mk (count % cap)], count + 1)
  else (log.dropLast ++ (log.getLast?.map (fun e => e ||| BitVec.ofNat 64 (2 ^ 62))).toList, count)

/-- Record an error or event in a cell's log. -/
def logCell (s : State) (c : CellId) (ue : Bool) (array addr synd part hart : Nat) : State :=
  s.updCell c fun v =>
    let r := logAdd 16 v.elog v.elogCount (logWord ue array addr synd part hart)
    { v with elog := r.1, elogCount := r.2 }

/-- Record an error or event in a die's log. -/
def logDie (s : State) (d : DieId) (ue : Bool) (array addr synd part hart : Nat) : State :=
  s.updDie d fun v =>
    let r := logAdd 64 v.elog v.elogCount (logWord ue array addr synd part hart)
    { v with elog := r.1, elogCount := r.2 }

/-! ### Interrupts pending (R276) -/

/-- Make an interrupt pending at the gang context of a hart, pre-empted or not. -/
def raiseMip (s : State) (h : HartId) (c : Nat) : State :=
  s.updWho h (s.getCell h.cellId).ctx.part fun v => { v with csr := { v.csr with mip := v.csr.mip ||| BitVec.ofNat 64 (2 ^ c) } }

end State

end Sys2Proof.Machine
end

