-- ==== Sys2Proof/Machine/Operands.lean ====
section
/-!
DEFINITION. Operand forms: immediates and addresses of the formats (R46, R47, R53), the formats of R16, and the fields and
checks of tensor handles (R14, R15).
-/
namespace Sys2Proof.Machine

/-! ### Immediates and addresses -/

/-- A 12-bit immediate, sign-extended (R53: I and S formats). -/
def imm12 (imm : Nat) : Word := sextTo 12 imm

/-- The upper immediate, shifted and sign-extended (R54: lui, auipc). -/
def immU (imm : Nat) : Word := sextTo 32 (imm * 4096)

/-- The address of an I or S access. -/
def State.addrI (s : State) (rs1 imm : Nat) : Word := s.xr rs1 + imm12 imm

/-- The address of a QM access (R46). -/
def State.addrQM (s : State) (rs1 sz off : Nat) : Word := s.xr rs1 + sextTo 8 off * BitVec.ofNat 64 (2 ^ sz)

/-- The target of a QF branch (R47). -/
def State.targetQF (s : State) (off : Nat) : Word := s.me.pc + sextTo 12 off * 4

/-! ### Formats (R16) -/

/-- Bits per element of a format code; none for an illegal code. MXFP6 elements are packed, 6 bits each. -/
def fmtBits : Nat → Option Nat
  | 0x00 => some 4
  | 0x01 => some 8
  | 0x02 => some 16
  | 0x03 => some 8
  | 0x04 => some 16
  | 0x05 => some 32
  | 0x06 => some 32
  | 0x08 => some 32
  | 0x09 => some 16
  | 0x0A => some 16
  | 0x10 => some 8
  | 0x11 => some 8
  | 0x12 => some 6
  | 0x13 => some 6
  | 0x14 => some 4
  | 0x15 => some 8
  | 0x18 => some 8
  | _ => none

/-- Elements per 4 KiB block. -/
def fmtElems (f : Nat) : Nat := match fmtBits f with
  | none => 0
  | some b => 32768 / b

/-! ### Handle fields (R14) -/

/-- Bits [lo + len - 1 : lo] of a handle. -/
def hField (h : BitVec 256) (lo len : Nat) : Nat := bitsOf h.toNat lo len

/-- A handle with bits [lo + len - 1 : lo] replaced by the low bits of `v`. -/
def hPut (h : BitVec 256) (lo len v : Nat) : BitVec 256 :=
  (h &&& ~~~(BitVec.ofNat 256 ((2 ^ len - 1) * 2 ^ lo))) ||| BitVec.ofNat 256 (v % 2 ^ len * 2 ^ lo)

def hBase (h : BitVec 256) : Nat := hField h 0 64
def hGen (h : BitVec 256) : Nat := hField h 64 12
def hKind (h : BitVec 256) : Nat := hField h 76 4
def hFmt (h : BitVec 256) : Nat := hField h 80 8
def hRights (h : BitVec 256) : Nat := hField h 88 8
def hCount (h : BitVec 256) : Nat := hField h 96 16

/-- Handle kinds (R14). -/
abbrev kindNull : Nat := 0
abbrev kindBlk : Nat := 1
abbrev kindSpad : Nat := 2
abbrev kindWspan : Nat := 3
abbrev kindVirta : Nat := 4

/-- BLK: the signed block stride. -/
def hStride (h : BitVec 256) : Int := signedOf 32 (hField h 128 32)
def hPkg (h : BitVec 256) : Nat := hField h 160 6
def hRpkg (h : BitVec 256) : Bool := hField h 166 1 == 1
def hRoff (h : BitVec 256) : Nat := hField h 128 16
def hCoff (h : BitVec 256) : Nat := hField h 144 16
def hRows (h : BitVec 256) : Nat := hField h 160 16
def hCols (h : BitVec 256) : Nat := hField h 176 16

/-- WSPAN: the signed row pitch in bytes. -/
def hPitch (h : BitVec 256) : Int := signedOf 32 (hField h 128 32)
def hWrows (h : BitVec 256) : Nat := hField h 160 16
def hRbytes (h : BitVec 256) : Nat := hField h 176 16
def hH (h : BitVec 256) : Nat := hField h 128 12 + 1
def hW (h : BitVec 256) : Nat := hField h 140 12 + 1
def hC (h : BitVec 256) : Nat := hField h 152 12 + 1
def hKh (h : BitVec 256) : Nat := hField h 164 4
def hKw (h : BitVec 256) : Nat := hField h 168 4
def hStep (h : BitVec 256) : Nat := hField h 172 2 + 1
def hDil (h : BitVec 256) : Nat := hField h 174 2 + 1
def hPad (h : BitVec 256) : Nat := hField h 176 3
def hPix0 (h : BitVec 256) : Nat := hField h 192 24
def hK0 (h : BitVec 256) : Nat := hField h 216 24

/-- The position and length of the field a selector names for a kind (R14); none when it names none. -/
def selField (kind sel : Nat) : Option (Nat × Nat) :=
  match sel with
  | 0 => some (0, 64)
  | 1 => some (64, 12)
  | 2 => some (76, 4)
  | 3 => some (80, 8)
  | 4 => some (88, 8)
  | 5 => some (96, 16)
  | 6 => some (128, 64)
  | 7 => some (192, 64)
  | _ =>
    match kind, sel with
    | 1, 8 => some (128, 32)
    | 1, 9 => some (160, 6)
    | 1, 10 => some (166, 1)
    | 2, 8 => some (128, 16)
    | 2, 9 => some (144, 16)
    | 2, 10 => some (160, 16)
    | 2, 11 => some (176, 16)
    | 3, 8 => some (128, 32)
    | 3, 9 => some (160, 16)
    | 3, 10 => some (176, 16)
    | 4, 8 => some (128, 12)
    | 4, 9 => some (140, 12)
    | 4, 10 => some (152, 12)
    | 4, 11 => some (164, 4)
    | 4, 12 => some (168, 4)
    | 4, 13 => some (172, 2)
    | 4, 14 => some (174, 2)
    | 4, 15 => some (176, 3)
    | 4, 16 => some (192, 24)
    | 4, 17 => some (216, 24)
    | _, _ => none

/-- Whether a selector's field is read sign-extended: STRIDE and PITCH (R113). -/
def selSigned (kind sel : Nat) : Bool := sel == 8 && (kind == kindBlk || kind == kindWspan)

/-! ### The check of a handle (R15) -/

/-- A must-be-zero field is not zero, or a limit of the kind's fields is passed. -/
def handleMbz (h : BitVec 256) : Bool :=
  hField h 112 16 != 0 || hField h 92 4 != 0 || (hKind h != kindBlk && hGen h != 0) ||
  match hKind h with
  | 1 => hField h 167 89 != 0 || (!hRpkg h && hPkg h != 0) || hField h 0 12 != 0
  | 2 => hField h 192 64 != 0 || hField h 0 12 != 0
  | 3 => hField h 192 64 != 0
  | _ => hField h 179 13 != 0 || hField h 240 16 != 0 || hKh h == 0 || hKw h == 0

/-- R15 raises HANDLE for this handle. -/
def handleBad (h : BitVec 256) : Bool :=
  hKind h == 0 || decide (4 < hKind h) || (fmtBits (hFmt h)).isNone || hCount h == 0 || handleMbz h

/-- Bytes of the activation tensor of a VIRTA handle (R14). -/
def virtaBytes (h : BitVec 256) : Nat := (hH h * hW h * hC h * (fmtBits (hFmt h)).getD 8 + 7) / 8

/-- Index of the first scratch block that a SPAD or VIRTA range names past a share of `share` blocks; none when it fits. -/
def spadPast (share : Nat) (h : BitVec 256) : Option Nat :=
  let first := hBase h / 4096
  if hKind h = kindSpad then
    if first + hCount h ≤ share then none else some (share - first)
  else if hKind h = kindVirta then
    if hBase h + virtaBytes h ≤ share * 4096 then none else some (share - first)
  else none

/-- Block `i` of a BLK handle (R95). -/
def blkVa (h : BitVec 256) (i : Nat) : Word := wordOfInt (hBase h + i * hStride h * 4096)

/-- Scratch block index of block `i` of a SPAD handle. -/
def spadTile (h : BitVec 256) (i : Nat) : Nat := hBase h / 4096 + i

/-- Scratch block indices of a SPAD handle. -/
def spadTiles (h : BitVec 256) : List Nat := (List.range (hCount h)).map (spadTile h)

end Sys2Proof.Machine
end

