-- ==== Sys2Proof/Machine/Base.lean ====
section
/-!
DEFINITION. Integer arithmetic, jumps and branches (R44, R54, R55).
-/
namespace Sys2Proof.Machine

/-! ### Arithmetic the manual gives in words (R54, R55) -/

/-- The high 64 bits of a product of integers. -/
def mulHigh (a b : Int) : Word := BitVec.ofInt 64 (a * b / 2 ^ 64)

/-- Signed quotient of `n`-bit values: all ones by zero, the dividend on overflow, else towards zero (R55). -/
def divSigned (n : Nat) (a b : BitVec n) : BitVec n :=
  if b = 0 then BitVec.allOnes n else BitVec.ofInt n (Int.tdiv a.toInt b.toInt)

/-- Signed remainder: the dividend by zero, 0 on overflow (R55). -/
def remSigned (n : Nat) (a b : BitVec n) : BitVec n :=
  if b = 0 then a else BitVec.ofInt n (Int.tmod a.toInt b.toInt)

/-- Unsigned quotient: all ones by zero (R55). -/
def divUnsigned (n : Nat) (a b : BitVec n) : BitVec n :=
  if b = 0 then BitVec.allOnes n else BitVec.ofNat n (a.toNat / b.toNat)

/-- Unsigned remainder: the dividend by zero (R55). -/
def remUnsigned (n : Nat) (a b : BitVec n) : BitVec n :=
  if b = 0 then a else BitVec.ofNat n (a.toNat % b.toNat)

/-- The low 32 bits of a scalar register. -/
def State.xw (s : State) (r : Nat) : BitVec 32 := (s.xr r).setWidth 32

/-! ### Jumps and branches (R44) -/

/-- Control goes to `target` after `s'` of the instruction's own writes; a target with bit 1 set raises
instruction-address-misaligned with the target in mtval, before any write (R44). -/
def State.jumpTo (s : State) (target : Word) (write : State → State) : State :=
  if wbit target 1 then s.trap 0 target else (write s).retireTo target

/-- A conditional branch: taken to the target, or on to the next word. -/
def State.branch (s : State) (taken : Bool) (off : Nat) : State :=
  if taken then s.jumpTo (s.me.pc + sextTo 13 off) id else s.retire

/-- lui (R54). -/
def execLui (rd imm : Nat) (s : State) : Out := .next (s.finish rd (immU imm))

/-- auipc (R54). -/
def execAuipc (rd imm : Nat) (s : State) : Out := .next (s.finish rd (s.me.pc + immU imm))

/-- jal (R54). -/
def execJal (rd off : Nat) (s : State) : Out := .next (s.jumpTo (s.me.pc + sextTo 21 off) fun t => t.setX rd (s.me.pc + 4))

/-- jalr: the target has bit 0 cleared (R54). -/
def execJalr (rd rs1 imm : Nat) (s : State) : Out := .next (s.jumpTo ((s.xr rs1 + imm12 imm) &&& ~~~(1 : Word)) fun t => t.setX rd (s.me.pc + 4))

/-- beq (R54). -/
def execBeq (rs1 rs2 off : Nat) (s : State) : Out := .next (s.branch (s.xr rs1 == s.xr rs2) off)

/-- bne (R54). -/
def execBne (rs1 rs2 off : Nat) (s : State) : Out := .next (s.branch (s.xr rs1 != s.xr rs2) off)

/-- blt (R54). -/
def execBlt (rs1 rs2 off : Nat) (s : State) : Out := .next (s.branch ((s.xr rs1).slt (s.xr rs2)) off)

/-- bge (R54). -/
def execBge (rs1 rs2 off : Nat) (s : State) : Out := .next (s.branch (!(s.xr rs1).slt (s.xr rs2)) off)

/-- bltu (R54). -/
def execBltu (rs1 rs2 off : Nat) (s : State) : Out := .next (s.branch ((s.xr rs1).ult (s.xr rs2)) off)

/-- bgeu (R54). -/
def execBgeu (rs1 rs2 off : Nat) (s : State) : Out := .next (s.branch (!(s.xr rs1).ult (s.xr rs2)) off)

/-- addi (R54). -/
def execAddi (rd rs1 imm : Nat) (s : State) : Out := .next (s.finish rd (s.xr rs1 + imm12 imm))

/-- slti (R54). -/
def execSlti (rd rs1 imm : Nat) (s : State) : Out := .next (s.finish rd (bit01 ((s.xr rs1).slt (imm12 imm))))

/-- sltiu (R54). -/
def execSltiu (rd rs1 imm : Nat) (s : State) : Out := .next (s.finish rd (bit01 ((s.xr rs1).ult (imm12 imm))))

/-- xori (R54). -/
def execXori (rd rs1 imm : Nat) (s : State) : Out := .next (s.finish rd (s.xr rs1 ^^^ imm12 imm))

/-- ori (R54). -/
def execOri (rd rs1 imm : Nat) (s : State) : Out := .next (s.finish rd (s.xr rs1 ||| imm12 imm))

/-- andi (R54). -/
def execAndi (rd rs1 imm : Nat) (s : State) : Out := .next (s.finish rd (s.xr rs1 &&& imm12 imm))

/-- slli (R54). -/
def execSlli (rd rs1 amt : Nat) (s : State) : Out := .next (s.finish rd (s.xr rs1 <<< amt))

/-- srli (R54). -/
def execSrli (rd rs1 amt : Nat) (s : State) : Out := .next (s.finish rd (s.xr rs1 >>> amt))

/-- srai (R54). -/
def execSrai (rd rs1 amt : Nat) (s : State) : Out := .next (s.finish rd ((s.xr rs1).sshiftRight amt))

/-- add (R54). -/
def execAdd (rd rs1 rs2 : Nat) (s : State) : Out := .next (s.finish rd (s.xr rs1 + s.xr rs2))

/-- sub (R54). -/
def execSub (rd rs1 rs2 : Nat) (s : State) : Out := .next (s.finish rd (s.xr rs1 - s.xr rs2))

/-- sll (R54). -/
def execSll (rd rs1 rs2 : Nat) (s : State) : Out := .next (s.finish rd (s.xr rs1 <<< ((s.xr rs2).toNat % 64)))

/-- slt (R54). -/
def execSlt (rd rs1 rs2 : Nat) (s : State) : Out := .next (s.finish rd (bit01 ((s.xr rs1).slt (s.xr rs2))))

/-- sltu (R54). -/
def execSltu (rd rs1 rs2 : Nat) (s : State) : Out := .next (s.finish rd (bit01 ((s.xr rs1).ult (s.xr rs2))))

/-- xor (R54). -/
def execXor (rd rs1 rs2 : Nat) (s : State) : Out := .next (s.finish rd (s.xr rs1 ^^^ s.xr rs2))

/-- srl (R54). -/
def execSrl (rd rs1 rs2 : Nat) (s : State) : Out := .next (s.finish rd (s.xr rs1 >>> ((s.xr rs2).toNat % 64)))

/-- sra (R54). -/
def execSra (rd rs1 rs2 : Nat) (s : State) : Out := .next (s.finish rd ((s.xr rs1).sshiftRight ((s.xr rs2).toNat % 64)))

/-- or (R54). -/
def execOr (rd rs1 rs2 : Nat) (s : State) : Out := .next (s.finish rd (s.xr rs1 ||| s.xr rs2))

/-- and (R54). -/
def execAnd (rd rs1 rs2 : Nat) (s : State) : Out := .next (s.finish rd (s.xr rs1 &&& s.xr rs2))

/-- addiw (R54). -/
def execAddiw (rd rs1 imm : Nat) (s : State) : Out := .next (s.finish rd (sext32 ((s.xr rs1 + imm12 imm).setWidth 32)))

/-- slliw (R54). -/
def execSlliw (rd rs1 amt : Nat) (s : State) : Out := .next (s.finish rd (sext32 (s.xw rs1 <<< amt)))

/-- srliw (R54). -/
def execSrliw (rd rs1 amt : Nat) (s : State) : Out := .next (s.finish rd (sext32 (s.xw rs1 >>> amt)))

/-- sraiw (R54). -/
def execSraiw (rd rs1 amt : Nat) (s : State) : Out := .next (s.finish rd (sext32 ((s.xw rs1).sshiftRight amt)))

/-- addw (R54). -/
def execAddw (rd rs1 rs2 : Nat) (s : State) : Out := .next (s.finish rd (sext32 (s.xw rs1 + s.xw rs2)))

/-- subw (R54). -/
def execSubw (rd rs1 rs2 : Nat) (s : State) : Out := .next (s.finish rd (sext32 (s.xw rs1 - s.xw rs2)))

/-- sllw (R54). -/
def execSllw (rd rs1 rs2 : Nat) (s : State) : Out := .next (s.finish rd (sext32 (s.xw rs1 <<< ((s.xw rs2).toNat % 32))))

/-- srlw (R54). -/
def execSrlw (rd rs1 rs2 : Nat) (s : State) : Out := .next (s.finish rd (sext32 (s.xw rs1 >>> ((s.xw rs2).toNat % 32))))

/-- sraw (R54). -/
def execSraw (rd rs1 rs2 : Nat) (s : State) : Out := .next (s.finish rd (sext32 ((s.xw rs1).sshiftRight ((s.xw rs2).toNat % 32))))

/-- mul (R54, R55). -/
def execMul (rd rs1 rs2 : Nat) (s : State) : Out := .next (s.finish rd (s.xr rs1 * s.xr rs2))

/-- mulh (R54, R55). -/
def execMulh (rd rs1 rs2 : Nat) (s : State) : Out := .next (s.finish rd (mulHigh (s.xr rs1).toInt (s.xr rs2).toInt))

/-- mulhsu (R54, R55). -/
def execMulhsu (rd rs1 rs2 : Nat) (s : State) : Out := .next (s.finish rd (mulHigh (s.xr rs1).toInt (s.xr rs2).toNat))

/-- mulhu (R54, R55). -/
def execMulhu (rd rs1 rs2 : Nat) (s : State) : Out := .next (s.finish rd (mulHigh (s.xr rs1).toNat (s.xr rs2).toNat))

/-- div (R54, R55). -/
def execDiv (rd rs1 rs2 : Nat) (s : State) : Out := .next (s.finish rd (divSigned 64 (s.xr rs1) (s.xr rs2)))

/-- divu (R54, R55). -/
def execDivu (rd rs1 rs2 : Nat) (s : State) : Out := .next (s.finish rd (divUnsigned 64 (s.xr rs1) (s.xr rs2)))

/-- rem (R54, R55). -/
def execRem (rd rs1 rs2 : Nat) (s : State) : Out := .next (s.finish rd (remSigned 64 (s.xr rs1) (s.xr rs2)))

/-- remu (R54, R55). -/
def execRemu (rd rs1 rs2 : Nat) (s : State) : Out := .next (s.finish rd (remUnsigned 64 (s.xr rs1) (s.xr rs2)))

/-- mulw (R54, R55). -/
def execMulw (rd rs1 rs2 : Nat) (s : State) : Out := .next (s.finish rd (sext32 (s.xw rs1 * s.xw rs2)))

/-- divw (R54, R55). -/
def execDivw (rd rs1 rs2 : Nat) (s : State) : Out := .next (s.finish rd (sext32 (divSigned 32 (s.xw rs1) (s.xw rs2))))

/-- divuw (R54, R55). -/
def execDivuw (rd rs1 rs2 : Nat) (s : State) : Out := .next (s.finish rd (sext32 (divUnsigned 32 (s.xw rs1) (s.xw rs2))))

/-- remw (R54, R55). -/
def execRemw (rd rs1 rs2 : Nat) (s : State) : Out := .next (s.finish rd (sext32 (remSigned 32 (s.xw rs1) (s.xw rs2))))

/-- remuw (R54, R55). -/
def execRemuw (rd rs1 rs2 : Nat) (s : State) : Out := .next (s.finish rd (sext32 (remUnsigned 32 (s.xw rs1) (s.xw rs2))))

end Sys2Proof.Machine
end

