-- ==== Sys2Proof/Machine/Translate.lean ====
section
/-!
DEFINITION. Address translation: page-table entries, the walk, the two TLB levels and the miss table, and the checks of a
translated access (R268 to R274, R290).
-/
namespace Sys2Proof.Machine

/-- The bytes of a package's physical address space: addresses are qualified by package times this. -/
abbrev pkgSpan : Nat := 2 ^ 52

/-- The physical address of a qualified address. -/
def paOf (qa : Nat) : Nat := qa % pkgSpan

/-- The package of a qualified address. -/
def pkgOfQa (qa : Nat) : Nat := qa / pkgSpan

/-- The die whose stack holds an address of HBM: bits [39:36] (R290). -/
def stackDie (qa : Nat) : DieId := ⟨pkgOfQa qa, paOf qa / 2 ^ 36 % 16⟩

/-- HBM of the module (R290). -/
def inHbm (qa : Nat) : Bool := decide (paOf qa < 2 ^ 40)

/-- Host memory (R290). -/
def inHost (qa : Nat) : Bool := decide (2 ^ 51 ≤ paOf qa)

/-- Page kinds (R21). -/
abbrev kBlock : Nat := 0
abbrev kTracked : Nat := 1
abbrev kUntracked : Nat := 2
abbrev kReplicated : Nat := 3

/-- The cell window region (R22): never walked. -/
def inWindow (va : Word) : Bool := decide (0x01FFFF0000000000 ≤ va.toNat) && decide (va.toNat < 2 ^ 57)

/-! ### The walk (R268 to R270) -/

namespace State

/-- The aligned word an access names. -/
def wordOf (qa : Nat) : Nat := qa - qa % 8

/-- The bytes of an aligned word that an access names. -/
def Access.bytesOf (a : Access) (w : Word) : Nat := bitsOf w.toNat (8 * (a.qa % 8)) (8 * a.size)

/-- A value of the access's bytes at their place in the aligned word. -/
def Access.place (a : Access) (v : Word) : Word := BitVec.ofNat 64 (v.toNat % 2 ^ (8 * a.size) * 2 ^ (8 * (a.qa % 8)))

/-- The byte mask of an access in its aligned word. -/
def Access.mask (a : Access) : Word := byteMask (a.qa % 8) a.size

/-- The grant of a word to a cell that is on its way: the operation, and the word as the store that waited for it leaves it. -/
def grantOf (s : State) (c : CellId) (w : Nat) : Option (Nat × Word) :=
  s.ops.findSome? fun o => match o.2 with
    | .register a val (some (.word v)) _ =>
      if a.hart.cellId = c ∧ wordOf a.qa = w then some (o.1, mergeWord v (Access.mask a) (Access.place a val)) else none
    | _ => none

/-- The value of a word that is registered to a cell: that of its OWNED copy, or the one that its grant brings (R213). -/
def ownerValue (s : State) (c : CellId) (w : Nat) : Word :=
  match lookup w (s.getCell c).l1 with
  | some ⟨true, d⟩ => d
  | _ => match s.grantOf c w with
    | some g => g.2
    | none => s.mem.word w

end State

/-- The value of a page-table entry at its home, served as a load miss is (R273, R214); none when the word is LOST, or memory holds it with
an uncorrectable error (R317). -/
def State.pte (s : State) (qa : Nat) : Option Word :=
  match lookup qa s.words with
  | none => if s.badWords.contains qa then none else some (s.mem.word qa)
  | some .lost => none
  | some (.registered c) => some (s.ownerValue c qa)

/-- The page size in bytes of a leaf at a level with a SPAN (R270); none for a pair that is not in the table. -/
def leafSize : Nat → Nat → Option Nat
  | 0, 0 => some 0x1000
  | 0, 1 => some 0x4000
  | 0, 2 => some 0x10000
  | 1, 0 => some 0x200000
  | 1, 2 => some 0x2000000
  | 2, 0 => some 0x40000000
  | 2, 2 => some 0x400000000
  | _, _ => none

/-- The index check of a span and the zero check of a large page (R270). -/
def leafBits (lvl span ppn va : Nat) : Bool :=
  let idxLo := 9 * lvl
  let n := match span with
    | 1 => 2
    | 2 => 4
    | _ => 0
  bitsOf ppn 0 idxLo == 0 && bitsOf ppn idxLo n == bitsOf va (12 + idxLo) n

/-- The walk from a table, level `lvl` down (R270): the leaf, or none for a fault. -/
def walkFrom (s : State) (d : DieId) (part win va : Nat) : Nat → Nat → Option TlbEntry
  | 0, t => step 0 t fun _ => none
  | lvl + 1, t => step (lvl + 1) t fun t' => walkFrom s d part win va lvl t'
where
  /-- One entry: at a pointer go on, at a leaf check and answer. -/
  step (lvl t : Nat) (next : Nat → Option TlbEntry) : Option TlbEntry :=
    match s.pte (d.pkg * pkgSpan + (t + 8 * bitsOf va (12 + 9 * lvl) 9)) with
    | none => none
    | some e =>
      if fld e 0 1 = 0 || fld e 52 12 ≠ 0 || fld e 2 1 ≠ 0 then none
      else if fld e 1 1 = 0 then
        if fld e 2 10 ≠ 0 then none else next (fld e 12 40 * 4096)
      else
        match leafSize lvl (fld e 10 2) with
        | none => none
        | some size =>
          if !leafBits lvl (fld e 10 2) (fld e 12 40) va || (fld e 4 1 = 1 && fld e 3 1 = 0) then none
          else some
            { part := part, win := win, va := va / size * size, size := size
              pa := win * pkgSpan + fld e 12 40 * 4096 / size * size
              kind := fld e 7 2, pin := wbit e 9, us := wbit e 6, ex := wbit e 5, wr := wbit e 4, rd := wbit e 3 }

/-- The root register of a partition on a die: PTROOT, or the window root of another package (R268, R298). -/
def State.rootOf (s : State) (d : DieId) (part win : Nat) : Word :=
  if win = d.pkg then (lookup part (s.getDie d).ptroot).getD 0
  else (lookup (part * 64 + win) (s.getDie d).wroot).getD 0

/-- The root register is valid: without one, every access through it raises its page fault (R268, R298). -/
def State.rootValid (s : State) (d : DieId) (part win : Nat) : Bool := fld (s.rootOf d part win) 0 1 == 1

/-- The walk of a virtual address below 2^57 outside the window (R268). -/
def State.walk (s : State) (d : DieId) (part win va : Nat) : Option TlbEntry :=
  if s.rootValid d part win then walkFrom s d part win va 4 (fld (s.rootOf d part win) 12 40 * 4096) else none

/-- An address has a translation, if its walk finds one: it lies below 2^57 and outside the window, which is never walked, and its root is
valid (R268). -/
def State.walked (s : State) (d : DieId) (part win : Nat) (va : Word) : Bool :=
  decide (va.toNat < 2 ^ 57) && !inWindow va && s.rootValid d part win

/-! ### The TLBs (R272, R274) -/

/-- The entry that covers an address. -/
def tlbFind (l : List TlbEntry) (part win va : Nat) : Option TlbEntry :=
  l.find? fun e => e.part == part && e.win == win && decide (e.va ≤ va) && decide (va < e.va + e.size)

/-- Add an entry to a TLB of `cap` entries; the oldest is dropped (which one, the manual leaves open: DESIGN CHOICE, log 9). -/
def tlbAdd (cap : Nat) (l : List TlbEntry) (e : TlbEntry) : List TlbEntry := (e :: l).take cap

/-- Add an entry to a cell's micro-TLB. -/
def State.fillMicro (s : State) (c : CellId) (e : TlbEntry) : State :=
  s.updCell c fun v => { v with tlb := tlbAdd 64 v.tlb e }

/-- Add an entry to a die's shared TLB. -/
def State.fillShared (s : State) (d : DieId) (e : TlbEntry) : State :=
  s.updDie d fun v => { v with tlb := tlbAdd 16384 v.tlb e }

/-- The qualified address an entry gives for an address it covers. -/
def TlbEntry.phys (e : TlbEntry) (va : Nat) : Nat := e.pa + (va - e.va)

/-- A translation for a unit other than a hart (an engine, a channel, a front end): the shared TLB, else what its walk gives. That a
unit first waits for an entry of the miss table is said where its step is taken (R274). -/
def State.translateFor (s : State) (d : DieId) (part win : Nat) (va : Word) : Option TlbEntry :=
  if !s.walked d part win va then none
  else match tlbFind (s.getDie d).tlb part win va.toNat with
    | some e => some e
    | none => s.walk d part win va.toNat

/-- What a hart's translation comes to. -/
inductive Trans where
  | ok (e : TlbEntry) (s : State)
  | fault
  | wait (s : State)

/-- The entry is the miss table's key. -/
def Miss.isKey (part win vpn : Nat) (m : Miss) : Bool := m.part == part && m.win == win && m.vpn == vpn

/-- Entries of the miss table that a cell holds: one that its harts or its engines wait for. -/
def Die.missesOf (die : Die) (c : CellId) : Nat :=
  (die.misses.filter fun m => m.units.contains c || m.waiting.any fun h => decide (h.cellId = c)).length

/-- The miss table has room for a miss of a cell: it is not full, and the cell's share of it is not used up (R274). -/
def Die.missRoom (die : Die) (c : CellId) : Bool := decide (die.misses.length < 4096) && decide (die.missesOf c < 32)

/-- A hart or an engine of a cell waits for its miss to be admitted. -/
def State.missWaits (s : State) (c : CellId) : Bool :=
  (s.harts.any fun p => decide (p.1.cellId = c) && p.2.wait.any fun w => decide (w.kind = .admission)) ||
    (s.getDie c.dieId).unitWaits.any fun w => decide (w.1 = c) && s.pool.contains w.2

/-- A cell's miss is admitted now (R274): there is room for it, and in the round of the cells after the one admitted last no cell that
waits, and has room in its share, comes before it. -/
def State.admits (s : State) (c : CellId) : Bool :=
  let die := s.getDie c.dieId
  let order := (List.range 144).map fun i => (die.missTurn + 1 + i) % 144
  die.missRoom c && (order.takeWhile fun n => n != c.cell).all fun n =>
    let k : CellId := ⟨c.pkg, c.die, n⟩
    !(s.missWaits k && die.missRoom k)

/-- A hart's miss enters the die's miss table, or joins its entry there, and waits; while it is not admitted it waits at the cell
(R274). -/
def State.enterMiss (s : State) (win : Nat) (va : Nat) : State :=
  let d := s.cur.dieId
  let part := s.ctx.part
  let vpn := va / 4096
  let die := s.getDie d
  let join : Miss → Miss := fun m => if m.isKey part win vpn then { m with waiting := m.waiting ++ [s.who] } else m
  if die.misses.any (Miss.isKey part win vpn) then
    (s.updDie d fun v => { v with misses := v.misses.map join }).pending .answer
  else if s.admits s.myCell then
    ((s.updDie d fun v => { v with misses := v.misses ++ [⟨part, win, vpn, [s.who], []⟩], missTurn := s.cur.cell }).pending .answer).push
      (.pageWalk d part va)
  else s.pending .admission

/-- A miss of an engine of a cell enters the die's miss table, or joins its entry there (R274). -/
def State.unitMiss (s : State) (c : CellId) (part win va : Nat) : State :=
  let d := c.dieId
  let vpn := va / 4096
  let join : Miss → Miss := fun m => if m.isKey part win vpn && !m.units.contains c then { m with units := m.units ++ [c] } else m
  if (s.getDie d).misses.any (Miss.isKey part win vpn) then s.updDie d fun v => { v with misses := v.misses.map join }
  else if s.admits c then
    (s.updDie d fun v => { v with misses := v.misses ++ [⟨part, win, vpn, [], [c]⟩], missTurn := c.cell }).push (.pageWalk d part va)
  else s

/-- The translation of a hart's access through the window root of package `win` (its own package: PTROOT). -/
def State.translate (s : State) (win : Nat) (va : Word) : Trans :=
  if !s.walked s.cur.dieId s.ctx.part win va then .fault
  else
    let part := s.ctx.part
    match tlbFind (s.getCell s.myCell).tlb part win va.toNat with
    | some e => .ok e s
    | none =>
      match tlbFind (s.getDie s.cur.dieId).tlb part win va.toNat with
      | some e => .ok e (s.fillMicro s.myCell e)
      | none =>
        if s.me.walkFault = some (win, va.toNat / 4096) then .fault
        else .wait (s.enterMiss win va.toNat)

/-! ### The checks of an access (R271, R290) -/

/-- The access types of R271. -/
inductive Acc where
  | fetch
  | load
  | store
  | amo
  deriving DecidableEq, Repr

/-- The page fault of an access type. -/
def Acc.pageFault : Acc → Nat
  | .fetch => 12
  | .load => 13
  | .store => 15
  | .amo => 15

/-- The access fault of an access type. -/
def Acc.accessFault : Acc → Nat
  | .fetch => 1
  | .load => 5
  | .store => 7
  | .amo => 7

/-- The leaf allows the access in the mode (R271). -/
def leafAllows (acc : Acc) (mode : Mode) (e : TlbEntry) : Bool :=
  (match acc with
    | .fetch => e.ex
    | .load => e.rd
    | .store => e.wr
    | .amo => e.rd && e.wr) && (mode == .m || e.us)

/-- The physical address raises the access fault of its type: no memory there, or host memory under another kind than
WORD_UNTRACKED (R290). -/
def physFault (e : TlbEntry) (qa : Nat) : Bool :=
  !(inHbm qa || inHost qa) || (inHost qa && e.kind != kUntracked)

/-- Translate an address of the current hart and check the leaf; then go on with the entry and the qualified address. In the cell window
there is no page, and the access is of the wrong kind (R22). The page lies on the package whose root is walked: no rule says how a word page
that is homed on another package comes within a hart's reach, which R242 asks for, and no step of the model makes one (DESIGN CHOICE, log
35); such an access is served as R102 and R301 say where a TLB holds such a page. -/
def State.withPage (s : State) (acc : Acc) (win : Nat) (va : Word) (k : State → TlbEntry → Nat → State) : State :=
  if inWindow va then s.trap 27 va
  else match s.translate win va with
  | .fault => s.trap acc.pageFault va
  | .wait s' => s'
  | .ok e s' =>
    if !leafAllows acc s.me.mode e then s.trap acc.pageFault va
    else
      let qa := e.phys va.toNat
      if physFault e qa then s.trap acc.accessFault va else k s' e qa

/-- The kind a page is served under: every word page in host bias is treated as WORD_UNTRACKED (R294). -/
def State.kindAt (s : State) (e : TlbEntry) (qa : Nat) : Nat :=
  if e.kind ≠ kBlock && s.hostBias.contains (qa / 4096) then kUntracked else e.kind

/-- The home of an address: the die of its stack, or the die the landing table names; the sequencing die of a replicated
page is the die of its stack (R290). -/
def State.homeOf (s : State) (kind qa : Nat) : DieId :=
  if kind = kReplicated then stackDie qa else (lookup (qa / 4096) s.homes).getD (stackDie qa)

/-- A walk for a key of the miss table (R274): a leaf goes to the shared TLB and answers every entry it covers; a fault
answers the entry's own waiters, harts and engines, and no entry is made (R272). -/
def State.walkMiss (s : State) (d : DieId) (m : Miss) : State :=
  match s.walk d m.part m.win (m.vpn * 4096) with
  | some e =>
    let cov := fun m' : Miss =>
      m'.part == m.part && m'.win == m.win && decide (e.va ≤ m'.vpn * 4096) && decide (m'.vpn * 4096 < e.va + e.size)
    let s1 := (s.fillShared d e).updDie d fun v => { v with
      misses := v.misses.filter fun m' => !cov m'
      unitPages := v.unitPages ++ ((s.getDie d).misses.filter cov).flatMap fun m' => m'.units.map fun c => (c, m'.part, m'.win, m'.vpn) }
    ((s.getDie d).misses.filter cov).foldl (fun st m' => m'.waiting.foldl (fun u h => u.wake h m.part) st) s1
  | none =>
    let s1 := s.updDie d fun v => { v with
      misses := v.misses.filter fun m' => !decide (m' = m)
      unitFaults := v.unitFaults ++ m.units.map fun c => (c, m.part, m.win, m.vpn) }
    m.waiting.foldl (fun st h => st.updWho h m.part fun v => { v with wait := none, walkFault := some (m.win, m.vpn) }) s1

end Sys2Proof.Machine
end

