-- ==== Sys2Proof/Machine/Words.lean ====
section
/-!
DEFINITION. Word space: the L1, the homes of words, reservations, range locks, posted and written-through stores, and what
each request does at a home (R59, R60, R114 to R117, R123, R211 to R216, R219, R290, R294).
-/
namespace Sys2Proof.Machine

namespace State

/-! ### Small readings -/

/-- The access of the current hart at a translated address. -/
def mkAccess (s : State) (e : TlbEntry) (qa : Nat) (va : Word) (size : Nat) : Access :=
  let k := s.kindAt e qa
  { hart := s.who, part := s.ctx.part, va := va, qa := qa, size := size, kind := k, home := s.homeOf k qa, leaf := e.kind }

/-- A word of a cell's L1. -/
def l1Get (s : State) (c : CellId) (w : Nat) : Option L1Word := lookup w (s.getCell c).l1

/-- A word of a cell's L1 becomes INVALID. -/
def l1Drop (s : State) (c : CellId) (w : Nat) : State := s.updCell c fun v => { v with l1 := erase w v.l1 }

/-- A word becomes INVALID if it is VALID; an OWNED word stays. -/
def l1Invalidate (s : State) (c : CellId) (w : Nat) : State :=
  match s.l1Get c w with
  | some e => if e.owned then s else s.l1Drop c w
  | none => s

/-- A registration is counted at the slice that homes its word (R265); one from another package is counted for no die (R305). -/
def noteRegistration (s : State) (w : Nat) (c : CellId) : State :=
  let d := s.homeOf kTracked w
  s.updDie d fun x => { x with recent := ((w / 4096, if c.pkg = d.pkg then c.die else 16) :: x.recent).take 4096 }

/-- Set the state of a tracked word at its home. -/
def setWordState (s : State) (w : Nat) (st : WordState) : State :=
  let s1 := { s with words := store w st s.words }
  match st with
  | .registered c => s1.noteRegistration w c
  | .lost => s1

/-- A tracked word returns to HOME with a value. -/
def homeWord (s : State) (w : Nat) (v : Word) : State :=
  { s with words := erase w s.words, mem := s.mem.setWord w v, badWords := s.badWords.filter fun b => b != w }

/-- The loads of a word that wait for their answer by a forward on its way to the owner (R215). -/
def forwardsTo (s : State) (w : Nat) : List Nat :=
  let ask := fun (e : Event) => match e with
    | .forward id => match s.getOp id with
      | some (.load a _ none) => if wordOf a.qa = w then some id else none
      | _ => none
    | _ => none
  s.pool.filterMap ask ++ s.flows.flatMap fun f => (f.2.sent.map (fun m => m.2.1) ++ f.2.waiting).filterMap ask

/-- A forward of a word is on its way to its owner (R215). -/
def forwardsOut (s : State) (w : Nat) : Bool := !(s.forwardsTo w).isEmpty

/-- A load's answer leaves for its cell. -/
def answerLoad (s : State) (id : Nat) (a : Access) (inv : Bool) (src : Nat) (ans : Answer) : State :=
  (s.setOp id (.load a inv (some ans))).send src a.hart.pkg 1 (.l1Fill id)

/-- The owner of a word that gives it up answers the forwards that were sent to it before, with the value it holds (R213, R215). -/
def answerForwards (s : State) (c : CellId) (w : Nat) (v : Word) : State :=
  (s.forwardsTo w).foldl (fun t id => match t.getOp id with
    | some (.load a inv none) => t.answerLoad id a inv c.pkg (.supplied c v)
    | _ => t) s

/-- A capacity eviction of a word: one that is OWNED is first written back, and its home takes it to HOME; until then it answers forwards
(R213). -/
def evictWord (s : State) (c : CellId) (w : Nat) : State :=
  match s.l1Get c w with
  | some e =>
    if e.owned && lookup w s.words = some (.registered c) then ((s.answerForwards c w e.data).homeWord w e.data).l1Drop c w else s.l1Drop c w
  | none => s

/-- The words that a cell's L1 holds: 320 KiB less the scratch share, whose blocks of 4 KiB the launch has set (R233). -/
def l1Words (s : State) (c : CellId) : Nat := (320 - 4 * (s.getCell c).ctx.spad) * 128

/-- A word of a full L1 is given up for another (R233, R234). Which one the manual leaves open: DESIGN CHOICE, log 9. -/
def l1Out (s : State) (c : CellId) (w : Nat) : State :=
  let l := (s.getCell c).l1
  match l[Config.l1Bank w s.tick % l.length]? with
  | some e => s.evictWord c e.1
  | none => s

/-- Room in a cell's L1 for a word: where the L1 does not hold the word, so many of its words are given up that it fits (R233). -/
def l1Room (s : State) (c : CellId) (w : Nat) : State :=
  if (s.l1Get c w).isSome then s
  else (List.range ((s.getCell c).l1.length + 1 - s.l1Words c)).foldl (fun t _ => t.l1Out c w) s

/-- Put a word into a cell's L1. -/
def l1Set (s : State) (c : CellId) (w : Nat) (e : L1Word) : State :=
  (s.l1Room c w).updCell c fun v => { v with l1 := store w e v.l1 }

/-- A word of memory holds an uncorrectable error (R317). -/
def isBad (s : State) (w : Nat) : Bool := s.badWords.contains w

/-- A word enters LOST, with an error-log entry at its home (R214, R321). -/
def loseWord (s : State) (w : Nat) (home : DieId) : State :=
  (s.setWordState w .lost).logDie home true 49 (paOf w / 8) 0 0 0

/-- A range-lock entry of a die is hit by bytes of a partition's virtual space (R123). -/
def lockHit (s : State) (d : DieId) (part va size : Nat) : Bool :=
  s.locks.any fun l => decide (l.die = d) && l.part == part && decide (l.lo ≤ va + size - 1) && decide (va ≤ l.hi)

/-- The page of an address is in the middle of a bias flip, so that requests to it are held (R296). -/
def flipping (s : State) (qa : Nat) : Bool := (s.getDie (stackDie qa)).flip.any fun f => f.1 == qa / 4096

/-- The home is busy with another request for the word (R214). -/
def wordBusy (s : State) (w : Nat) (id : Option Nat) : Bool :=
  match lookup w s.busy with
  | none => false
  | some i => some i != id

/-! ### The order of requests at a home (R214, R296) -/

/-- The HDM decoder: the qualified address of a host access of bytes whose host physical addresses all lie in its range (R291). -/
def hdmAddr (s : State) (pkg hpa n : Nat) : Option Nat :=
  let p := s.getPkg pkg
  if p.hdmBase ≤ hpa ∧ hpa + n ≤ p.hdmBase + p.hdmSize ∧ p.hdmSize ≤ 2 ^ 40 then some (pkg * pkgSpan + (hpa - p.hdmBase)) else none

/-- The words that an operation asks its home for, from the first to the end: none once the home has served it. -/
def Op.span : Op → Option (Nat × Nat)
  | .load a _ none => some (wordOf a.qa, wordOf a.qa + 8)
  | .register a _ none _ => some (wordOf a.qa, wordOf a.qa + 8)
  | .atomic a _ _ none => some (wordOf a.qa, wordOf a.qa + 8)
  | .post a _ _ _ _ _ false => some (wordOf a.qa, wordOf a.qa + 8)
  | .row _ _ _ _ _ g _ (some _) false => some (wordOf g.qa, g.qa + g.len)
  | .copyWrite _ _ _ _ g _ => some (wordOf g.qa, g.qa + g.len)
  | _ => none

/-- The operation that an event asks its home to serve, if it is such a request. -/
def asks : Event → Option Nat
  | .loadMiss id => some id
  | .registration id => some id
  | .homeAtomicOp id => some id
  | .postPerform id => some id
  | .storeWriteThrough id _ => some id
  | .wordWrite id => some id
  | _ => none

/-- The words that an event asks their home for. -/
def span (s : State) (e : Event) : Option (Nat × Nat) :=
  match e with
  | .hostMemRead p a n => (s.hdmAddr p a n).map fun qa => (wordOf qa, qa + n)
  | .hostMemWrite p a n _ => (s.hdmAddr p a n).map fun qa => (wordOf qa, qa + n)
  | e => ((asks e).bind s.getOp).bind Op.span

/-- Two ranges of words meet. -/
def meets (r t : Nat × Nat) : Bool := decide (r.1 < t.2) && decide (t.1 < r.2)

/-- A copy channel of a partition at a cell. -/
def getChanFor (s : State) (c : CellId) (part ch : Nat) : Channel :=
  ((s.ctxFor c part).bind fun x => lookup ch x.chans).getD Channel.reset

/-- The locks of the record that a posted write belongs to, while it is in flight. -/
def writeLocks (s : State) (c : CellId) (ch part id : Nat) : List Nat :=
  match (s.getChanFor c part ch).cur with
  | some r => if r.posts.contains id then r.lock :: r.sides else []
  | none => []

/-- A piece lies in a range that another operation has locked (R168). -/
def lockedElse (s : State) (own : List Nat) (part : Nat) (va : Word) (g : Seg) : Bool :=
  s.locks.any fun l => decide (l.die = g.home) && l.part == part && !own.contains l.op && decide (l.lo ≤ va.toNat + g.len - 1) &&
    decide (va.toNat ≤ l.hi)

/-- A post, or a write of a copy record, that its home holds until a range is unlocked (R114, R168). -/
def lockBlocked (s : State) : Event → Bool
  | .postPerform id => match s.getOp id with
    | some (.post a (some _) _ _ _ _ false) => s.lockHit a.home a.part a.va.toNat a.size
    | some (.copyWrite c ch part va g _) => s.lockedElse (s.writeLocks c ch part id) part va g
    | _ => false
  | _ => false

/-- The home does not serve an event yet: the page flips its bias, another request for a word of it is in service, or a range is locked. -/
def homeBusy (s : State) (e : Event) : Bool :=
  match s.span e with
  | none => false
  | some r => s.flipping r.1 || (s.busy.any fun b => meets (b.1, b.1 + 8) r && some b.2 != asks e) || s.lockBlocked e

/-- The mark under which the home holds a request of a page whose bias flips, or has flipped with requests still held. -/
def pageMark (r : Nat × Nat) : Nat := r.1 / 4096 + 1

/-- A request that the home holds for a word of a range, or for its page since the bias of the page flipped (R296). What only waits for a
range to be unlocked holds up nothing that does not. -/
def heldIn (l : List (Nat × Event)) (s : State) (r : Nat × Nat) : Bool :=
  l.any fun h => !s.lockBlocked h.2 && (h.1 == pageMark r || (s.span h.2).any (meets r))

/-- The home holds an event when it arrives: it does not serve it yet, or holds an earlier request for a word of it. -/
def mustHold (s : State) (e : Event) : Bool := s.homeBusy e || (s.span e).any (heldIn s.held s)

/-- The home takes an event up, or holds it behind the requests that came before (R214, R296). -/
def hold (s : State) (e : Event) : State :=
  let mark := match s.span e with
    | some r => if s.flipping r.1 || s.held.any fun h => h.1 == pageMark r then pageMark r else 0
    | none => 0
  { s with held := s.held ++ [(mark, e)] }

/-- The bytes of an operation touch a word. -/
def Op.touches (o : Op) (w : Nat) : Bool :=
  match o with
  | .post a _ _ _ _ _ _ => wordOf a.qa == w
  | .row _ _ _ _ _ g _ _ _ => decide (wordOf g.qa ≤ w) && decide (w < g.qa + g.len)
  | .register a _ _ true => wordOf a.qa == w
  | _ => false

/-- The access of a base store or AMO that its hart does not wait for and that has not performed: written through and not acknowledged, or
still registering its word (R120, R122, R213, R319). -/
def Op.baseStore : Op → Option Access
  | .post a none _ _ _ _ _ => some a
  | .register a _ _ true => some a
  | _ => none

/-- The rows of a hart's drains that stand in the commit buffer and have no operation of their own yet: each counts as a posted store (R139,
R157). -/
def rowsLeft (s : State) (h : HartId) (part : Nat) : List RowReq :=
  match s.ctxFor h.cellId part with
  | some x => (x.commit.filter fun b => decide (b.cmd.src = h)).flatMap fun b => b.rows
  | none => []

/-- The hart has a store (posted, drained, written through or registering) to the word that has not performed, which its accesses wait for
(R117, R211). -/
def ownPending (s : State) (h : HartId) (w : Nat) : Bool :=
  ((s.rowsLeft h (s.getCell h.cellId).ctx.part).any fun r => decide (wordOf r.seg.qa ≤ w) && decide (w < r.seg.qa + r.seg.len)) ||
  s.ops.any fun o => Op.touches o.2 w && (match o.2 with
    | .post a _ _ _ _ _ _ => decide (a.hart = h)
    | .register a _ _ _ => decide (a.hart = h)
    | .row h' _ _ _ _ _ _ _ _ => decide (h' = h)
    | _ => false)

/-- An access that goes to the word's home waits for those, and for a base store that another hart of the cell has under way to the
word, so that the cell's accesses to one word keep to its coherence order (R212). -/
def cellPending (s : State) (h : HartId) (w : Nat) : Bool :=
  s.ownPending h w || s.ops.any fun o => (Op.baseStore o.2).any fun a => decide (a.hart.cellId = h.cellId) && wordOf a.qa == w

/-- A base store of some hart of the cell has not performed, so that memory may not show it (R66, R213). -/
def cellStores (s : State) (c : CellId) : Bool := s.ops.any fun o => (Op.baseStore o.2).any fun a => decide (a.hart.cellId = c)

/-- The hart has a base store or AMO that has not performed (R71, R85, R273). -/
def basePending (s : State) (h : HartId) : Bool := s.ops.any fun o => (Op.baseStore o.2).any fun a => decide (a.hart = h)

/-- The hart has a base store or AMO that a release waits for: one that is not acknowledged, or whose word is not registered at its home
(R122). A release at every scope above CELL waits for those to host memory too (DESIGN CHOICE, log 36). -/
def storesOut (s : State) (h : HartId) : Bool :=
  s.ops.any fun o => match o.2 with
    | .register _ _ (some (.word _)) _ => false
    | x => (Op.baseStore x).any fun a => decide (a.hart = h)

/-- The value of a word at the replica of a die (R219). -/
def replicaWord (s : State) (d : DieId) (w : Nat) : Word :=
  if pkgOfQa w = d.pkg then (lookup (d.die, w) s.replicas).getD (s.mem.word w) else s.mem.word w

/-! ### The home of a word (R214) -/

/-- The value of a word at its home, or at the reader's replica, as a load miss would be served (R165). -/
def servedValue (s : State) (d : DieId) (kind w : Nat) : Word :=
  match lookup w s.words with
  | some (.registered o) => s.ownerValue o w
  | _ => if kind = kReplicated then s.replicaWord d w else s.mem.word w

/-- What a home answers to a request. -/
inductive Serve where
  /-- The value of the word. -/
  | value (v : Word)
  /-- Another cell owns the word. -/
  | owner (c : CellId)
  /-- The request is refused with this cause. -/
  | trap (cause : Nat)
  /-- The home takes the request later. -/
  | later

/-- The state of a word at its home, as any request meets it: held, locked, host memory, or by its kind. -/
def serve (s : State) (a : Access) (id : Option Nat) : Serve :=
  let w := wordOf a.qa
  if s.flipping a.qa || s.wordBusy w id || (id.isNone && heldIn s.held s (w, w + 8)) then .later
  else if s.lockHit a.home a.part a.va.toNat a.size then .trap 28
  else if a.kind = kTracked then
    match lookup w s.words with
    | none => .value (s.mem.word w)
    | some .lost => .trap 29
    | some (.registered c) => .owner c
  else .value (s.mem.word w)

/-- A load of the word raises an access fault: its host link is down, or memory holds it with an uncorrectable error (R297, R317). -/
def loadFaults (s : State) (a : Access) : Bool :=
  (inHost a.qa && !(s.getPkg (pkgOfQa a.qa)).hostUp) ||
    (s.isBad (wordOf a.qa) && (a.kind != kTracked || (lookup (wordOf a.qa) s.words).isNone))

/-- A load miss at the home, or at the local replica (R213, R214); an access fault comes before RANGE_LOCK (R52). -/
def serveLoad (s : State) (a : Access) (id : Option Nat) : Serve :=
  match s.serve a id with
  | .trap 28 => if s.loadFaults a then .trap 5 else .trap 28
  | .value v =>
    if s.loadFaults a then .trap 5
    else if a.kind = kReplicated then .value (s.replicaWord a.hart.dieId (wordOf a.qa)) else .value v
  | r => r

/-- An LR or AMO reads a word that memory holds with an uncorrectable error: its load faults (R317; that an AMO's reading is such a load is
DEDUCED, log 33). -/
def atomicFaults (s : State) (a : Access) (k : AtomicKind) : Bool :=
  decide (k ≠ .sc) && s.isBad (wordOf a.qa) && (a.kind != kTracked || (lookup (wordOf a.qa) s.words).isNone)

/-- The replica of the hart's die is behind the sequencer for the word, so that an LR, which reads the sequencer, would be followed by a
load of an older value (R212). -/
def replicaBehind (s : State) (a : Access) (k : AtomicKind) : Bool :=
  decide (k = .lr) && a.kind == kReplicated && decide (a.hart.pkg = a.home.pkg) && (lookup (a.hart.die, wordOf a.qa) s.replicas).isSome

/-- An LR, SC or AMO at the home (R59, R60, R214); an access fault comes before RANGE_LOCK (R52). -/
def serveAtomic (s : State) (a : Access) (k : AtomicKind) (id : Option Nat) : Serve :=
  match s.serve a id with
  | .trap 28 => if s.atomicFaults a k then .trap 5 else .trap 28
  | .value v => if s.atomicFaults a k then .trap 5 else if s.replicaBehind a k then .later else .value v
  | r => r

/-- A registration at the home: a LOST word is taken by a store of the whole word (R214). -/
def serveRegister (s : State) (a : Access) (id : Option Nat) : Serve :=
  match s.serve a id with
  | .trap 29 => if a.size = 8 then .value 0 else .trap 29
  | r => r

/-! ### Stores that are sequenced at a home -/

/-- A store is applied at the memory controller or sequencing die: memory changes, and for a replicated page each other
replica keeps its old value until it applies the store (R219). -/
def applyStore (s : State) (w : Nat) (kind : Nat) (mask val : Word) : State :=
  let old := s.mem.word w
  let s1 := { s with mem := s.mem.setWord w (mergeWord old mask val)
                     badWords := if mask = BitVec.allOnes 64 then s.badWords.filter fun b => b != w else s.badWords }
  if kind = kReplicated then
    { s1 with replicas := (List.range 16).foldl (fun l d =>
        if d = (stackDie w).die then l
        else match lookup (d, w) l with
          | some _ => l
          | none => store (d, w) old l) s.replicas }
  else s1

/-- The dies whose replica has still to apply a store that die `d` sequences. -/
def replicaDies (d : DieId) : List Nat := (List.range 16).filter fun i => i ≠ d.die

/-- A store sequenced on an earlier turn of the same die is still to be applied at die `d`, so that a later one waits (R219:
every replica applies the stores of one sequencing die in one order). -/
def replBlocked (s : State) (seqDie : DieId) (id d : Nat) : Bool :=
  (s.replOrder.takeWhile fun p => p.2 ≠ id).any fun p =>
    decide (p.1 = seqDie) && (match s.getOp p.2 with
      | some (.post _ _ _ _ _ left _) => left.contains d
      | _ => false)

/-- No sequenced store other than `id` has still to be applied to the word at die `d`. -/
def replSettled (s : State) (id d w : Nat) : Bool :=
  !(s.replOrder.any fun p => p.2 ≠ id && (match s.getOp p.2 with
    | some (.post a _ _ _ _ left _) => left.contains d && wordOf a.qa == w
    | _ => false))

/-- A replica applies a sequenced store. -/
def applyReplica (s : State) (id d w : Nat) (mask val : Word) : State :=
  let old := (lookup (d, w) s.replicas).getD (s.mem.word w)
  if s.replSettled id d w then { s with replicas := erase (d, w) s.replicas }
  else { s with replicas := store (d, w) (mergeWord old mask val) s.replicas }

/-! ### Atomic operations at the home (R59, R60) -/

/-- The new value of the accessed bytes of an AMO, from the old bytes and the operand, both of `8 * size` bits. -/
def amoValue (k : AtomicKind) (size old val : Nat) : Nat :=
  let n := 8 * size
  let so := signedOf n old
  let sv := signedOf n val
  match k with
  | .lr => old
  | .sc => val
  | .swap => val
  | .add => (old + val) % 2 ^ n
  | .xor => (BitVec.ofNat n old ^^^ BitVec.ofNat n val).toNat
  | .and => (BitVec.ofNat n old &&& BitVec.ofNat n val).toNat
  | .or => (BitVec.ofNat n old ||| BitVec.ofNat n val).toNat
  | .min => if sv < so then val else old
  | .max => if so < sv then val else old
  | .minu => if val < old then val else old
  | .maxu => if old < val then val else old

/-- An SC finds its reservation: of the same word, by an LR of the same width (R59). -/
def resvHeld (s : State) (a : Access) : Bool := s.resvs.contains (a.hart, wordOf a.qa, a.size == 8)

/-- A sequenced store is multicast to the other replicas of its page, as an operation of the hart that is acknowledged when
every replica has applied it (R219). -/
def multicast (s : State) (a : Access) (mask val : Word) : State :=
  let w := wordOf a.qa
  let id := s.nextId
  let left := replicaDies (stackDie w)
  let s1 := s.newOp (.post a none mask val false left true)
  ({ s1 with replOrder := s1.replOrder ++ [(stackDie w, id)] }).pushAll (left.map fun d => .storeWriteThrough id d)

/-- A store that an atomic operation makes at the home; on a replicated page it is then multicast (R60). -/
def atomicStore (s : State) (a : Access) (v : Word) : State :=
  let s1 := s.applyStore (wordOf a.qa) a.kind (Access.mask a) (Access.place a v)
  if a.kind = kReplicated then s1.multicast a (Access.mask a) (Access.place a v) else s1

/-- Bytes of a piece that fall into the aligned word `w`: their mask and value. -/
def pieceWord (qa : Nat) (bytes : List Byte) (w : Nat) : Word × Word :=
  (List.range 8).foldl (fun (p : Word × Word) i =>
    if qa ≤ w + i ∧ w + i < qa + bytes.length then
      (p.1 ||| byteMask i 1, p.2 ||| BitVec.ofNat 64 ((bytes.getD (w + i - qa) 0).toNat * 2 ^ (8 * i)))
    else p) (0, 0)

/-- The aligned words that a piece touches. -/
def pieceWords (qa len : Nat) : List Nat :=
  (List.range ((qa + len + 7) / 8 - qa / 8)).map fun i => (qa / 8 + i) * 8

/-- Host memory whose link is down: writes to it are discarded (R297). -/
def hostGone (s : State) (qa : Nat) : Bool := inHost qa && !(s.getPkg (pkgOfQa qa)).hostUp

/-- A store to a LOST word is dropped, with an entry in its home's log that names the hart and its partition (R214, R321). -/
def logDropped (s : State) (a : Access) : State := s.logDie a.home true 49 (paOf (wordOf a.qa) / 8) 0 a.part (a.hart.hart % 32)

/-- The bytes of an engine's write reach a page at its home (R139, R165): the words change, a LOST word that is written whole returns to
HOME and one that is written in part is left as it is, as by a post (R214), reservations of the words are lost as by a posted store (R59; that
a copy write counts as one is DEDUCED, log 18), and a replicated page's other replicas follow. -/
def storeBytes (s : State) (h : HartId) (part : Nat) (va : Word) (g : Seg) (bytes : List Byte) : State :=
  (pieceWords g.qa bytes.length).foldl (fun t w =>
    let m := pieceWord g.qa bytes w
    let a : Access := { hart := h, part := part, va := va + BitVec.ofNat 64 (w - wordOf g.qa), qa := w, size := 8, kind := g.kind,
                        home := g.home, leaf := g.leaf }
    if g.kind = kTracked ∧ lookup w t.words = some .lost ∧ m.1 ≠ BitVec.allOnes 64 then t.logDropped a
    else
      let u := if g.kind = kTracked ∧ lookup w t.words = some .lost then { t with words := erase w t.words } else t
      let t1 := (u.applyStore w g.kind m.1 m.2).loseResv w none
      if g.kind = kReplicated then t1.multicast a m.1 m.2 else t1) s

/-- The cell's own copy of a word becomes INVALID; one that is still registered to the cell is first recalled to the home. -/
def recallOwn (s : State) (c : CellId) (w : Nat) : State := s.evictWord c w

/-- A word that the cell holds OWNED, and that is still registered to it, has its value at its home again; the cell's copy stays as it
is. -/
def ownHome (s : State) (c : CellId) (w : Nat) : State :=
  match s.l1Get c w with
  | some ⟨true, d⟩ => if lookup w s.words = some (.registered c) then s.homeWord w d else s
  | _ => s

/-- The copy of a word that a cell holds has the word's value: it is VALID, or OWNED and still registered to the cell. -/
def copyGood (s : State) (c : CellId) (w : Nat) : Bool :=
  match s.l1Get c w with
  | some ⟨true, _⟩ => decide (lookup w s.words = some (.registered c))
  | some ⟨false, _⟩ => true
  | none => false

/-- An LR, SC or AMO is performed at the home, where the word has its value `old`: the answer word, and the state. The
issuing cell's copy becomes INVALID; one that an alias of the page holds OWNED is first recalled (R60, R221). An SC that fails takes no other
hart's reservation (R59; DESIGN CHOICE, log 36). -/
def performAtomic (s : State) (a : Access) (k : AtomicKind) (val old : Word) : Word × State :=
  let w := wordOf a.qa
  let s1 := (s.ownHome a.hart.cellId w).l1Drop a.hart.cellId w
  match k with
  | .lr => (old, s1.setResv a.hart w (a.size == 8))
  | .sc =>
    if s.resvHeld a then (0, ((s1.atomicStore a val).loseResv w none).dropResv a.hart)
    else (1, s1.dropResv a.hart)
  | k =>
    (old, (s1.atomicStore a (BitVec.ofNat 64 (amoValue k a.size (Access.bytesOf a old) (val.toNat % 2 ^ (8 * a.size))))).loseResv w
      (some a.hart))

/-! ### Accesses of the current hart -/

/-- The answer that reached the current hart is taken. -/
def clearAnswer (s : State) : State := s.updMe fun h => { h with answer := none }

/-- A request for a word homed on another package cannot be sent (R303). -/
def homeCut (s : State) (a : Access) : Bool :=
  decide (a.home.pkg ≠ s.cur.pkg) && s.unreachable s.cur.pkg a.home.pkg

/-- Send a request of the current hart to a word's home; the hart waits for the answer. -/
def request (s : State) (a : Access) (o : Op) (e : Nat → Event) : State :=
  ((s.newOp o).send s.cur.pkg a.home.pkg 0 (e s.nextId)).pending .answer

/-- A load of one aligned word (R213): from the L1, or from the home in the same step when the home can answer at once;
otherwise the hart waits for its fill. `k` goes on with the word. -/
def loadWord (s : State) (a : Access) (k : State → Word → State) : State :=
  let w := wordOf a.qa
  if s.ownPending s.who w then s.await .retry false
  else match s.l1Get s.myCell w with
    | some e => k s e.data
    | none =>
      if s.cellPending s.who w then s.await .retry false
      else if s.homeCut a then s.trap 38 a.va
      else if a.home.pkg ≠ s.cur.pkg then s.request a (.load a false none) .loadMiss
      else match s.serveLoad a none with
        | .value v => k (s.l1Set s.myCell w ⟨false, v⟩) v
        | .trap c => s.trap c a.va
        | _ => s.request a (.load a false none) .loadMiss

/-- A store, post or row of some hart of the cell touches the word and has not performed. -/
def cellTouches (s : State) (c : CellId) (w : Nat) : Bool :=
  s.ops.any fun o => Op.touches o.2 w && (match o.2 with
    | .post a _ _ _ _ _ _ => decide (a.hart.cellId = c)
    | .register a _ _ _ => decide (a.hart.cellId = c)
    | .row _ _ _ c' _ _ _ _ _ => decide (c' = c)
    | _ => false)

/-- A load of the cell's partition performs before the loads and branches that precede it: the word that it reads becomes VALID in the L1 with
the value that its home serves, or its owner (R213, R219, R319; log 4). It is made only where it faults nowhere and no store of the cell to the
word is under way. -/
def earlyLoad (s : State) (c : CellId) (va : Word) : State :=
  let part := (s.getCell c).ctx.part
  match s.translateFor c.dieId part c.pkg va with
  | none => s
  | some e =>
    let qa := e.phys va.toNat
    let w := wordOf qa
    let k := s.kindAt e qa
    let a : Access := { hart := c.hart 0, part := part, va := va, qa := qa, size := 1, kind := k, home := s.homeOf k qa, leaf := e.kind }
    if inWindow va || physFault e qa || e.kind == kBlock || !leafAllows .load .u e || (s.l1Get c w).isSome || s.cellTouches c w ||
      (a.home.pkg != c.pkg && s.unreachable c.pkg a.home.pkg) then s
    else match s.serveLoad a none with
      | .value v => s.l1Set c w ⟨false, v⟩
      | .owner o => match s.l1Get o w with
        | some ⟨true, v⟩ => s.l1Set c w ⟨false, v⟩
        | _ => s
      | _ => s

/-- The cell writes a word it owns; other harts' reservations of the word are lost. -/
def writeOwned (s : State) (c : CellId) (h : HartId) (w : Nat) (base mask val : Word) : State :=
  (s.l1Set c w ⟨true, mergeWord base mask val⟩).loseResv w (some h)

/-- A registration is on its way to a home on the hart's package, and the hart goes on: the store performs when the grant reaches the cell
(R120, R213, R319). -/
def registering (s : State) (a : Access) (val : Word) : State := (s.newOp (.register a val none true)).push (.registration s.nextId)

/-- A base store of a tracked word (R213): into an OWNED copy, or after a registration, which the hart does not wait for where a home on its
package does not refuse it, nor can the owner's answer to the home make it do so (log 4). -/
def storeTracked (s : State) (a : Access) (val : Word) (k : State → State) : State :=
  let w := wordOf a.qa
  match s.l1Get s.myCell w with
  | some ⟨true, d⟩ => k (s.writeOwned s.myCell s.who w d (Access.mask a) (Access.place a val))
  | _ =>
    if s.homeCut a then s.trap 38 a.va
    else if a.home.pkg ≠ s.cur.pkg then s.request a (.register a val none false) .registration
    else match s.serveRegister a none with
      | .value _ => k (s.registering a val)
      | .trap c => s.trap c a.va
      | .owner c =>
        if c ≠ s.myCell ∧ a.size = 8 then k (s.registering a val) else s.request a (.register a val none false) .registration
      | .later => s.request a (.register a val none false) .registration

/-- A base store of an untracked or replicated word (R213): after the range-lock check (R123) it is written through. A copy that an alias
of the page holds OWNED is first written back (R221). -/
def storeThrough (s : State) (a : Access) (val : Word) (k : State → State) : State :=
  let w := wordOf a.qa
  if s.homeCut a then s.trap 38 a.va
  else if s.flipping a.qa then s.await .retry false
  else if s.lockHit a.home a.part a.va.toNat a.size then s.trap 28 a.va
  else
    let s0 := s.ownHome s.myCell w
    let s1 := match s.l1Get s.myCell w with
      | some e =>
        if a.kind = kUntracked ∧ s.copyGood s.myCell w = true then s0.l1Set s.myCell w ⟨false, mergeWord e.data (Access.mask a) (Access.place a val)⟩
        else s0.l1Drop s.myCell w
      | none => s0
    k ((s1.newOp (.post a none (Access.mask a) (Access.place a val) false [] false)).send s.cur.pkg a.home.pkg 2
      (.storeWriteThrough s1.nextId a.home.die))

/-- A base store within one aligned word. `k` goes on when the store may retire. -/
def storeWord (s : State) (a : Access) (val : Word) (k : State → State) : State :=
  if s.cellPending s.who (wordOf a.qa) then s.await .retry false
  else if a.kind = kTracked then s.storeTracked a val k
  else s.storeThrough a val k

/-- An LR, SC or AMO (R59, R60): performed in the same step when no other cell must be asked, otherwise by HOME_ATOMIC_OP.
`k` goes on with the answer word. -/
def atomicWord (s : State) (a : Access) (kind : AtomicKind) (val : Word) (k : State → Word → State) : State :=
  let w := wordOf a.qa
  if s.cellPending s.who w then s.await .retry false
  else if s.homeCut a then s.trap 38 a.va
  else if a.home.pkg ≠ s.cur.pkg || inHost a.qa then s.request a (.atomic a kind val none) .homeAtomicOp
  else match s.serveAtomic a kind none with
    | .value v => let r := s.performAtomic a kind val v; k r.2 r.1
    | .trap c => s.trap c a.va
    | .owner c =>
      match s.l1Get c w with
      | some ⟨true, d⟩ =>
        if c = s.myCell then let r := (s.recallOwn c w).performAtomic a kind val d; k r.2 r.1
        else s.request a (.atomic a kind val none) .homeAtomicOp
      | _ => s.request a (.atomic a kind val none) .homeAtomicOp
    | .later => s.request a (.atomic a kind val none) .homeAtomicOp

/-! ### Posted stores (R114, R115) -/

/-- The post class of a word's home for a unit of a die: 1 DIE, 2 PKG, 3 SYS (R94, R114). -/
def classFrom (d : DieId) (kind qa : Nat) (home : DieId) : Nat :=
  if kind = kReplicated then 2
  else if home.pkg ≠ d.pkg || inHost qa then 3
  else if home.die = d.die then 1 else 2

/-- The post class of a word's home for the current hart. -/
def postClass (s : State) (kind qa : Nat) (home : DieId) : Nat := classFrom s.cur.dieId kind qa home

/-- A post count of a hart. -/
def postCount (h : Hart) (cls : Nat) : Nat :=
  if cls = 1 then h.postDie else if cls = 2 then h.postPkg else h.postSys

/-- The posts of a class that a hart of a partition has outstanding: its count, and the rows of its drains that the commit buffer still holds
(R118, R139, R222). -/
def postsOf (s : State) (v : Hart) (h : HartId) (part cls : Nat) : Nat :=
  postCount v cls + ((s.rowsLeft h part).filter fun r => r.cls == cls).length

/-- The same of the current hart. -/
def posts (s : State) (cls : Nat) : Nat := s.postsOf s.me s.who s.ctx.part cls

/-- Change a post count of a hart. -/
def setPostCount (h : Hart) (cls n : Nat) : Hart :=
  if cls = 1 then { h with postDie := n } else if cls = 2 then { h with postPkg := n } else { h with postSys := n }

/-- Post a store of the current hart (R114): an OWNED copy is yielded, a VALID one made INVALID, the count rises, and the
store is sent. -/
def postStore (s : State) (a : Access) (val : Word) (add : Bool) (k : State → State) : State :=
  let w := wordOf a.qa
  let cls := s.postClass a.kind a.qa a.home
  if s.cellPending s.who w then s.await .retry false
  else if postCount s.me cls = 65535 then s.await .retry false
  else
    let s1 := s.recallOwn s.myCell w
    let s2 := s1.updMe fun h => setPostCount h cls (postCount h cls + 1)
    k ((s2.newOp (.post a (some cls) (Access.mask a) (Access.place a val) add [] false)).send s.cur.pkg a.home.pkg 2
      (.postPerform s2.nextId))

/-! ### Locking a range (R123, R214) -/

/-- What an attempt to lock a range comes to. -/
inductive LockTry where
  | held (s : State)
  | wait
  | refused

/-- The registered words of a piece, with their owners. -/
def ownedWords (s : State) (g : Seg) : List (Nat × CellId) :=
  s.words.filterMap fun p => match p.2 with
    | .registered c => if wordOf g.qa ≤ p.1 ∧ p.1 < g.qa + g.len then some (p.1, c) else none
    | .lost => none

/-- A piece holds a LOST word. -/
def lostIn (s : State) (g : Seg) : Bool :=
  s.words.any fun p => decide (p.2 = .lost) && decide (wordOf g.qa ≤ p.1) && decide (p.1 < g.qa + g.len)

/-- A piece holds a word with an uncorrectable error, which an engine's read meets as OWNER_LOST (R317). Of a word that a cell owns the owner is
asked, not memory. -/
def badIn (s : State) (g : Seg) : Bool :=
  s.badWords.any fun w => decide (wordOf g.qa ≤ w) && decide (w < g.qa + g.len) && (g.kind != kTracked || (lookup w s.words).isNone)

/-- A piece waits: its page is flipping, one of its words is busy, or an owner's grant is still on its way. -/
def pieceHeld (s : State) (g : Seg) : Bool :=
  s.flipping g.qa ||
    (s.busy.any fun p => decide (wordOf g.qa ≤ p.1) && decide (p.1 < g.qa + g.len)) ||
    ((s.ownedWords g).any fun p => !(match s.l1Get p.2 p.1 with
      | some e => e.owned
      | none => false))

/-- A piece waits, or its home holds an earlier request for a word of it. -/
def readHeld (s : State) (g : Seg) : Bool := s.pieceHeld g || heldIn s.held s (wordOf g.qa, g.qa + g.len)

/-- A registered word is taken back from its owner, after the forwards that were sent to it before (R214, R215). A recall takes no reservation
of the word (R59). -/
def recallWord (s : State) (c : CellId) (w : Nat) : State :=
  match s.l1Get c w with
  | some ⟨true, d⟩ => ((s.answerForwards c w d).homeWord w d).l1Drop c w
  | _ => s

/-- A range to lock: the operation that locks it, its first and last virtual address, and the pieces it covers. -/
structure Side where
  id : Nat
  lo : Nat
  hi : Nat
  segs : List Seg

/-- The dies that home a piece of a range. -/
def Side.dies (r : Side) : List DieId := (r.segs.map fun g => g.home).eraseDups

/-- Lock ranges of a partition, all or none, at every die that homes a piece of them (R123, R165): it waits while a table would
pass 1,024 entries or a range that is not of the operations `own` overlaps; a LOST word refuses it; registrations within the
ranges are taken back. -/
def tryLockAll (s : State) (own : List Nat) (c : CellId) (part : Nat) (sides : List Side) : LockTry :=
  let segs := sides.flatMap fun r => r.segs
  let entries := sides.flatMap fun r => (Side.dies r).map fun d => (⟨d, part, r.lo, r.hi, r.id, c⟩ : RangeLock)
  let full := fun d : DieId => 1024 < (s.locks.filter fun l => decide (l.die = d)).length +
    (entries.filter fun l => decide (l.die = d)).length
  let clash := fun e : RangeLock => s.locks.any fun l =>
    decide (l.die = e.die) && l.part == part && !own.contains l.op && decide (l.lo ≤ e.hi) && decide (e.lo ≤ l.hi)
  if entries.any fun e => full e.die || clash e then .wait
  else if segs.any s.readHeld then .wait
  else if segs.any fun g => g.kind == kTracked && s.lostIn g then .refused
  else
    let s1 := segs.foldl (fun t g => (t.ownedWords g).foldl (fun u p => u.recallWord p.2 p.1) t) s
    .held { s1 with locks := s1.locks ++ entries }

/-- Try to lock the range of one operation; `own` are the operations it does not wait for. -/
def tryLock (s : State) (own : List Nat) (id : Nat) (c : CellId) (part lo hi : Nat) (segs : List Seg) : LockTry :=
  s.tryLockAll own c part [⟨id, lo, hi, segs⟩]

/-- Remove every entry of an operation. -/
def unlock (s : State) (id : Nat) : State := { s with locks := s.locks.filter fun l => l.op != id }

end State

end Sys2Proof.Machine
end

