-- ==== Sys2Proof/Machine/Order.lean ====
section
/-!
DEFINITION. Releases and acquires (R57, R58, R122, R217), invalidation of the L1 (R119), and the loads and stores of a hart
by virtual address, with the cell window (R22, R56).
-/
namespace Sys2Proof.Machine

namespace State

/-! ### Groups (R24, R122) -/

/-- The cells of a group of a gang. -/
def groupCells (g : Gang) (grp : Nat) : List CellId :=
  if grp = 0 then g.cells
  else match lookup grp g.lpb.groups with
    | some ranks => ranks.filterMap fun r => g.cells[r]?
    | none => []

/-- The post classes a release covers at a scope, for a unit of a cell (R122). -/
def coversAt (s : State) (id : CellId) (scope grp : Nat) : List Nat :=
  match scope with
  | 0 => []
  | 1 =>
    let cells := match s.gangOf id with
      | some g => groupCells g grp
      | none => []
    if cells.isEmpty then [1, 2]
    else if cells.all fun c => decide (c.dieId = id.dieId) then [1] else [1, 2]
  | 2 => [1]
  | 3 => [1, 2]
  | _ => [1, 2, 3]

/-- The post classes a release of the current hart covers. -/
def covers (s : State) (scope grp : Nat) : List Nat := s.coversAt s.myCell scope grp

/-- The release of a scope is settled: nothing it covers is outstanding (R122), the rows of the hart's earlier drains among it (R217, R222). -/
def released (s : State) (scope grp : Nat) : Bool :=
  scope == 0 || (!s.storesOut s.who && (s.covers scope grp).all fun c => s.posts c == 0)

/-- A release (R122): the hart waits until it is settled. An interrupt does not abandon it (R97). -/
def release (s : State) (scope grp : Nat) (k : State → State) : State :=
  if s.released scope grp then k s else s.await .retry false

/-- Loads in flight of a cell serve once and leave their word INVALID (R215). -/
def spoilLoads (s : State) (c : CellId) (hit : Nat → Bool) : State :=
  { s with ops := s.ops.map fun o => match o.2 with
      | .load a i ans => if a.hart.cellId = c ∧ hit (wordOf a.qa) then (o.1, .load a true ans) else (o.1, .load a i ans)
      | x => (o.1, x) }

/-- Every VALID word of a cell's L1 that `hit` names becomes INVALID; OWNED words stay (R119, R213). -/
def invalidate (s : State) (c : CellId) (hit : Nat → Bool) : State :=
  (s.updCell c fun v => { v with l1 := v.l1.filter fun e => e.2.owned || !hit e.1 }).spoilLoads c hit

/-- An acquire (R122). -/
def acquire (s : State) (scope : Nat) : State :=
  if scope = 0 then s else s.invalidate s.myCell fun _ => true

/-- The scope and group that ms.scope holds (R12). -/
def msScope (s : State) : Nat × Nat := (fld s.me.csr.msScope 0 3, fld s.me.csr.msScope 8 8)

/-! ### Loads and stores by virtual address (R22, R56) -/

/-- A byte of the cell window at an offset from its base (R22). -/
def windowByte (s : State) (c : CellId) (off : Nat) : Byte :=
  let x := (s.getCell c).ctx
  if off < 128 then BitVec.ofNat 8 (bitsOf x.flags.toNat (8 * off) 8)
  else if 0x10000 ≤ off ∧ off < 0x14000 then
    let o := off - 0x10000
    match lookup (o / 256) x.rings with
    | some r => BitVec.ofNat 8 (fld ((lookup (o % 256 / 8) r.ring).getD 0) (8 * (o % 8)) 8)
    | none => 0
  else 0

/-- The bytes of a load in the window. -/
def windowRead (s : State) (va : Word) (size : Nat) : Word :=
  BitVec.ofNat 64 (bytesToNat ((List.range size).map fun i => s.windowByte s.myCell (va.toNat - 0x01FFFF0000000000 + i)))

/-- The bytes of an aligned word that an access at a virtual address names: a page keeps the low 12 bits of an address (R270). -/
def bytesFor (va : Word) (size : Nat) (v : Word) : Nat := bitsOf v.toNat (8 * (va.toNat % 8)) (8 * size)

/-- A load of `size` bytes: `k` goes on with them, zero-extended. An answer that the access waited for is taken before anything else, so
that the access is not made again. -/
def loadVA (s : State) (va : Word) (size : Nat) (k : State → Word → State) : State :=
  if va.toNat % size ≠ 0 then s.trap 4 va
  else if inWindow va then
    if va.toNat - 0x01FFFF0000000000 < 0x20000 then k s (s.windowRead va size) else s.trap 27 va
  else match s.me.answer with
    | some (.word v) => k s.clearAnswer (BitVec.ofNat 64 (bytesFor va size v))
    | some (.trap c t) => s.trap c t
    | _ => s.withPage .load s.cur.pkg va fun s e qa =>
      if e.kind = kBlock then s.trap 27 va
      else
        let a := s.mkAccess e qa va size
        s.loadWord a fun s v => k s (BitVec.ofNat 64 (Access.bytesOf a v))

/-- A base store of the low `size` bytes of a value. An answer that it waited for is taken first, so that the store is made once. -/
def storeVA (s : State) (va : Word) (size : Nat) (val : Word) (k : State → State) : State :=
  if va.toNat % size ≠ 0 then s.trap 6 va
  else if inWindow va then s.trap 27 va
  else match s.me.answer with
    | some (.trap c t) => s.trap c t
    | some _ => k s.clearAnswer
    | none => s.withPage .store s.cur.pkg va fun s e qa =>
      if e.kind = kBlock then s.trap 27 va else s.storeWord (s.mkAccess e qa va size) val k

/-- The low `8 * size` bits of a value, sign- or zero-extended. -/
def extend (size : Nat) (signed : Bool) (v : Word) : Word :=
  if signed then sextTo (8 * size) v.toNat else BitVec.ofNat 64 (v.toNat % 2 ^ (8 * size))

/-- A load instruction. -/
def load (s : State) (rd : Nat) (va : Word) (size : Nat) (signed : Bool) : State :=
  s.loadVA va size fun s v => s.finish rd (extend size signed v)

/-- A store instruction. -/
def storeIns (s : State) (rs2 : Nat) (va : Word) (size : Nat) : State :=
  s.storeVA va size (s.xr rs2) fun s => s.retire

/-- An AMO, LR or SC instruction with its release before and its acquire after (R58 to R60). `acc` is the access type and
`mis` the cause of a misaligned address. An answer that it waited for is taken first, so that it is performed once. -/
def atomic (s : State) (kind : AtomicKind) (acc : Acc) (mis : Nat) (size aq rl rd rs1 : Nat) (val : Word) : State :=
  let va := s.xr rs1
  let sc := s.msScope
  if va.toNat % size ≠ 0 then s.trap mis va
  else if inWindow va then s.trap 27 va
  else
    let done := fun (s : State) (v : Word) (old : Nat) =>
      let s' := if aq = 1 then s.acquire sc.1 else s
      s'.finish rd (match kind with
        | .sc => v
        | _ => extend size true (BitVec.ofNat 64 old))
    match s.me.answer with
    | some (.word v) => done s.clearAnswer v (bytesFor va size v)
    | some (.trap c t) => s.trap c t
    | _ => s.withPage acc s.cur.pkg va fun s e qa =>
      if e.kind = kBlock then s.trap 27 va
      else
        let a := s.mkAccess e qa va size
        let go := fun s : State => s.atomicWord a kind val fun s v => done s v (Access.bytesOf a v)
        if rl = 1 then s.release sc.1 sc.2 go else go s

end State

end Sys2Proof.Machine
end

