-- ==== Sys2Proof/Machine/LoadStore.lean ====
section
/-!
DEFINITION. Base loads and stores, LR, SC and the AMOs (R54, R56, R58 to R60).
-/
namespace Sys2Proof.Machine

/-- lb: 1 byte, sign-extended (R54, R56). -/
def execLb (rd rs1 imm : Nat) (s : State) : Out := .next (s.load rd (s.addrI rs1 imm) 1 true)

/-- lh: 2 bytes, sign-extended (R54, R56). -/
def execLh (rd rs1 imm : Nat) (s : State) : Out := .next (s.load rd (s.addrI rs1 imm) 2 true)

/-- lw: 4 bytes, sign-extended (R54, R56). -/
def execLw (rd rs1 imm : Nat) (s : State) : Out := .next (s.load rd (s.addrI rs1 imm) 4 true)

/-- ld: 8 bytes, sign-extended (R54, R56). -/
def execLd (rd rs1 imm : Nat) (s : State) : Out := .next (s.load rd (s.addrI rs1 imm) 8 true)

/-- lbu: 1 byte, zero-extended (R54, R56). -/
def execLbu (rd rs1 imm : Nat) (s : State) : Out := .next (s.load rd (s.addrI rs1 imm) 1 false)

/-- lhu: 2 bytes, zero-extended (R54, R56). -/
def execLhu (rd rs1 imm : Nat) (s : State) : Out := .next (s.load rd (s.addrI rs1 imm) 2 false)

/-- lwu: 4 bytes, zero-extended (R54, R56). -/
def execLwu (rd rs1 imm : Nat) (s : State) : Out := .next (s.load rd (s.addrI rs1 imm) 4 false)

/-- sb: the low 1 byte of x[rs2] (R54, R56). -/
def execSb (rs1 rs2 imm : Nat) (s : State) : Out := .next (s.storeIns rs2 (s.addrI rs1 imm) 1)

/-- sh: the low 2 bytes of x[rs2] (R54, R56). -/
def execSh (rs1 rs2 imm : Nat) (s : State) : Out := .next (s.storeIns rs2 (s.addrI rs1 imm) 2)

/-- sw: the low 4 bytes of x[rs2] (R54, R56). -/
def execSw (rs1 rs2 imm : Nat) (s : State) : Out := .next (s.storeIns rs2 (s.addrI rs1 imm) 4)

/-- sd: the low 8 bytes of x[rs2] (R54, R56). -/
def execSd (rs1 rs2 imm : Nat) (s : State) : Out := .next (s.storeIns rs2 (s.addrI rs1 imm) 8)

/-- lr.w (R59). -/
def execLrW (aq rl rd rs1 : Nat) (s : State) : Out := .next (s.atomic .lr .load 4 4 aq rl rd rs1 0)

/-- sc.w: 0 on success, 1 on failure (R59). -/
def execScW (aq rl rd rs1 rs2 : Nat) (s : State) : Out := .next (s.atomic .sc .store 6 4 aq rl rd rs1 (s.xr rs2))

/-- lr.d (R59). -/
def execLrD (aq rl rd rs1 : Nat) (s : State) : Out := .next (s.atomic .lr .load 4 8 aq rl rd rs1 0)

/-- sc.d: 0 on success, 1 on failure (R59). -/
def execScD (aq rl rd rs1 rs2 : Nat) (s : State) : Out := .next (s.atomic .sc .store 6 8 aq rl rd rs1 (s.xr rs2))

/-- amoswap.w (R60). -/
def execAmoswapW (aq rl rd rs1 rs2 : Nat) (s : State) : Out := .next (s.atomic .swap .amo 6 4 aq rl rd rs1 (s.xr rs2))

/-- amoswap.d (R60). -/
def execAmoswapD (aq rl rd rs1 rs2 : Nat) (s : State) : Out := .next (s.atomic .swap .amo 6 8 aq rl rd rs1 (s.xr rs2))

/-- amoadd.w (R60). -/
def execAmoaddW (aq rl rd rs1 rs2 : Nat) (s : State) : Out := .next (s.atomic .add .amo 6 4 aq rl rd rs1 (s.xr rs2))

/-- amoadd.d (R60). -/
def execAmoaddD (aq rl rd rs1 rs2 : Nat) (s : State) : Out := .next (s.atomic .add .amo 6 8 aq rl rd rs1 (s.xr rs2))

/-- amoxor.w (R60). -/
def execAmoxorW (aq rl rd rs1 rs2 : Nat) (s : State) : Out := .next (s.atomic .xor .amo 6 4 aq rl rd rs1 (s.xr rs2))

/-- amoxor.d (R60). -/
def execAmoxorD (aq rl rd rs1 rs2 : Nat) (s : State) : Out := .next (s.atomic .xor .amo 6 8 aq rl rd rs1 (s.xr rs2))

/-- amoand.w (R60). -/
def execAmoandW (aq rl rd rs1 rs2 : Nat) (s : State) : Out := .next (s.atomic .and .amo 6 4 aq rl rd rs1 (s.xr rs2))

/-- amoand.d (R60). -/
def execAmoandD (aq rl rd rs1 rs2 : Nat) (s : State) : Out := .next (s.atomic .and .amo 6 8 aq rl rd rs1 (s.xr rs2))

/-- amoor.w (R60). -/
def execAmoorW (aq rl rd rs1 rs2 : Nat) (s : State) : Out := .next (s.atomic .or .amo 6 4 aq rl rd rs1 (s.xr rs2))

/-- amoor.d (R60). -/
def execAmoorD (aq rl rd rs1 rs2 : Nat) (s : State) : Out := .next (s.atomic .or .amo 6 8 aq rl rd rs1 (s.xr rs2))

/-- amomin.w (R60). -/
def execAmominW (aq rl rd rs1 rs2 : Nat) (s : State) : Out := .next (s.atomic .min .amo 6 4 aq rl rd rs1 (s.xr rs2))

/-- amomin.d (R60). -/
def execAmominD (aq rl rd rs1 rs2 : Nat) (s : State) : Out := .next (s.atomic .min .amo 6 8 aq rl rd rs1 (s.xr rs2))

/-- amomax.w (R60). -/
def execAmomaxW (aq rl rd rs1 rs2 : Nat) (s : State) : Out := .next (s.atomic .max .amo 6 4 aq rl rd rs1 (s.xr rs2))

/-- amomax.d (R60). -/
def execAmomaxD (aq rl rd rs1 rs2 : Nat) (s : State) : Out := .next (s.atomic .max .amo 6 8 aq rl rd rs1 (s.xr rs2))

/-- amominu.w (R60). -/
def execAmominuW (aq rl rd rs1 rs2 : Nat) (s : State) : Out := .next (s.atomic .minu .amo 6 4 aq rl rd rs1 (s.xr rs2))

/-- amominu.d (R60). -/
def execAmominuD (aq rl rd rs1 rs2 : Nat) (s : State) : Out := .next (s.atomic .minu .amo 6 8 aq rl rd rs1 (s.xr rs2))

/-- amomaxu.w (R60). -/
def execAmomaxuW (aq rl rd rs1 rs2 : Nat) (s : State) : Out := .next (s.atomic .maxu .amo 6 4 aq rl rd rs1 (s.xr rs2))

/-- amomaxu.d (R60). -/
def execAmomaxuD (aq rl rd rs1 rs2 : Nat) (s : State) : Out := .next (s.atomic .maxu .amo 6 8 aq rl rd rs1 (s.xr rs2))

end Sys2Proof.Machine
end

