-- ==== Sys2Proof/Machine/Blocks.lean ====
section
/-!
DEFINITION. Block space: the presence of a block at its home (R98 to R102), the sending of presence requests, and the landing
of their answers in a cell (R103 to R106, R303).
-/
namespace Sys2Proof.Machine

/-- The 4,096 bytes of a block or scratch block, lowest offset first. -/
def dataBytes (d : BitVec 32768) : List Byte := natToBytes 4096 d.toNat

/-- The data of 4,096 bytes. -/
def bytesData (l : List Byte) : BitVec 32768 := BitVec.ofNat 32768 (bytesToNat l)

/-- How an expected generation relates to a block's (R98). -/
inductive GenRel where
  | matches
  | ahead
  | stale
  deriving DecidableEq, Repr

/-- The relation of a request that expects `e` to a block at generation `c` (R98). -/
def genRel (e c : Nat) : GenRel :=
  let d := (e + 4096 - c % 4096) % 4096
  if d = 0 then .matches else if d ≤ 2047 then .ahead else .stale

/-- The presence state field: 0 EMPTY, 1 DEFERRED, 2 FULL, 3 POISON (R20, R100). -/
def Block.code (b : Block) : Nat :=
  if b.poison then 3 else if b.full then 2 else if b.list.isEmpty then 0 else 1

/-- The block is FULL or POISON. -/
def Block.filled (b : Block) : Bool := b.full || b.poison

/-- The presence word (R20). -/
def Block.presence (b : Block) : Nat :=
  b.code + b.gen % 4096 * 4 + if b.list.any (fun e => e.spilled.isSome) then 2 ^ 14 else 0

/-- The answer word of `bclr` and `bpois` (R105). -/
def codedAnswer (b : Block) (code : Nat) : Word :=
  BitVec.ofNat 64 (code + b.gen % 4096 * 2 ^ 16 + b.code * 2 ^ 30)

namespace State

/-! ### Answers -/

/-- The package of the unit that made a request. -/
def reqPkg : Requester → Nat
  | .hart h => h.pkg
  | .chan c _ => c.pkg
  | .solver d _ => d.pkg

/-- The answer of the home is on its way: data and refusals of a read to the scratch block, answers of a write to the waiting
unit (R99, R103, R104). An answer to a package that is unreachable is dropped and logged (R303). -/
def sendAnswer (s : State) (id : Nat) (ans : BlockAns) : State :=
  match s.getOp id with
  | some (.block req who part blk gen tile idx data side retries _ _) =>
    let s1 := s.setOp id (.block req who part blk gen tile idx data side retries true (some ans))
    let src := pkgOfQa blk
    if src ≠ reqPkg who && s.isCut src (reqPkg who) then
      let s2 := (s1.logDie (stackDie blk) true 51 (reqPkg who) 0 0 0).pushOnce (.destinationUnreachable (reqPkg who) src)
      match who with
      | .hart h => if 1024 ≤ h.hart then s2.dropOp id else s2
      | _ => s2
    else s1.send src (reqPkg who) 1 (match req with
      | .read _ => .blockAnswerLands id
      | _ => .blockWriteAnswer id)
  | _ => s

/-- The data and sideband a block holds. -/
def blockData (s : State) (blk : Nat) : BlockAns :=
  .data (bytesData (s.mem.readBytes blk 4096)) (s.getBlock blk).side

/-! ### The sillage list (R100, R101) -/

/-- Entries the spill region of a die has room for. -/
def spillRoom (s : State) (d : DieId) : Nat := ((lookup 0x1038 (s.getDie d).regs).getD 0).toNat / 8

/-- Take an entry out of the count of the sillage store or of the spill region. -/
def uncount (s : State) (d : DieId) (e : Sillage) : State :=
  s.updDie d fun v => if e.spilled.isSome then { v with spilled := v.spilled - 1 } else { v with sillage := v.sillage - 1 }

/-- Release every entry that expects the block's generation, in list order, each with `ans` (R99, R100). -/
def releaseList (s : State) (blk : Nat) (ans : BlockAns) : State :=
  let b := s.getBlock blk
  let go := b.list.filter fun e => e.egen == b.gen
  let s1 := s.setBlock blk { b with list := b.list.filter fun e => e.egen != b.gen }
  go.foldl (fun t e => (t.uncount (stackDie blk) e).sendAnswer e.op ans) s1

/-- A sillage entry as it stands in the spill region (R101). What HART holds for a copy channel, whose reader is no hart, no rule states
(log 12). -/
def sillageWord (who : Requester) (q : Bool) (tile egen : Nat) : Word :=
  let r : CellId × Nat := match who with
    | .hart h => (h.cellId, h.hart)
    | .chan c ch => (c, Config.unstated 65 ch 0)
    | .solver d _ => (⟨d.pkg, d.die, 0⟩, Config.unstated 65 0 1)
  BitVec.ofNat 64 ((if q then 2 ^ 42 else 0) + r.1.pkg % 64 * 2 ^ 36 + r.1.die % 16 * 2 ^ 32 + r.1.cell % 256 * 2 ^ 24 + r.2 % 32 * 2 ^ 19 +
    tile % 128 * 2 ^ 12 + egen % 4096)

/-- The first free place of a die's spill region. That an entry takes that place, and that a place which is freed keeps its bytes, is a DESIGN CHOICE,
log 35: the manual gives an entry's layout and the region, and no placement. -/
def spillPlace (s : State) (d : DieId) : Nat :=
  let used := (s.blocks.filter fun b => decide (stackDie b.1 = d)).flatMap fun b => b.2.list.filterMap fun e => e.spilled
  ((List.range (used.length + 1)).find? fun i => !used.contains i).getD used.length

/-- An entry is written into the spill region, at SPILL.BASE (R101, R246). -/
def spillEntry (s : State) (d : DieId) (place : Nat) (w : Word) : State :=
  let base := ((lookup 0x1030 (s.getDie d).regs).getD 0).toNat
  { s with mem := s.mem.setWord (d.pkg * pkgSpan + (base + 8 * place) % pkgSpan) w }

/-- Append a reader, in the store or the spill region; none when both are full (R101). -/
def appendReader (s : State) (blk : Nat) (q : Bool) (id egen : Nat) : Option State :=
  let d := stackDie blk
  let die := s.getDie d
  let b := s.getBlock blk
  if die.sillage < 65536 then
    some ((s.setBlock blk { b with list := b.list ++ [⟨q, id, egen, none⟩] }).updDie d fun v => { v with sillage := v.sillage + 1 })
  else if die.spilled < s.spillRoom d then
    let place := s.spillPlace d
    let w := match s.getOp id with
      | some (.block _ who _ _ _ tile _ _ _ _ _ _) => sillageWord who q tile egen
      | _ => 0
    some (((s.setBlock blk { b with list := b.list ++ [⟨q, id, egen, some place⟩] }).updDie d fun v =>
      { v with spilled := v.spilled + 1 }).spillEntry d place w)
  else none

/-! ### What the home does (R99) -/

/-- A read request. -/
def homeRead (s : State) (id blk gen : Nat) (q : Bool) : State :=
  let b := s.getBlock blk
  match genRel gen b.gen with
  | .stale => s.sendAnswer id .stale
  | r =>
    if r = .matches ∧ b.poison then s.sendAnswer id .poison
    else if r = .matches ∧ b.full then s.sendAnswer id (s.blockData blk)
    else match s.appendReader blk q id gen with
      | some s1 => s1
      | none =>
        (match s.getOp id with
          | some (.block req who part blk gen tile idx data side retries ap ans) =>
            s.setOp id (.block req who part blk gen tile idx data side (retries + 1) ap ans)
          | _ => s).push (.deferRetry id)

/-- A write request. -/
def homeWrite (s : State) (id blk gen : Nat) (data : BitVec 32768) (side : BitVec 512) : State :=
  let b := s.getBlock blk
  if genRel gen b.gen ≠ .matches then s.sendAnswer id (if genRel gen b.gen = .ahead then .ahead else .stale)
  else if b.filled then s.sendAnswer id .doubleFill
  else
    let s1 := { s with mem := s.mem.writeBytes blk (dataBytes data) }.setBlock blk { b with full := true, side := side }
    (s1.releaseList blk (.data data side)).sendAnswer id .written

/-- A poison request. -/
def homePoison (s : State) (id blk gen : Nat) : State :=
  let b := s.getBlock blk
  if genRel gen b.gen ≠ .matches then s.sendAnswer id (.coded (codedAnswer b 3))
  else if b.filled then s.sendAnswer id (.coded (codedAnswer b 4))
  else
    let s1 := (s.setBlock blk { b with poison := true }).releaseList blk .poison
    s1.sendAnswer id (.coded (codedAnswer (s1.getBlock blk) 0))

/-- A clear request. -/
def homeClear (s : State) (id blk gen : Nat) : State :=
  let b := s.getBlock blk
  if genRel gen b.gen ≠ .matches then s.sendAnswer id (.coded (codedAnswer b 3))
  else if b.filled then
    let b' := { b with gen := (b.gen + 1) % 4096, full := false, poison := false }
    (s.setBlock blk b').sendAnswer id (.coded (codedAnswer b' 0))
  else s.sendAnswer id (.coded (codedAnswer b (if b.list.isEmpty then 2 else 1)))

/-- A status read (R106). -/
def homeStatus (s : State) (id blk : Nat) : State :=
  let b := s.getBlock blk
  s.sendAnswer id (.coded (BitVec.ofNat 64 (b.presence + min b.list.length 65535 * 2 ^ 16)))

/-! ### Requests (R102) -/

/-- The event of a presence request. -/
def reqEvent : BlockReq → Nat → Event
  | .read _ => .readRequest
  | .write => .writeRequest
  | .poison => .poisonRequest
  | .clear => .clearRequest
  | .status => .presenceStatusRead

/-- The request may be applied: every earlier request of the same unit to the same home has been (R102). -/
def inTurn (s : State) (id : Nat) : Bool :=
  match s.getOp id with
  | some (.block _ who _ blk _ _ _ _ _ _ _ _) =>
    !(s.ops.any fun o => decide (o.1 < id) && (match o.2 with
      | .block _ who' _ blk' _ _ _ _ _ _ false _ => decide (who' = who) && decide (stackDie blk' = stackDie blk)
      | _ => false))
  | _ => false

/-- The home has taken the request up. -/
def markApplied (s : State) (id : Nat) : State :=
  match s.getOp id with
  | some (.block req who part blk gen tile idx data side retries _ ans) =>
    s.setOp id (.block req who part blk gen tile idx data side retries true ans)
  | _ => s

/-- The home applies a request (R99, R106). -/
def homeApply (s : State) (id : Nat) : State :=
  match s.getOp id with
  | some (.block req _ _ blk gen _ _ data side _ _ _) =>
    let s1 := s.markApplied id
    match req with
    | .read q => s1.homeRead id blk gen q
    | .write => s1.homeWrite id blk gen data side
    | .poison => s1.homePoison id blk gen
    | .clear => s1.homeClear id blk gen
    | .status => s1.homeStatus id blk
  | _ => s

/-- Send a presence request of a unit on package `src`. -/
def sendBlock (s : State) (src : Nat) (req : BlockReq) (who : Requester) (part blk gen tile idx : Nat)
    (data : BitVec 32768) (side : BitVec 512) : State :=
  (s.newOp (.block req who part blk gen tile idx data side 0 false none)).send src (pkgOfQa blk) 0 (reqEvent req s.nextId)

/-! ### Scratch blocks (R19) -/

/-- The scratch blocks of a partition at a cell. -/
def tileFor (s : State) (c : CellId) (part i : Nat) : Tile :=
  match s.ctxFor c part with
  | some x => (lookup i x.tiles).getD Tile.reset
  | none => Tile.reset

/-- Replace a scratch block of a partition at a cell. -/
def setTileFor (s : State) (c : CellId) (part i : Nat) (v : Tile) : State :=
  s.updCtxFor c part fun x => { x with tiles := store i v x.tiles }

/-- One block of a waiting `bget` or `bput` is answered, well or with a cause (R103, R104). -/
def blockDone (s : State) (h : HartId) (part id idx : Nat) (cause : Option Nat) : State :=
  s.updWho h part fun v =>
    match v.op with
    | some (.blocks ids bad) =>
      let ids' := ids.filter fun i => i ≠ id
      { v with op := some (.blocks ids' (bad ++ (cause.map fun c => (idx, c)).toList)),
               wait := if ids'.isEmpty then none else v.wait }
    | _ => v

end State

end Sys2Proof.Machine
end

