-- ==== Sys2Proof/Machine/Num.lean ====
section
/-!
DEFINITION. Number formats at bit level: integers, AI10, RN30, the IEEE 754 formats, the OCP MX formats, and exact arithmetic
with one rounding (R146, R198 to R207).
-/
namespace Sys2Proof.Machine

/-! ### Exact values -/

/-- A floating-point datum: not a number, an infinity, or (-1)^neg x m x 2^e exactly, zero keeping its sign. -/
inductive Fp where
  | nan
  | inf (neg : Bool)
  | fin (neg : Bool) (m : Nat) (e : Int)
  deriving DecidableEq, Repr

/-- 2 to a non-negative integer; 1 below. -/
def pow2 (e : Int) : Nat := 2 ^ e.toNat

/-- The signed mantissa of a datum at exponent `q` no greater than its own. -/
def alignTo (q : Int) (neg : Bool) (m : Nat) (e : Int) : Int :=
  let v : Int := m * pow2 (e - q)
  if neg then -v else v

/-- The datum of an integer times 2^e. A zero is +0. -/
def Fp.ofInt (v : Int) (e : Int) : Fp := .fin (decide (v < 0)) v.natAbs e

/-- The number of bits of a positive number, less one: floor(log2). -/
def floorLog2 (m : Nat) (e : Int) : Int := (Nat.log2 m : Int) + e

/-! ### Rounding (R204: 0 RNE, 1 RTZ, 2 RDN, 3 RUP) -/

/-- Round a magnitude `n / 2^sh` of a sign to an integer. -/
def roundMag (rm : Nat) (neg : Bool) (n sh : Nat) : Nat :=
  let q := n / 2 ^ sh
  let r := n % 2 ^ sh
  if r = 0 then q
  else match rm with
    | 0 => if 2 * r > 2 ^ sh ∨ (2 * r = 2 ^ sh ∧ q % 2 = 1) then q + 1 else q
    | 1 => q
    | 2 => if neg then q + 1 else q
    | _ => if neg then q else q + 1

/-- Round m x 2^e to an integer magnitude. -/
def roundInt (rm : Nat) (neg : Bool) (m : Nat) (e : Int) : Nat :=
  if 0 ≤ e then m * pow2 e else roundMag rm neg m (-e).toNat

/-- A binary floating-point format: exponent bits and fraction bits. -/
structure FpFmt where
  ebits : Nat
  frac : Nat
  deriving DecidableEq, Repr

/-- The three IEEE 754 formats (R204). -/
def fp32 : FpFmt := ⟨8, 23⟩
def bf16 : FpFmt := ⟨8, 7⟩
def fp16 : FpFmt := ⟨5, 10⟩

/-- The exponent bias. -/
def FpFmt.bias (f : FpFmt) : Nat := 2 ^ (f.ebits - 1) - 1

/-- The sign bit as a number. -/
def FpFmt.signBit (f : FpFmt) (neg : Bool) : Nat := if neg then 2 ^ (f.ebits + f.frac) else 0

/-- The magnitude code of infinity. -/
def FpFmt.infCode (f : FpFmt) : Nat := (2 ^ f.ebits - 1) * 2 ^ f.frac

/-- The canonical quiet NaN. -/
def FpFmt.nanCode (f : FpFmt) : Nat := f.infCode + 2 ^ (f.frac - 1)

/-- The magnitude code nearest m x 2^e under the rounding, without a limit above: the exponent field and fraction as one
number. Subnormals are kept. -/
def FpFmt.magCode (f : FpFmt) (rm : Nat) (neg : Bool) (m : Nat) (e : Int) : Nat :=
  if m = 0 then 0
  else
    let emin : Int := 1 - (f.bias : Int)
    let q : Int := max (floorLog2 m e) emin - (f.frac : Int)
    let n := if q ≤ e then m * pow2 (e - q) else roundMag rm neg m (q - e).toNat
    let ef := (q + (f.frac : Int) + (f.bias : Int)).toNat
    (ef - 1) * 2 ^ f.frac + n

/-- Round a datum to the format's bits. -/
def FpFmt.round (f : FpFmt) (rm : Nat) : Fp → Nat
  | .nan => f.nanCode
  | .inf neg => f.signBit neg + f.infCode
  | .fin neg m e =>
    let c := f.magCode rm neg m e
    f.signBit neg +
      if c < f.infCode then c
      else match rm with
        | 0 => f.infCode
        | 1 => f.infCode - 1
        | 2 => if neg then f.infCode else f.infCode - 1
        | _ => if neg then f.infCode - 1 else f.infCode

/-- The datum of a format's bits. -/
def FpFmt.decode (f : FpFmt) (b : Nat) : Fp :=
  let neg := bitsOf b (f.ebits + f.frac) 1 == 1
  let ex := bitsOf b f.frac f.ebits
  let fr := bitsOf b 0 f.frac
  if ex = 2 ^ f.ebits - 1 then (if fr = 0 then .inf neg else .nan)
  else if ex = 0 then .fin neg fr (1 - (f.bias : Int) - (f.frac : Int))
  else .fin neg (2 ^ f.frac + fr) ((ex : Int) - (f.bias : Int) - (f.frac : Int))

/-! ### Exact operations -/

namespace Fp

/-- The negated datum. -/
def neg : Fp → Fp
  | .nan => .nan
  | .inf n => .inf (!n)
  | .fin n m e => .fin (!n) m e

/-- Exact sum. A sum of opposite values is +0, or -0 under RDN; equal zeros keep their sign (IEEE 754). -/
def add (rm : Nat) : Fp → Fp → Fp
  | .nan, _ => .nan
  | _, .nan => .nan
  | .inf a, .inf b => if a = b then .inf a else .nan
  | .inf a, _ => .inf a
  | _, .inf b => .inf b
  | .fin n1 m1 e1, .fin n2 m2 e2 =>
    let q := min e1 e2
    let v := alignTo q n1 m1 e1 + alignTo q n2 m2 e2
    if v = 0 then (if m1 = 0 ∧ n1 = n2 then .fin n1 0 0 else .fin (rm == 2) 0 0) else .ofInt v q

/-- Exact product. -/
def mul : Fp → Fp → Fp
  | .nan, _ => .nan
  | _, .nan => .nan
  | .inf a, .inf b => .inf (a != b)
  | .inf a, .fin n m _ => if m = 0 then .nan else .inf (a != n)
  | .fin n m _, .inf b => if m = 0 then .nan else .inf (n != b)
  | .fin n1 m1 e1, .fin n2 m2 e2 => .fin (n1 != n2) (m1 * m2) (e1 + e2)

/-- Quotient, with a sticky bit below 64 bits or more of it, which gives the correct rounding in every mode. -/
def div : Fp → Fp → Fp
  | .nan, _ => .nan
  | _, .nan => .nan
  | .inf _, .inf _ => .nan
  | .inf a, .fin n _ _ => .inf (a != n)
  | .fin n _ _, .inf b => .fin (n != b) 0 0
  | .fin n1 m1 e1, .fin n2 m2 e2 =>
    if m2 = 0 then (if m1 = 0 then .nan else .inf (n1 != n2))
    else
      let num := m1 * 2 ^ 64
      .fin (n1 != n2) (2 * (num / m2) + if num % m2 = 0 then 0 else 1) (e1 - e2 - 65)

/-- Integer square root, bit by bit from bit `i` down. -/
def isqrtFrom (n : Nat) : Nat → Nat → Nat
  | 0, r => if (r + 1) * (r + 1) ≤ n then r + 1 else r
  | i + 1, r => if (r + 2 ^ (i + 1)) * (r + 2 ^ (i + 1)) ≤ n then isqrtFrom n i (r + 2 ^ (i + 1)) else isqrtFrom n i r

/-- Integer square root. -/
def isqrt (n : Nat) : Nat := isqrtFrom n (Nat.log2 n / 2 + 1) 0

/-- 1/sqrt, with a sticky bit (R146). -/
def rsqrt : Fp → Fp
  | .nan => .nan
  | .inf n => if n then .nan else .fin false 0 0
  | .fin n m e =>
    if m = 0 then .inf n
    else if n then .nan
    else
      let m' := if e % 2 = 0 then m else 2 * m
      let e' := if e % 2 = 0 then e else e - 1
      let num := 2 ^ 256
      let r := isqrt (num / m')
      .fin false (2 * r + if r * r * m' = num then 0 else 1) (-128 - e' / 2 - 1)

/-- 1/a (R146). -/
def recip (a : Fp) : Fp := div (.fin false 1 0) a

/-- ln 2 in units of 2^-200. -/
def ln2Fixed : Nat := 1113844574712631719546256151097547306333272293549090750737802

/-- 2^f for f in (0, 1) given in units of 2^-200, in units of 2^-200: the exponential series. -/
def exp2Frac (f : Nat) : Nat :=
  let y := f * ln2Fixed / 2 ^ 200
  ((List.range 60).foldl (fun (p : Nat × Nat) k => let t := p.2 * y / 2 ^ 200 / (k + 1); (p.1 + t, t)) (2 ^ 200, 2 ^ 200)).1

/-- 2^a (R146): exact for an integer; otherwise irrational, so that 120 bits with a sticky bit below round correctly. -/
def exp2 : Fp → Fp
  | .nan => .nan
  | .inf n => if n then .fin false 0 0 else .inf false
  | .fin n m e =>
    let v := alignTo (min e 0) n m e
    let d : Int := pow2 (-(min e 0))
    let k := v / d
    let r := v % d
    if r = 0 then .fin false 1 (max (-400) (min 400 k))
    else if 400 < k then .fin false 1 400
    else if k < -400 then .fin false 1 (-400)
    else .fin false (2 * (exp2Frac (r.toNat * 2 ^ 200 / d.toNat) / 2 ^ 80) + 1) (k - 121)

/-- A compare of finite and infinite data: negative, zero or positive as a is less than, equal to or greater than b. -/
def cmp : Fp → Fp → Int
  | .inf a, .inf b => (if a then -1 else 1) - (if b then -1 else 1)
  | .inf a, _ => if a then -1 else 1
  | _, .inf b => if b then 1 else -1
  | .fin n1 m1 e1, .fin n2 m2 e2 =>
    let q := min e1 e2
    alignTo q n1 m1 e1 - alignTo q n2 m2 e2
  | _, _ => 0

/-- a < b; false with a NaN. -/
def lt (a b : Fp) : Bool := a != .nan && b != .nan && decide (cmp a b < 0)

/-- a = b; false with a NaN; -0 equals +0. -/
def eq (a b : Fp) : Bool := a != .nan && b != .nan && decide (cmp a b = 0)

/-- The sign is negative. -/
def isNeg : Fp → Bool
  | .nan => false
  | .inf n => n
  | .fin n _ _ => n

/-- Neither NaN nor an infinity. -/
def finite : Fp → Bool
  | .fin _ _ _ => true
  | _ => false

/-- |a| as mantissa and exponent, for finite data. -/
def mag : Fp → Nat × Int
  | .fin _ m e => (m, e)
  | _ => (0, 0)

/-- a x 2^k exactly. -/
def scale (k : Int) : Fp → Fp
  | .fin n m e => .fin n m (e + k)
  | x => x

end Fp

/-- The IEEE format of a code. -/
def fpOf : Nat → FpFmt
  | 0x09 => bf16
  | 0x0A => fp16
  | _ => fp32

/-- The code names an IEEE format. -/
def isFp (f : Nat) : Bool := f == 0x08 || f == 0x09 || f == 0x0A

/-! ### Vector arithmetic (R145) -/

/-- The result of one operation on elements of a type: FP32 rounded by `rm`; for 16-bit types that FP32 result is then rounded
RNE. -/
def fpResult (fmt rm : Nat) (v : Fp) : Nat :=
  let r := fp32.round rm v
  if fmt = 0x08 then r else (fpOf fmt).round 0 (fp32.decode r)

/-- An integer saturated to an `n`-bit two's-complement range, as its bits. -/
def satInt (n : Nat) (v : Int) : Nat :=
  let hi : Int := 2 ^ (n - 1) - 1
  let lo : Int := -(2 ^ (n - 1))
  (BitVec.ofInt n (if v < lo then lo else if hi < v then hi else v)).toNat

/-- The larger of two elements of a type (R146): -0 < +0, a NaN is ignored unless both are NaN. -/
def fpMax (fmt : Nat) (a b : Nat) : Nat :=
  let x := (fpOf fmt).decode a
  let y := (fpOf fmt).decode b
  if x = .nan then (if y = .nan then (fpOf fmt).nanCode else b)
  else if y = .nan then a
  else if Fp.lt x y ∨ (Fp.eq x y ∧ x.isNeg ∧ !y.isNeg) then b else a

/-- The smaller of two elements of a type. -/
def fpMin (fmt : Nat) (a b : Nat) : Nat :=
  let x := (fpOf fmt).decode a
  let y := (fpOf fmt).decode b
  if x = .nan then (if y = .nan then (fpOf fmt).nanCode else b)
  else if y = .nan then a
  else if Fp.lt y x ∨ (Fp.eq x y ∧ y.isNeg ∧ !x.isNeg) then b else a

/-- Width in bits of a vector element type (R144). -/
def vecBits (fmt : Nat) : Nat := (fmtBits fmt).getD 32

/-- `vcvt` of one element (R150, R207). -/
def convert (src dst rm b : Nat) : Nat :=
  if isFp src then
    let v := (fpOf src).decode b
    if isFp dst then (fpOf dst).round rm v
    else match v with
      | .nan => 0
      | .inf n => satInt (vecBits dst) (if n then -(2 ^ 64) else 2 ^ 64)
      | .fin n m e =>
        let k : Int := roundInt rm n m e
        satInt (vecBits dst) (if n then -k else k)
  else
    let v := signedOf (vecBits src) b
    if isFp dst then (fpOf dst).round rm (.ofInt v 0) else satInt (vecBits dst) v

/-! ### Matrix operand elements (R198, R199) -/

/-- The integer a matrix operand's element stands for; -512 of AI10 is read as -511. -/
def matrixElem (fmt raw : Nat) : Int :=
  match fmt with
  | 0x00 => signedOf 4 raw
  | 0x01 => signedOf 8 raw
  | 0x03 => raw
  | _ => let v := signedOf 10 (raw % 1024); if v = -512 then -511 else v

/-! ### RN30 (R201, R202) -/

/-- The residue triple of an integer. -/
def rnOf (v : Int) : Nat × Nat × Nat := ((v % 1023).toNat, (v % 1024).toNat, (v % 1025).toNat)

/-- The container of a triple. -/
def rnWord (r : Nat × Nat × Nat) : Nat := r.1 + r.2.1 * 2 ^ 10 + r.2.2 * 2 ^ 20

/-- The triple of a container. -/
def rnUnword (w : Nat) : Nat × Nat × Nat := (bitsOf w 0 10, bitsOf w 10 10, bitsOf w 20 11)

/-- A container is malformed. -/
def rnBad (w : Nat) : Bool := bitsOf w 31 1 == 1 || bitsOf w 0 10 == 1023 || decide (1025 ≤ bitsOf w 20 11)

/-- Add two triples channel by channel. -/
def rnAdd (a b : Nat × Nat × Nat) : Nat × Nat × Nat :=
  ((a.1 + b.1) % 1023, (a.2.1 + b.2.1) % 1024, (a.2.2 + b.2.2) % 1025)

/-- The decoded value of a triple (R202). -/
def rnValue (r : Nat × Nat × Nat) : Int :=
  let u := (r.1 * 537395200 + r.2.1 * 1072692225 + r.2.2 * 537394176) % 1073740800
  if 536870400 ≤ u then (u : Int) - 1073740800 else u

/-! ### OCP MX elements (R205, R206) -/

/-- An MX element format. -/
def isMx (f : Nat) : Bool := decide (0x10 ≤ f) && decide (f ≤ 0x15)

/-- Exponent and fraction bits of the floating MX formats. -/
def mxFmt : Nat → FpFmt
  | 0x10 => ⟨4, 3⟩
  | 0x11 => ⟨5, 2⟩
  | 0x12 => ⟨2, 3⟩
  | 0x13 => ⟨3, 2⟩
  | _ => ⟨2, 1⟩

/-- The code of the largest finite magnitude. -/
def mxMaxCode : Nat → Nat
  | 0x10 => 0x7E
  | 0x11 => 0x7B
  | 0x12 => 0x1F
  | 0x13 => 0x1F
  | 0x14 => 0x7
  | _ => 0x7F

/-- The invalid-element code. -/
def mxInvalid : Nat → Nat
  | 0x12 => 0x1F
  | 0x13 => 0x1F
  | 0x14 => 0x7
  | _ => 0x7F

/-- emax of R137. -/
def mxEmax : Nat → Int
  | 0x10 => 8
  | 0x11 => 15
  | 0x12 => 2
  | 0x13 => 4
  | 0x14 => 2
  | _ => 0

/-- The value of an MX element. -/
def mxDecode (f b : Nat) : Fp :=
  if f = 0x15 then .ofInt (signedOf 8 b) (-6)
  else
    let g := mxFmt f
    let neg := bitsOf b (g.ebits + g.frac) 1 == 1
    let ex := bitsOf b g.frac g.ebits
    let fr := bitsOf b 0 g.frac
    if f = 0x10 ∧ ex = 15 ∧ fr = 7 then .nan
    else if f = 0x11 ∧ ex = 31 then (if fr = 0 then .inf neg else .nan)
    else if ex = 0 then .fin neg fr (1 - (g.bias : Int) - (g.frac : Int))
    else .fin neg (2 ^ g.frac + fr) ((ex : Int) - (g.bias : Int) - (g.frac : Int))

/-- m x 2^e lies above a whole number. -/
def aboveNat (m : Nat) (e : Int) (n : Nat) : Bool := decide (n * pow2 (-e) < m * pow2 e)

/-- A finite value rounded RNE to an MX element, saturated, with whether it saturated (R205). A value outside the range of MXINT8 saturates
before it is rounded: one above 1.984375, or below -2. -/
def mxRound (f : Nat) (neg : Bool) (m : Nat) (e : Int) : Nat × Bool :=
  if f = 0x15 then
    let k : Int := roundInt 0 neg m (e + 6)
    if aboveNat m (e + 6) (if neg then 128 else 127) then (if neg then 0x80 else 0x7F, true)
    else ((BitVec.ofInt 8 (if neg then -k else k)).toNat, false)
  else
    let g := mxFmt f
    let c := g.magCode 0 neg m e
    if mxMaxCode f < c then (g.signBit neg + mxMaxCode f, true) else (g.signBit neg + c, false)

/-- The largest magnitude of a list of finite data, as a datum. -/
def maxMag (l : List Fp) : Fp :=
  l.foldl (fun a v => let b := Fp.fin false v.mag.1 v.mag.2; if Fp.lt a b then b else a) (.fin false 0 0)

/-- One MX block of values (R137): the scale, the elements, and whether one saturated; an invalid block has scale 0xFF. -/
def mxBlock (f : Nat) (invalid : Bool) (vs : List Fp) : Nat × List Nat × Bool :=
  if invalid then (0xFF, vs.map fun _ => mxInvalid f, false)
  else
    let mx := (maxMag vs).mag
    if mx.1 = 0 then (0, vs.map fun _ => 0, false)
    else
      let s := (max 0 (min 254 (floorLog2 mx.1 mx.2 - mxEmax f + 127))).toNat
      let qs := vs.map fun v => match v with
        | .fin n m e => mxRound f n m (e + 127 - (s : Int))
        | _ => (0, false)
      (s, qs.map (fun q => q.1), qs.any fun q => q.2)

/-- The AI10 line of values (R200): the exponent and the elements. -/
def ai10Line (vs : List Fp) : Nat × List Int :=
  if vs.any fun v => !v.finite then (0xFF, vs.map fun _ => 0)
  else
    let mx := (maxMag vs).mag
    if mx.1 = 0 then (0, vs.map fun _ => 0)
    else
      let s := (max 0 (min 254 (floorLog2 mx.1 mx.2 - 8 + 127))).toNat
      (s, vs.map fun v => match v with
        | .fin n m e =>
          let k : Int := min (511 : Int) (roundInt 0 n m (e + 127 - (s : Int)))
          if n then -k else k
        | _ => 0)

/-! ### Elements of a block (R16, R198, R206) -/

/-- Element `e` of a block of `w`-bit elements. -/
def elemOf (d : BitVec 32768) (w e : Nat) : Nat := bitsOf d.toNat (w * e) w

/-- The first `n` elements of a block, by splitting off the lowest each time. -/
def elemsFrom (w : Nat) : Nat → Nat → List Nat
  | 0, _ => []
  | n + 1, v => v % 2 ^ w :: elemsFrom w n (v / 2 ^ w)

/-- The number whose `w`-bit pieces, lowest first, are listed. -/
def packElems (w : Nat) : List Nat → Nat
  | [] => 0
  | v :: vs => v % 2 ^ w + 2 ^ w * packElems w vs

/-- A block that holds the elements, and zero above them. -/
def blockOf (w : Nat) (l : List Nat) : BitVec 32768 := BitVec.ofNat 32768 (packElems w l)

/-- Cut a list into `k` parts of `n`. -/
def chunks {α : Type} (n : Nat) : Nat → List α → List (List α)
  | 0, _ => []
  | k + 1, l => l.take n :: chunks n k (l.drop n)

end Sys2Proof.Machine
end

