-- ==== Sys2Proof/Machine/EngineOps.lean ====
section
/-!
DEFINITION. What every engine command shares: what it captures, its operands, the checks at issue, its queue and the commit
buffer, imprecise exceptions, and faults (R13, R71, R75, R127 to R130, R156, R277).
-/
namespace Sys2Proof.Machine

/-! ### Engines and their queues -/

/-- The engine of an instruction: 0 matrix, 1 vector, 2 conversion. -/
def engineOf : Instr → Nat
  | .vadd .. => 1
  | .vsub .. => 1
  | .vmul .. => 1
  | .vfma .. => 1
  | .vmax .. => 1
  | .vmin .. => 1
  | .vscl .. => 1
  | .vaxpy .. => 1
  | .vfill .. => 1
  | .vcopy .. => 1
  | .vexp2 .. => 1
  | .vrcp .. => 1
  | .vrsq .. => 1
  | .vcmplt .. => 1
  | .vcmpeq .. => 1
  | .vsel .. => 1
  | .vreds .. => 1
  | .vredm .. => 1
  | .vargm .. => 1
  | .verrs .. => 1
  | .vtrn .. => 1
  | .vcvt .. => 1
  | .cvala .. => 2
  | .cvalb .. => 2
  | .cvqmx .. => 2
  | .cvdq .. => 2
  | .cvi8 .. => 2
  | .cvrns .. => 2
  | .cvcrt .. => 2
  | .cvlay .. => 2
  | _ => 0

/-- The queue of an engine. -/
def CellCtx.queue (x : CellCtx) (e : Nat) : List Cmd := if e = 0 then x.mq else if e = 1 then x.vq else x.cq

/-- Replace the queue of an engine. -/
def CellCtx.setQueue (x : CellCtx) (e : Nat) (q : List Cmd) : CellCtx :=
  if e = 0 then { x with mq := q } else if e = 1 then { x with vq := q } else { x with cq := q }

/-- The CSR values an engine command captures (R13). -/
def capture (h : Hart) : Captured where
  fmt := h.csr.mxFmt.toNat
  aexp := h.csr.mxAexp.toNat
  bexp := h.csr.mxBexp.toNat
  drn := h.csr.mxDrn.toNat
  rm := h.csr.veRm.toNat
  atol := h.csr.veAtol.toNat
  rtol := h.csr.veRtol.toNat
  scale := h.csr.cvScale.toNat
  s := h.csr.veS.toNat
  fbase := h.csr.veFbase.toNat

/-- The handle and scalar registers an engine instruction names: hd, ha (hs), hb (hs2), and the scalar it reads at issue. -/
structure EngineRegs where
  d : Nat
  a : Nat
  b : Nat
  x : Nat
  deriving DecidableEq, Repr

/-- The register fields of an engine instruction (R126). -/
def engineRegs : Instr → EngineRegs
  | .mma _ ha hb => ⟨0, ha, hb, 0⟩
  | .mmaz _ ha hb => ⟨0, ha, hb, 0⟩
  | .mmav _ ha hb => ⟨0, ha, hb, 0⟩
  | .mmavz _ ha hb => ⟨0, ha, hb, 0⟩
  | .mdrn hd _ hs2 => ⟨hd, 0, hs2, 0⟩
  | .mmrg _ hs => ⟨0, hs, 0, 0⟩
  | .vadd hd ha hb => ⟨hd, ha, hb, 0⟩
  | .vsub hd ha hb => ⟨hd, ha, hb, 0⟩
  | .vmul hd ha hb => ⟨hd, ha, hb, 0⟩
  | .vfma hd ha hb => ⟨hd, ha, hb, 0⟩
  | .vmax hd ha hb => ⟨hd, ha, hb, 0⟩
  | .vmin hd ha hb => ⟨hd, ha, hb, 0⟩
  | .vaxpy hd ha hb => ⟨hd, ha, hb, 0⟩
  | .vsel hd ha hb => ⟨hd, ha, hb, 0⟩
  | .verrs hd ha hb => ⟨hd, ha, hb, 0⟩
  | .vscl hd ha rs2 => ⟨hd, ha, 0, rs2⟩
  | .vfill hd rs1 => ⟨hd, 0, 0, rs1⟩
  | .vcopy hd ha => ⟨hd, ha, 0, 0⟩
  | .vexp2 hd ha => ⟨hd, ha, 0, 0⟩
  | .vrcp hd ha => ⟨hd, ha, 0, 0⟩
  | .vrsq hd ha => ⟨hd, ha, 0, 0⟩
  | .vreds hd ha => ⟨hd, ha, 0, 0⟩
  | .vredm hd ha => ⟨hd, ha, 0, 0⟩
  | .vargm hd ha => ⟨hd, ha, 0, 0⟩
  | .vtrn hd ha => ⟨hd, ha, 0, 0⟩
  | .vcvt hd ha => ⟨hd, ha, 0, 0⟩
  | .vcmplt rs ha hb => ⟨0, ha, hb, rs⟩
  | .vcmpeq rs ha hb => ⟨0, ha, hb, rs⟩
  | .cvala hd hs hs2 => ⟨hd, hs, hs2, 0⟩
  | .cvalb hd hs hs2 => ⟨hd, hs, hs2, 0⟩
  | .cvqmx hd hs hs2 => ⟨hd, hs, hs2, 0⟩
  | .cvdq hd hs hs2 => ⟨hd, hs, hs2, 0⟩
  | .cvrns hd hs hs2 => ⟨hd, hs, hs2, 0⟩
  | .cvi8 hd hs => ⟨hd, hs, 0, 0⟩
  | .cvcrt hd hs => ⟨hd, hs, 0, 0⟩
  | .cvlay hd hs rs2 => ⟨hd, hs, 0, rs2⟩
  | _ => ⟨0, 0, 0, 0⟩

/-- The accumulator tile an instruction names. -/
def accOf : Instr → Nat
  | .mma acc _ _ => acc
  | .mmaz acc _ _ => acc
  | .mmav acc _ _ => acc
  | .mmavz acc _ _ => acc
  | .mdrn _ acc _ => acc
  | .mmrg acc _ => acc
  | .aclr acc => acc
  | .astat _ acc => acc
  | _ => 0

/-- The instruction accumulates into a tile (R130). -/
def accumulates : Instr → Bool
  | .mma .. => true
  | .mmaz .. => true
  | .mmav .. => true
  | .mmavz .. => true
  | .mmrg .. => true
  | _ => false

/-- The instruction writes flags (R149). -/
def writesFlags : Instr → Bool
  | .vcmplt .. => true
  | .vcmpeq .. => true
  | _ => false

/-- The command an instruction of the current hart becomes (R127). -/
def State.mkCmd (s : State) (i : Instr) : Cmd :=
  let r := engineRegs i
  let h := s.me
  { id := s.nextId, instr := i, src := s.who, part := s.ctx.part, desc := none
    hd := s.hr r.d, ha := s.hr r.a, hb := s.hr r.b, hc := s.hr h.csr.veC.toNat, csr := capture h, xv := s.xr r.x
    seq := (h.csr.minstret.toNat + 1) % 2 ^ 32, insn := (encode i).getD 0, rows := [], result := none }

/-! ### Checks at issue (R127) -/

/-- A failed check: the cause and mtval. -/
abbrev Chk := Option (Nat × Nat)

/-- The first failed check. -/
def firstBad (l : List Chk) : Chk := l.findSome? id

/-- HANDLE for a register when a condition does not hold. -/
def need (ok : Bool) (reg : Nat) : Chk := if ok then none else some (31, reg)

/-- R15 for a handle of a register. -/
def chk15 (h : BitVec 256) (reg : Nat) : Chk := need (!handleBad h) reg

/-- SPAD_RANGE for a handle (R15). -/
def chkShare (share : Nat) (h : BitVec 256) : Chk := (spadPast share h).map fun i => (32, i)

/-- Modes of a drain (R135): bytes per row. -/
def drainRow : Nat → Option Nat
  | 0x08 => some 128
  | 0x09 => some 64
  | 0x10 => some 32
  | 0x11 => some 32
  | 0x15 => some 32
  | 0x12 => some 24
  | 0x13 => some 24
  | 0x14 => some 16
  | 0x06 => some 128
  | _ => none

/-- The mode reads hs2 (R135). -/
def drainAux (mode : Nat) : Bool := !(mode == 0x08 || mode == 0x09)

/-- The VA of row i of a WSPAN handle (R139). -/
def rowVa (h : BitVec 256) (i : Nat) : Word := wordOfInt (hBase h + i * hPitch h)

/-- A WSPAN destination of `rows` rows of `n` bytes: enough rows and bytes, each row within one 4 KiB page (R139). -/
def wspanFits (h : BitVec 256) (rows n : Nat) : Bool :=
  decide (rows ≤ hWrows h) && decide (n ≤ hRbytes h) &&
    (List.range rows).all fun i => decide ((rowVa h i).toNat % 4096 + n ≤ 4096)

/-- A destination of a drain: SPAD, or WSPAN where the mode allows it. -/
def drainDest (mode : Nat) (h : BitVec 256) (reg rows n : Nat) : Chk :=
  need (hKind h == kindSpad || (mode != 0x06 && hKind h == kindWspan && wspanFits h rows n)) reg

/-- The matrix commands' checks (R131, R134, R135, R140). -/
def matrixCheck (share : Nat) (k : Cmd) : Chk :=
  let r := engineRegs k.instr
  let mode := bitsOf k.csr.drn 0 8
  match k.instr with
  | .mdrn .. =>
    match drainRow mode with
    | none => firstBad [chk15 k.hd r.d, chkShare share k.hd]
    | some n =>
      if drainAux mode then
        firstBad [chk15 k.hd r.d, chk15 k.hb r.b, drainDest mode k.hd r.d 32 n, drainDest mode k.hb r.b 1 32,
          chkShare share k.hd, chkShare share k.hb]
      else firstBad [chk15 k.hd r.d, drainDest mode k.hd r.d 32 n, chkShare share k.hd]
  | .mmrg .. =>
    firstBad [chk15 k.ha r.a, need (hKind k.ha == kindSpad && hFmt k.ha == 0x06 && hCount k.ha == 2) r.a, chkShare share k.ha]
  | .aclr _ => none
  | .astat _ _ => none
  | i =>
    let ka := match i with
      | .mmav .. => kindVirta
      | .mmavz .. => kindVirta
      | _ => kindSpad
    firstBad [chk15 k.ha r.a, chk15 k.hb r.b, need (hKind k.ha == ka) r.a, need (hKind k.hb == kindSpad) r.b,
      chkShare share k.ha, chkShare share k.hb]

/-- Vector element types (R144). -/
def isVec (f : Nat) : Bool := isFp f || f == 0x05 || f == 0x01

/-- A vector operand: R15, kind and type. -/
def chkVec (h : BitVec 256) (reg : Nat) : Chk := need (hKind h == kindSpad && isVec (hFmt h)) reg

/-- The instruction is FP-only (R144, R146, R148). -/
def fpOnly : Instr → Bool
  | .vexp2 .. => true
  | .vrcp .. => true
  | .vrsq .. => true
  | .verrs .. => true
  | _ => false

/-- The vector commands' checks (R144, R146, R147, R148, R150). Of two COUNTs that differ the destination's register is
reported, as R275 gives, and that of hb for a compare, which has no destination (DESIGN CHOICE, log 36). `c` is the register that ve.c
names. -/
def vectorCheck (share : Nat) (c : Nat) (k : Cmd) : Chk :=
  let r := engineRegs k.instr
  let one := fun (h : BitVec 256) (reg : Nat) => [chk15 h reg, chkVec h reg]
  let same := fun (h : BitVec 256) (reg : Nat) => need (hFmt h == hFmt k.ha) reg
  let cnt := fun (h : BitVec 256) (reg : Nat) => need (hCount h == hCount k.ha) reg
  let shares := fun (l : List (BitVec 256)) => l.map (chkShare share)
  match k.instr with
  | .vfill .. => firstBad (one k.hd r.d ++ shares [k.hd])
  | .vcmplt .. => firstBad ([chk15 k.ha r.a, chk15 k.hb r.b, chkVec k.ha r.a, chkVec k.hb r.b, same k.hb r.b, cnt k.hb r.b]
      ++ shares [k.ha, k.hb])
  | .vcmpeq .. => firstBad ([chk15 k.ha r.a, chk15 k.hb r.b, chkVec k.ha r.a, chkVec k.hb r.b, same k.hb r.b, cnt k.hb r.b]
      ++ shares [k.ha, k.hb])
  | .vcvt .. => firstBad ([chk15 k.hd r.d, chk15 k.ha r.a, chkVec k.hd r.d, chkVec k.ha r.a,
      need (hCount k.hd == (hCount k.ha * vecBits (hFmt k.hd) + vecBits (hFmt k.ha) - 1) / vecBits (hFmt k.ha)) r.d]
      ++ shares [k.hd, k.ha])
  | .vargm .. => firstBad ([chk15 k.hd r.d, chk15 k.ha r.a, chkVec k.hd r.d, chkVec k.ha r.a, need (hFmt k.hd == 0x05) r.d,
      cnt k.hd r.d] ++ shares [k.hd, k.ha])
  | .verrs .. => firstBad ([chk15 k.hd r.d, chk15 k.ha r.a, chk15 k.hb r.b, chkVec k.hd r.d, chkVec k.ha r.a, chkVec k.hb r.b,
      need (isFp (hFmt k.ha)) r.a, need (hFmt k.hd == 0x08) r.d, same k.hb r.b, cnt k.hd r.d, need (hCount k.hb == hCount k.ha) r.d]
      ++ shares [k.hd, k.ha, k.hb])
  | .vfma .. => firstBad ([chk15 k.hd r.d, chk15 k.ha r.a, chk15 k.hb r.b, chk15 k.hc c, chkVec k.hd r.d, chkVec k.ha r.a,
      chkVec k.hb r.b, chkVec k.hc c, same k.hd r.d, same k.hb r.b, same k.hc c, cnt k.hd r.d,
      need (hCount k.hb == hCount k.ha) r.d, need (hCount k.hc == hCount k.ha) r.d] ++ shares [k.hd, k.ha, k.hb, k.hc])
  | i =>
    let unary := match i with
      | .vscl .. => true
      | .vcopy .. => true
      | .vexp2 .. => true
      | .vrcp .. => true
      | .vrsq .. => true
      | .vreds .. => true
      | .vredm .. => true
      | .vtrn .. => true
      | _ => false
    if unary then
      firstBad ([chk15 k.hd r.d, chk15 k.ha r.a, chkVec k.hd r.d, chkVec k.ha r.a, need (!fpOnly i || isFp (hFmt k.ha)) r.a,
        same k.hd r.d, cnt k.hd r.d] ++ shares [k.hd, k.ha])
    else
      firstBad ([chk15 k.hd r.d, chk15 k.ha r.a, chk15 k.hb r.b, chkVec k.hd r.d, chkVec k.ha r.a, chkVec k.hb r.b,
        same k.hd r.d, same k.hb r.b, cnt k.hd r.d, need (hCount k.hb == hCount k.ha) r.d] ++ shares [k.hd, k.ha, k.hb])

/-- Blocks that `n` elements of a format occupy (R16, R151). -/
def blocksFor (n f : Nat) : Nat := if fmtElems f = 0 then 0 else (n + fmtElems f - 1) / fmtElems f

/-- Elements in all the blocks of a handle. -/
def allElems (h : BitVec 256) : Nat := hCount h * fmtElems (hFmt h)

/-- FP32 or BF16. -/
def isWide (f : Nat) : Bool := f == 0x08 || f == 0x09

/-- The conversion commands' checks (R151 to R155). An R that is out of range or does not divide N is reported for the register of hs (DESIGN
CHOICE, log 36). -/
def convertCheck (share : Nat) (k : Cmd) : Chk :=
  let r := engineRegs k.instr
  let spad := fun (h : BitVec 256) (reg : Nat) (ok : Bool) => need (hKind h == kindSpad && ok) reg
  let count := fun (h : BitVec 256) (reg n : Nat) => need (hCount h == n) reg
  let shares := fun (l : List (BitVec 256)) => l.map (chkShare share)
  let align :=
    let n := 2048 * hCount k.hd
    let base := [chk15 k.hd r.d, chk15 k.ha r.a, spad k.hd r.d (hFmt k.hd == 0x02),
      spad k.ha r.a (isWide (hFmt k.ha) || isMx (hFmt k.ha)), need (decide (hCount k.hd ≤ 64)) r.d,
      count k.ha r.a (blocksFor n (hFmt k.ha))]
    if isMx (hFmt k.ha) then
      firstBad (base ++ [chk15 k.hb r.b, spad k.hb r.b (hFmt k.hb == 0x18), count k.hb r.b (blocksFor (n / 32) 0x18)]
        ++ shares [k.hd, k.ha, k.hb])
    else firstBad (base ++ shares [k.hd, k.ha])
  match k.instr with
  | .cvala .. => align
  | .cvalb .. => align
  | .cvqmx .. =>
    let n := allElems k.ha
    firstBad ([chk15 k.hd r.d, chk15 k.ha r.a, chk15 k.hb r.b, spad k.hd r.d (isMx (hFmt k.hd)),
      spad k.ha r.a (isWide (hFmt k.ha)), spad k.hb r.b (hFmt k.hb == 0x18), count k.hd r.d (blocksFor n (hFmt k.hd)),
      count k.hb r.b (blocksFor (n / 32) 0x18)] ++ shares [k.hd, k.ha, k.hb])
  | .cvdq .. =>
    let n := allElems k.hd
    firstBad ([chk15 k.hd r.d, chk15 k.ha r.a, chk15 k.hb r.b, spad k.hd r.d (isWide (hFmt k.hd)),
      spad k.ha r.a (isMx (hFmt k.ha)), spad k.hb r.b (hFmt k.hb == 0x18), count k.ha r.a (blocksFor n (hFmt k.ha)),
      count k.hb r.b (blocksFor (n / 32) 0x18)] ++ shares [k.hd, k.ha, k.hb])
  | .cvi8 .. =>
    firstBad ([chk15 k.hd r.d, chk15 k.ha r.a, spad k.hd r.d (hFmt k.hd == 0x01), spad k.ha r.a (hFmt k.ha == 0x08),
      count k.hd r.d (blocksFor (allElems k.ha) 0x01)] ++ shares [k.hd, k.ha])
  | .cvrns .. =>
    firstBad ([chk15 k.hd r.d, chk15 k.ha r.a, chk15 k.hb r.b, spad k.hd r.d (hFmt k.hd == 0x06),
      spad k.ha r.a (hFmt k.ha == 0x05), spad k.hb r.b (hFmt k.hb == 0x06), count k.hd r.d 1, count k.ha r.a 1, count k.hb r.b 1]
      ++ shares [k.hd, k.ha, k.hb])
  | .cvcrt .. =>
    firstBad ([chk15 k.hd r.d, chk15 k.ha r.a, spad k.hd r.d (hFmt k.hd == 0x05), spad k.ha r.a (hFmt k.ha == 0x06),
      count k.hd r.d 1, count k.ha r.a 1] ++ shares [k.hd, k.ha])
  | _ =>
    let rows := fld k.xv 0 13
    firstBad ([chk15 k.hd r.d, chk15 k.ha r.a,
      spad k.ha r.a (let b := (fmtBits (hFmt k.ha)).getD 0; b == 8 || b == 16 || b == 32),
      spad k.hd r.d (hFmt k.hd == hFmt k.ha), count k.hd r.d (hCount k.ha),
      need (decide (1 ≤ rows) && decide (rows ≤ 4096) && allElems k.ha % rows == 0) r.a] ++ shares [k.hd, k.ha])

/-- The checks of R127 for a command in a cell with a share; `c` is the register that ve.c names. -/
def cmdCheck (share c : Nat) (k : Cmd) : Chk :=
  match engineOf k.instr with
  | 1 => vectorCheck share c k
  | 2 => convertCheck share k
  | _ => matrixCheck share k

/-! ### The scratch blocks of a command -/

/-- The scratch blocks of a VIRTA tensor (R134). -/
def virtaTiles (h : BitVec 256) : List Nat :=
  let lo := hBase h / 4096
  let hi := (hBase h + virtaBytes h - 1) / 4096
  (List.range (hi + 1 - lo)).map fun i => lo + i

/-- The scratch blocks a command reads. -/
def Cmd.reads (k : Cmd) : List Nat :=
  match k.instr with
  | .mma .. => [spadTile k.ha 0, spadTile k.hb 0]
  | .mmaz .. => [spadTile k.ha 0, spadTile k.hb 0]
  | .mmav .. => virtaTiles k.ha ++ [spadTile k.hb 0]
  | .mmavz .. => virtaTiles k.ha ++ [spadTile k.hb 0]
  | .mdrn .. => []
  | .mmrg .. => spadTiles k.ha
  | .aclr _ => []
  | .astat _ _ => []
  | .vfill .. => []
  | .vfma .. => spadTiles k.ha ++ spadTiles k.hb ++ spadTiles k.hc
  | .vadd .. => spadTiles k.ha ++ spadTiles k.hb
  | .vsub .. => spadTiles k.ha ++ spadTiles k.hb
  | .vmul .. => spadTiles k.ha ++ spadTiles k.hb
  | .vmax .. => spadTiles k.ha ++ spadTiles k.hb
  | .vmin .. => spadTiles k.ha ++ spadTiles k.hb
  | .vaxpy .. => spadTiles k.ha ++ spadTiles k.hb
  | .vsel .. => spadTiles k.ha ++ spadTiles k.hb
  | .verrs .. => spadTiles k.ha ++ spadTiles k.hb
  | .vcmplt .. => spadTiles k.ha ++ spadTiles k.hb
  | .vcmpeq .. => spadTiles k.ha ++ spadTiles k.hb
  | .cvala .. => spadTiles k.ha ++ if isMx (hFmt k.ha) then spadTiles k.hb else []
  | .cvalb .. => spadTiles k.ha ++ if isMx (hFmt k.ha) then spadTiles k.hb else []
  | .cvdq .. => spadTiles k.ha ++ spadTiles k.hb
  | _ => spadTiles k.ha

/-- The scratch blocks a command writes. A drain writes block 0 of each SPAD destination; one of a mode that is not in the
table has hd alone for its destination (R135). -/
def Cmd.writes (k : Cmd) : List Nat :=
  match k.instr with
  | .mma .. => []
  | .mmaz .. => []
  | .mmav .. => []
  | .mmavz .. => []
  | .mmrg .. => []
  | .aclr _ => []
  | .astat _ _ => []
  | .vcmplt .. => []
  | .vcmpeq .. => []
  | .mdrn .. =>
    let mode := bitsOf k.csr.drn 0 8
    (if hKind k.hd = kindSpad then [spadTile k.hd 0] else []) ++
      (if (drainRow mode).isSome ∧ drainAux mode ∧ hKind k.hb = kindSpad then [spadTile k.hb 0] else [])
  | .cvqmx .. => spadTiles k.hd ++ spadTiles k.hb
  | .cvrns .. => spadTiles k.hd ++ spadTiles k.hb
  | _ => spadTiles k.hd

/-! ### Imprecise exceptions (R277) -/

/-- An imprecise exception of a hart that has halted is logged, and its gang is marked (R277, R321). -/
def State.missedException (s : State) (h : HartId) (part : Nat) (r : FaultRecord) : State :=
  let s1 := s.logCell h.cellId true 48 r.seq 0 part (h.hart % 32)
  match (s.ctxFor h.cellId part).bind fun x => x.gang with
  | some g => match lookup g s1.gangs with
    | some v => { s1 with gangs := store g { v with faulted := true } s1.gangs }
    | none => s1
  | none => s1

/-- A hart and its gang are told of a fault that comes after the instruction has retired: it is held by a hart that runs, or
counted in OVF of the one it holds; for a hart that has halted it is logged and its gang is marked. -/
def State.postImprecise (s : State) (h : HartId) (part : Nat) (r : FaultRecord) : State :=
  let v := s.getWho h part
  if v.status = .running then
    s.updWho h part fun v => match v.imprecise with
      | none => { v with imprecise := some r }
      | some o => { v with imprecise := some { o with ovf := min 255 (o.ovf + 1) } }
  else s.missedException h part r

/-- The cell number of R74: package, die and cell. -/
def cellWord (c : CellId) : Nat := c.pkg * 4096 + c.die * 256 + c.cell

/-- The fault record of an engine command (R277). -/
def Cmd.fault (k : Cmd) (c : CellId) (sub : Nat) : FaultRecord :=
  match k.desc with
  | none => ⟨33, sub, engineOf k.instr, 0, k.seq, 0, 0, k.insn⟩
  | some d => ⟨33, sub, 4, 0, k.seq, if sub = 7 then d else 0, BitVec.ofNat 64 (cellWord c), k.insn⟩

/-! ### Faults of a command (R130) -/

/-- A POISON scratch block: it holds no data (R129), so what it would be read as is a free value. -/
def Tile.poisoned (n : Nat) : Tile := ⟨.poison, Config.poisonData n, Config.poisonSide n, none, none⟩

/-- Set every INVAL bit of a tile (R17, R130). -/
def AccTile.invalidate (t : AccTile) : AccTile := { t with status := t.status ||| 0xFFFFFFFF }

/-- The row operations of a drain that writes none: locks go, and each post count falls as if acknowledged (R139). -/
def State.cancelRows (s : State) (k : Cmd) : State :=
  k.rows.foldl (fun t id =>
    let t1 := (t.unlock id).dropOp id
    match t.getOp id with
    | some (.row h part cls _ _ _ _ _ _) =>
      if cls = 0 then t1
      else t1.updWho h part fun v => State.setPostCount v cls (State.postCount v cls - 1)
    | _ => t1) s

/-- A command faults (R130): its destinations that are EMPTY, or FILLING for it, are poisoned but for `keep`; an accumulating
command sets every INVAL bit of its tile; ENGINE goes to the issuing hart. -/
def State.engineFault (s : State) (c : CellId) (k : Cmd) (sub : Nat) (claimed : Bool) (keep : Option Nat) : State :=
  let s1 := k.writes.foldl (fun t i =>
    let st := (t.getTile c i).st
    if some i ≠ keep ∧ (st = .empty ∨ (claimed ∧ st = .filling)) then t.setTile c i (Tile.poisoned (t.tick + i)) else t) s
  let s2 := if accumulates k.instr then s1.setAcc c (accOf k.instr) (s1.getAcc c (accOf k.instr)).invalidate else s1
  (s2.cancelRows k).postImprecise k.src k.part (k.fault c sub)

/-! ### Entering a queue or the commit buffer (R128, R156) -/

/-- A command enters its engine's queue; its start becomes possible. -/
def State.enqueue (s : State) (c : CellId) (k : Cmd) : State :=
  let e := engineOf k.instr
  ((s.updCtx c fun x => x.setQueue e (x.queue e ++ [k])).push (.engineCommandStart c e))

/-- The queue of an engine holds 16 commands that have not started (R128). -/
def State.queueFull (s : State) (c : CellId) (e : Nat) : Bool :=
  decide (16 ≤ (((s.getCell c).ctx.queue e).filter fun k => k.result.isNone).length)

/-- The processor of a hart: 0 haul, 1 shape, 2 math (R8). -/
def procOf (hart : Nat) : Nat := hart % 32 / 8

/-- Entries of a processor's commit buffer. -/
def State.buffered (s : State) (c : CellId) (p : Nat) : List Buffered :=
  (s.getCell c).ctx.commit.filter fun b => procOf b.cmd.src.hart == p

/-- A hart has commands in the commit buffer, or compare commands whose flags are not yet written (R71, R75). -/
def State.hasBuffered (s : State) (h : HartId) : Bool := s.ctx.commit.any fun b => decide (b.cmd.src = h)

/-- A hart's earlier compare commands have still to write flags (R75). -/
def State.flagsPending (s : State) (h : HartId) : Bool :=
  (s.ctx.vq.any fun k => decide (k.src = h) && writesFlags k.instr) ||
    s.ctx.commit.any fun b => decide (b.cmd.src = h) && writesFlags b.cmd.instr

/-- A command of a predicted path enters its processor's commit buffer, tagged with the branches that are open; the hart stalls while the
buffer is full (R156). -/
def State.enterBuffer (s : State) (k : Cmd) (rows : List RowReq) : State :=
  let p := procOf s.cur.hart
  if 32 ≤ (s.buffered s.myCell p).length then s.await .retry false
  else (({ s with nextId := s.nextId + 1 }.updMyCtx fun x => { x with
    commit := x.commit ++ [(⟨k, engineOf k.instr, false, 1 + s.me.younger.length, rows⟩ : Buffered)] }).push
      (.bufferedCommandStart s.myCell p)).retire

/-- Issue an engine instruction (R127, R128, R156): its checks, then its queue, or the commit buffer on a predicted path; the
hart stalls while the one it needs is full. -/
def State.issue (s : State) (i : Instr) : State :=
  let k := s.mkCmd i
  match cmdCheck s.ctx.spad s.me.csr.veC.toNat k with
  | some (c, v) => s.trap c (BitVec.ofNat 64 v)
  | none =>
    if s.me.spec.isSome then s.enterBuffer k []
    else if s.hasBuffered s.who || s.queueFull s.myCell (engineOf i) then s.await .retry false
    else ({ s with nextId := s.nextId + 1 }.enqueue s.myCell k).retire

end Sys2Proof.Machine
end

