-- ==== Sys2Proof/Machine/BlockInstrs.lean ====
section
/-!
DEFINITION. The block and scratch-block instructions (R95, R103 to R110), the handle instructions (R112, R113), and what the
landing of an answer does to the scratch block of a hart's request.
-/
namespace Sys2Proof.Machine

namespace State

/-! ### Scratch tile states (R19, R70) -/

/-- The wait of a hart on scratch blocks has its condition. -/
def tilesReady (tiles : List (Nat × Tile)) (h : Hart) : Bool :=
  let st := fun i => ((lookup i tiles).getD Tile.reset).st
  match h.wait with
  | some ⟨.tiles bs, _⟩ => !(bs.any fun i => st i == .filling || st i == .draining)
  | some ⟨.tileData b, _⟩ => !(st b == .empty || st b == .filling)
  | _ => false

/-- Harts of a cell that wait on scratch blocks of a partition complete when their condition holds. -/
def wakeTiles (s : State) (c : CellId) (part : Nat) : State :=
  match s.ctxFor c part with
  | none => s
  | some x => (List.range 64).foldl (fun t n =>
      if tilesReady x.tiles (t.getWho (c.hart n) part) then t.answer (c.hart n) part .done else t) s

/-- A scratch block of a partition changes, and harts that wait for it are told. -/
def changeTile (s : State) (c : CellId) (part i : Nat) (v : Tile) : State := (s.setTileFor c part i v).wakeTiles c part

/-- A DRAINING scratch block returns to FULL, or to EMPTY when a `brel` of it is pending and its readers are done (R109). -/
def endDrain (s : State) (c : CellId) (part i : Nat) : State :=
  let t := s.tileFor c part i
  if t.st ≠ .draining then s
  else if t.brel = some [] then s.changeTile c part i Tile.reset
  else s.changeTile c part i { t with st := .full }

/-! ### Checks (R95) -/

/-- A block-space operand: R15, kind, right, remote-send. -/
def blkChecks (h : BitVec 256) (reg right : Nat) : List Chk :=
  [chk15 h reg, need (hKind h == kindBlk) reg, need (bitsOf (hRights h) right 1 == 1) reg,
   need (!hRpkg h || bitsOf (hRights h) 3 1 == 1) reg]

/-- A scratch operand: R15 and kind. -/
def spadChecks (h : BitVec 256) (reg : Nat) : List Chk := [chk15 h reg, need (hKind h == kindSpad) reg]

/-- Raise the first failed check, or go on. -/
def checked (s : State) (l : List Chk) (k : State → State) : State :=
  match firstBad l with
  | some (c, v) => s.trap c (BitVec.ofNat 64 v)
  | none => k s

/-- The package whose window a block handle is walked by (R298). -/
def blkWin (s : State) (h : BitVec 256) : Nat := if hRpkg h then hPkg h else s.cur.pkg

/-- A block address on its page: the qualified address, whether the page raises an access fault, and whether it is a BLOCK page. -/
structure BlockPage where
  va : Word
  qa : Nat
  faults : Bool
  block : Bool

/-- Translate block addresses in order; `k` goes on with what was found. A page fault is raised at once. An address in the cell window is
not walked, and lies on no page (R22). -/
def blockPages (acc : Acc) (win : Nat) : List Word → State → List BlockPage → (State → List BlockPage → State) → State
  | [], s, ps, k => k s ps
  | va :: vas, s, ps, k =>
    if inWindow va then blockPages acc win vas s (ps ++ [⟨va, 0, false, false⟩]) k
    else match s.translate win va with
    | .fault => s.trap acc.pageFault va
    | .wait t => t
    | .ok e t =>
      if !leafAllows acc s.me.mode e then s.trap acc.pageFault va
      else blockPages acc win vas t (ps ++ [⟨va, e.phys va.toNat, physFault e (e.phys va.toNat), e.kind == kBlock⟩]) k

/-- The qualified addresses of a handle's first `n` blocks: every address translates, then none raises an access fault, and then every one
lies on a BLOCK page (R52, R95). -/
def blockVas (s : State) (acc : Acc) (h : BitVec 256) (n : Nat) (k : State → List Nat → State) : State :=
  blockPages acc (s.blkWin h) ((List.range n).map (blkVa h)) s [] fun t ps =>
    match ps.find? fun p => p.faults, ps.find? fun p => !p.block with
    | some p, _ => t.trap acc.accessFault p.va
    | none, some p => t.trap 27 p.va
    | none, none => k t (ps.map fun p => p.qa)

/-- The package of a block is unreachable. -/
def blockCut (s : State) (qa : Nat) : Bool := decide (pkgOfQa qa ≠ s.cur.pkg) && s.isCut s.cur.pkg (pkgOfQa qa)

/-! ### bget and bgetq (R103) -/

/-- One read of `bget` or `bgetq` is sent: the numbers of the requests and the failures so far follow. -/
def sendRead (s : State) (q : Bool) (gen tile idx qa : Nat) (ids : List Nat) (bad : List (Nat × Nat)) :
    State × List Nat × List (Nat × Nat) :=
  let part := s.ctx.part
  if s.blockCut qa then
    let s1 := s.changeTile s.myCell part tile (Tile.poisoned (s.tick + tile))
    (if q then s1.logCell s.myCell true 51 (pkgOfQa qa) 0 part s.cur.hart else s1, ids, bad ++ [(idx, 38)])
  else
    let s1 := s.setTile s.myCell tile { Tile.reset with st := .filling }
    (s1.sendBlock s.cur.pkg (.read q) (.hart s.who) part qa gen tile idx 0 0, ids ++ [s1.nextId], bad)

/-- The failure of the block of the lowest index. -/
def lowestBad (bad : List (Nat × Nat)) : Option (Nat × Nat) :=
  bad.foldl (fun a b => match a with
    | none => some b
    | some x => if b.1 < x.1 then some b else some x) none

/-- A `bget` or `bput` whose requests are sent goes on when all are answered. -/
def blocksWait (s : State) (ids : List Nat) (bad : List (Nat × Nat)) : State :=
  if ids.isEmpty then
    match lowestBad bad with
    | some (i, c) => s.trap c (BitVec.ofNat 64 i)
    | none => s.retire
  else (s.updMe fun h => { h with op := some (.blocks ids bad) }).await .answer false

/-- `bget` and `bgetq` up to the sending of every read. Where both handles fail a check, the one that is checked first is reported: one
handle wholly, then the other, here and in `bput` and `bclr` (DESIGN CHOICE, log 35). -/
def bgetWith (s : State) (q : Bool) (hd hs : Nat) (k : State → List Nat → List (Nat × Nat) → State) : State :=
  let d := s.hr hd
  let b := s.hr hs
  s.checked (spadChecks d hd ++ blkChecks b hs 0 ++ [need (hCount d == hCount b) hd, chkShare s.ctx.spad d]) fun s =>
    s.blockVas .load b (hCount b) fun s qas =>
      match (List.range (hCount b)).find? fun i => (s.getTile s.myCell (spadTile d i)).st != .empty with
      | some i => s.trap 25 (BitVec.ofNat 64 i)
      | none =>
        let r := (qas.zip (List.range qas.length)).foldl
          (fun (a : State × List Nat × List (Nat × Nat)) p => a.1.sendRead q (hGen b) (spadTile d p.2) p.2 p.1 a.2.1 a.2.2)
          (s, [], [])
        k r.1 r.2.1 r.2.2

/-! ### bput (R104) -/

/-- One write of `bput` is sent. -/
def sendWrite (s : State) (gen tile idx qa : Nat) (ids : List Nat) (bad : List (Nat × Nat)) :
    State × List Nat × List (Nat × Nat) :=
  let part := s.ctx.part
  let t := s.getTile s.myCell tile
  if s.blockCut qa then (s, ids, bad ++ [(idx, 38)])
  else if t.st = .poison then (s.sendBlock s.cur.pkg .poison (.hart s.who) part qa gen tile idx 0 0, ids ++ [s.nextId], bad)
  else
    let s1 := s.setTile s.myCell tile { t with st := .draining }
    (s1.sendBlock s.cur.pkg .write (.hart s.who) part qa gen tile idx t.data t.side, ids ++ [s1.nextId], bad)

/-- `bput` once its sources are checked. When it has parked on a source, it checks all of them afresh as it goes on, so that one which was released
meanwhile raises HANDLE (DESIGN CHOICE, log 35: the manual's loop looks at each source once, and does not say what a change of an earlier one
does). -/
def bputGo (s : State) (d b : BitVec 256) (qas : List Nat) : State :=
  let st := fun i => (s.getTile s.myCell (spadTile d i)).st
  match (List.range (hCount d)).find? fun i => !(st i == .full || st i == .poison) with
  | some i =>
    if st i = .filling ∨ st i = .draining then s.await (.tiles [spadTile d i]) false else s.trap 31 (BitVec.ofNat 64 i)
  | none =>
    let r := (qas.zip (List.range qas.length)).foldl
      (fun (a : State × List Nat × List (Nat × Nat)) p => a.1.sendWrite (hGen b) (spadTile d p.2) p.2 p.1 a.2.1 a.2.2) (s, [], [])
    r.1.blocksWait r.2.1 r.2.2

/-! ### Single requests (R105, R106) -/

/-- `bclr`, `bpois` and `bstat`: one request for block 0, whose answer goes to x[rd]. -/
def blockAsk (s : State) (req : BlockReq) (acc : Acc) (right rd hs : Nat) : State :=
  let b := s.hr hs
  match s.me.op with
  | some (.asked _) =>
    match s.me.answer with
    | some (.word w) => s.finish rd w
    | some (.trap c t) => s.trap c t
    | _ => s.await .answer false
  | _ =>
    s.checked (blkChecks b hs right) fun s =>
      s.blockVas acc b 1 fun s qas =>
        let qa := qas.headD 0
        if s.blockCut qa then s.trap 38 0
        else
          let s1 := s.sendBlock s.cur.pkg req (.hart s.who) s.ctx.part qa (hGen b) 0 0 0 0
          (s1.note (.asked s.nextId)).await .answer false

/-! ### Answers (R103, R104) -/

/-- The answer of a read lands in the scratch block of a hart's request; `pkg` is the block's package. -/
def landRead (s : State) (h : HartId) (part id pkg tile idx : Nat) (q : Bool) (ans : BlockAns) : State :=
  let t := s.tileFor h.cellId part tile
  let r : Tile × Option Nat := match ans with
    | .data d sd => (⟨.full, d, sd, none, none⟩, none)
    | .stale => ({ Tile.reset with st := .refused }, some 24)
    | .unreachable => (Tile.poisoned (s.tick + tile), some 38)
    | _ => (Tile.poisoned (s.tick + tile), some 26)
  let s1 := if t.st = .filling then s.changeTile h.cellId part tile r.1 else s
  let s2 := if q ∧ ans = .unreachable then s1.logCell h.cellId true 51 pkg 0 part (h.hart % 32) else s1
  (if q then s2 else s2.blockDone h part id idx r.2).dropOp id

/-- The cause that the answer of a write gives its block (R104). -/
def writeCause : BlockAns → Option Nat
  | .stale => some 24
  | .ahead => some 24
  | .doubleFill => some 25
  | .unreachable => some 38
  | .coded w => if fld w 0 8 = 0 then none else if fld w 0 8 = 3 then some 24 else some 25
  | _ => none

/-- The answer of a write, poison, clear or status request reaches the hart that made it. -/
def landWrite (s : State) (h : HartId) (part id tile idx : Nat) (req : BlockReq) (ans : BlockAns) : State :=
  match (s.getWho h part).op with
  | some (.blocks _ _) =>
    let s1 := if req = .write then s.endDrain h.cellId part tile else s
    (s1.blockDone h part id idx (writeCause ans)).dropOp id
  | _ =>
    (s.answer h part (match ans with
      | .coded w => .word w
      | _ => .trap 38 0)).dropOp id

/-! ### brel (R109) -/

/-- The commands in the queues of a cell that read a scratch block. -/
def readersOf (x : CellCtx) (i : Nat) : List Nat :=
  ((x.mq ++ x.vq ++ x.cq).filter fun k => k.reads.contains i).map fun k => k.id

/-- One block of a `brel`. -/
def releaseTile (s : State) (i : Nat) : State :=
  let t := s.getTile s.myCell i
  match t.st with
  | .empty => s
  | .full =>
    let rs := readersOf s.ctx i
    if rs.isEmpty then s.setTile s.myCell i Tile.reset else s.setTile s.myCell i { t with brel := some rs }
  | .draining => s
  | _ => s.setTile s.myCell i Tile.reset

/-- Engine commands are done with their reads of a scratch block: a pending `brel` that waits for no other makes it EMPTY. -/
def readDone (s : State) (c : CellId) (part id i : Nat) : State :=
  let t := s.tileFor c part i
  match t.brel with
  | none => s
  | some l =>
    let l' := l.filter fun n => n != id
    if l'.isEmpty && t.st == .full then s.changeTile c part i Tile.reset
    else s.setTileFor c part i { t with brel := some l' }

/-- A single scratch block operand (R107, R110), with the index it is used at, if any. -/
def spadOne (s : State) (hs : Nat) (idx : Option Word) (k : State → Nat → State) : State :=
  let d := s.hr hs
  s.checked (spadChecks d hs ++ [chkShare s.ctx.spad d] ++ [match idx with
    | some w => if 511 < w.toNat then some (32, w.toNat) else none
    | none => none]) fun s => k s (spadTile d 0)

end State

/-! ### Block instructions -/

/-- bget (R103). -/
def execBget (hd hs : Nat) (s : State) : Out :=
  .next (match s.me.op with
    | some (.blocks ids bad) => s.blocksWait ids bad
    | _ => s.bgetWith false hd hs fun t ids bad => t.blocksWait ids bad)

/-- bgetq (R103): it completes once its requests are sent. -/
def execBgetq (hd hs : Nat) (s : State) : Out := .next (s.bgetWith true hd hs fun t _ _ => t.retire)

/-- bput (R104). -/
def execBput (hd hs : Nat) (s : State) : Out :=
  let b := s.hr hd
  let d := s.hr hs
  .next (match s.me.op with
    | some (.blocks ids bad) => s.blocksWait ids bad
    | _ =>
      s.checked (State.blkChecks b hd 1 ++ State.spadChecks d hs ++ [need (hCount d == hCount b) hd, chkShare s.ctx.spad d])
        fun s => s.blockVas .store b (hCount b) fun s qas => s.bputGo d b qas)

/-- bclr (R105). -/
def execBclr (rd hs : Nat) (s : State) : Out := .next (s.blockAsk .clear .store 2 rd hs)

/-- bpois (R105). -/
def execBpois (rd hs : Nat) (s : State) : Out := .next (s.blockAsk .poison .store 1 rd hs)

/-- bstat (R106). -/
def execBstat (rd hs : Nat) (s : State) : Out := .next (s.blockAsk .status .load 0 rd hs)

/-! ### Scratch-block instructions -/

/-- bwait (R108). -/
def execBwait (hs : Nat) (s : State) : Out :=
  let d := s.hr hs
  .next (s.checked (State.spadChecks d hs ++ [chkShare s.ctx.spad d]) fun s =>
    let st := fun i => (s.getTile s.myCell (spadTile d i)).st
    if (List.range (hCount d)).any fun i => st i == .filling || st i == .draining then s.await (.tiles (spadTiles d)) true
    else match (List.range (hCount d)).find? fun i => st i == .refused || st i == .poison with
      | some i => s.trap (if st i = .refused then 24 else 26) (BitVec.ofNat 64 i)
      | none => s.retire)

/-- The code of a scratch tile state (R19). -/
def TileState.code : TileState → Nat
  | .empty => 0
  | .filling => 1
  | .full => 2
  | .draining => 3
  | .refused => 4
  | .poison => 5

/-- btest (R107). -/
def execBtest (rd hs : Nat) (s : State) : Out :=
  .next (s.spadOne hs none fun s i => s.finish rd (BitVec.ofNat 64 (s.getTile s.myCell i).st.code))

/-- brel (R109). -/
def execBrel (hs : Nat) (s : State) : Out :=
  let d := s.hr hs
  .next (s.checked (State.spadChecks d hs ++ [chkShare s.ctx.spad d]) fun s =>
    let held := (spadTiles d).filter fun i =>
      let t := s.getTile s.myCell i
      t.st == .draining || (t.st == .filling && t.opener != some s.who.hart)
    if held.isEmpty then (((spadTiles d).foldl State.releaseTile s).wakeTiles s.myCell s.ctx.part).retire
    else s.await (.tiles held) true)

/-- bopen (R110). -/
def execBopen (hs : Nat) (s : State) : Out :=
  .next (s.spadOne hs none fun s i =>
    if (s.getTile s.myCell i).st = .empty then
      (s.setTile s.myCell i ⟨.filling, 0, BitVec.ofNat 512 (packElems 8 (List.replicate 64 0x7F)), some s.who.hart, none⟩).retire
    else s.trap 25 0)

/-- Scratch data with its 8-byte word `i` replaced. -/
def putDataWord (d : BitVec 32768) (i : Nat) (w : Word) : BitVec 32768 :=
  (d &&& ~~~(BitVec.ofNat 32768 ((2 ^ 64 - 1) * 2 ^ (64 * i)))) ||| BitVec.ofNat 32768 (w.toNat * 2 ^ (64 * i))

/-- bstw (R110). -/
def execBstw (hs rs1 rs2 : Nat) (s : State) : Out :=
  .next (s.spadOne hs (some (s.xr rs1)) fun s i =>
    let t := s.getTile s.myCell i
    if t.st = .filling ∧ t.opener = some s.who.hart then
      (s.setTile s.myCell i { t with data := putDataWord t.data (s.xr rs1).toNat (s.xr rs2) }).retire
    else s.trap 25 0)

/-- bseal (R110). -/
def execBseal (hs : Nat) (s : State) : Out :=
  .next (s.spadOne hs none fun s i =>
    let t := s.getTile s.myCell i
    if t.st = .filling ∧ t.opener = some s.who.hart then
      (s.changeTile s.myCell s.ctx.part i { t with st := .full, opener := none }).retire
    else s.trap 25 0)

/-- bldw (R107, R110). -/
def execBldw (rd hs rs2 : Nat) (s : State) : Out :=
  .next (s.spadOne hs (some (s.xr rs2)) fun s i =>
    let t := s.getTile s.myCell i
    match t.st with
    | .empty => s.await (.tileData i) true
    | .filling => s.await (.tileData i) true
    | .refused => s.trap 24 0
    | .poison => s.trap 26 0
    | _ => s.finish rd (BitVec.ofNat 64 (elemOf t.data 64 (s.xr rs2).toNat)))

/-! ### Handle instructions (R112, R113) -/

/-- hmov (R112). -/
def execHmov (hd hs : Nat) (s : State) : Out := .next ((s.setH hd (s.hr hs)).retire)

/-- A handle with its base moved on by a signed number of bytes. -/
def hBaseAdd (h : BitVec 256) (n : Int) : BitVec 256 := hPut h 0 64 (wordOfInt (hBase h + n)).toNat

/-- A handle advanced by a signed count (R112). -/
def hAdvance (h : BitVec 256) (n : Int) : BitVec 256 :=
  match hKind h with
  | 1 => hBaseAdd h (n * hStride h * 4096)
  | 2 => hBaseAdd h (n * 4096)
  | 3 => hBaseAdd h n
  | _ => hPut h 192 24 ((hPix0 h + n) % 2 ^ 24).toNat

/-- hadv (R112). -/
def execHadv (hd rs1 : Nat) (s : State) : Out :=
  let h := s.hr hd
  .next (if hKind h = 0 ∨ 4 < hKind h then s.trap 31 (BitVec.ofNat 64 hd)
    else (s.setH hd (hAdvance h (s.xr rs1).toInt)).retire)

/-- hginc (R112). -/
def execHginc (hd : Nat) (s : State) : Out :=
  let h := s.hr hd
  .next (if hKind h ≠ kindBlk then s.trap 31 (BitVec.ofNat 64 hd) else (s.setH hd (hPut h 64 12 ((hGen h + 1) % 4096))).retire)

/-- hsub (R112). -/
def execHsub (hd hs rs2 : Nat) (s : State) : Out :=
  let h := s.hr hs
  let i := fld (s.xr rs2) 0 32
  let n := fld (s.xr rs2) 32 16
  let wspan := hKind h == kindWspan
  let have' := if wspan then hWrows h else hCount h
  .next (if hKind h = 0 ∨ 3 < hKind h ∨ n = 0 ∨ have' < i + n then s.trap 31 (BitVec.ofNat 64 hs)
    else if wspan then (s.setH hd (hPut (hBaseAdd h (i * hPitch h)) 160 16 n)).retire
    else (s.setH hd (hPut (hAdvance h i) 96 16 n)).retire)

/-- hgetf (R113). -/
def execHgetf (rd hs sel : Nat) (s : State) : Out :=
  let h := s.hr hs
  .next (match selField (hKind h) sel with
    | none => s.trap 31 (BitVec.ofNat 64 hs)
    | some (lo, len) =>
      let v := hField h lo len
      s.finish rd (if selSigned (hKind h) sel then sextTo len v else BitVec.ofNat 64 v))

/-- hsetf (R113). -/
def execHsetf (hd rs1 sel : Nat) (s : State) : Out :=
  let h := s.hr hd
  .next (match selField (hKind h) sel with
    | none => s.trap 31 (BitVec.ofNat 64 hd)
    | some (lo, len) => (s.setH hd (hPut h lo len (s.xr rs1).toNat)).retire)

end Sys2Proof.Machine
end

