-- ==== Sys2Proof/Machine/Matrix.lean ====
section
/-!
DEFINITION. What a matrix command does when it starts (R131 to R141): the accumulator tile, the scratch blocks and rows it
will write, and the instructions that enter the matrix queue.
-/
namespace Sys2Proof.Machine

/-- The outcome of a command's start: a fault (0: none), the tile it leaves, the bits it raises in mx.sticky, and what it
will write when it is done. -/
structure Started where
  fault : Nat
  acc : AccTile
  sticky : Nat
  result : EngineResult
  deriving DecidableEq, Repr

/-- Nothing to write. -/
def noResult : EngineResult := ⟨[], [], [], 0⟩

/-- A sideband of 0x7F throughout. -/
def side7F : BitVec 512 := BitVec.ofNat 512 (packElems 8 (List.replicate 64 0x7F))

/-- The 64 sideband bytes. -/
def sideBytes (s : BitVec 512) : List Nat := elemsFrom 8 64 s.toNat

/-- The elements of a block in a format. -/
def blockElems (f : Nat) (d : BitVec 32768) : List Nat := elemsFrom ((fmtBits f).getD 8) (fmtElems f) d.toNat

/-! ### The accumulator tile (R17, R132) -/

/-- The 1,024 values of a tile. -/
def AccTile.values (t : AccTile) : List Rn30 := if t.vals.isEmpty then List.replicate 1024 (0, 0, 0) else t.vals

/-- A status word with INVAL bits added. -/
def orInval (st : Word) (rows : Nat) : Word := st ||| BitVec.ofNat 64 (rows % 2 ^ 32)

/-- The rows of a list of conditions, as INVAL bits. -/
def rowBits : List Bool → Nat
  | [] => 0
  | b :: l => (if b then 1 else 0) + 2 * rowBits l

/-- Rows made invalid by exponents of 0xFF (R132). -/
def badExps (xa xb : List Nat) : Nat :=
  if xb.any fun e => e == 0xFF then 2 ^ 32 - 1 else rowBits (xa.map fun e => e == 0xFF)

/-- Latch the exponents, or mark the rows whose exponents differ from the latched ones (R132). -/
def AccTile.latch (t : AccTile) (xa xb : List Nat) : AccTile :=
  if t.latched then
    let bad := if xb = t.eb then rowBits (List.zipWith (fun a b => a != b) xa t.ea) else 2 ^ 32 - 1
    { t with status := orInval t.status bad }
  else { t with latched := true, ea := xa, eb := xb }

/-- BUDGET grows, saturating; the status word with RANGE as well, and whether RANGE is raised (R132, R133). -/
def addBudget (st : Word) (n : Nat) : Word × Bool :=
  let b := min (fld st 32 29 + n) 536870911
  let st1 := setFld st 32 29 b
  if 536870399 < b then (setFld st1 61 1 1, true) else (st1, false)

/-- Set or clear DRAINED. -/
def setDrained (st : Word) (v : Nat) : Word := setFld st 63 1 v

/-- Add values to a tile, channel by channel (R132, R140). -/
def AccTile.addValues (t : AccTile) (vs : List Rn30) : AccTile := { t with vals := List.zipWith rnAdd t.values vs }

/-! ### Accumulation (R131 to R134) -/

/-- K of a legal pair of operand formats, and the product of the two bounds (R131). -/
def pairOf : Nat → Nat → Option (Nat × Nat)
  | 0x00, 0x00 => some (256, 64)
  | 0x01, 0x01 => some (128, 16384)
  | 0x01, 0x03 => some (128, 32640)
  | 0x03, 0x01 => some (128, 32640)
  | 0x03, 0x03 => some (128, 65025)
  | 0x02, 0x02 => some (64, 261121)
  | _, _ => none

/-- The sum of products of two lists. -/
def dot (a b : List Int) : Int := (List.zipWith (· * ·) a b).foldl (· + ·) 0

/-- The 32 x 32 products of the 32 rows of A and the 32 columns of B. -/
def products (a b : List (List Int)) : List Rn30 := a.flatMap fun row => b.map fun col => rnOf (dot row col)

/-- The operand elements of a block (R131): 32 rows of A, or the 32 columns of B, of K elements each. -/
def operand (f k : Nat) (d : BitVec 32768) : List (List Int) := chunks k 32 ((blockElems f d).map (matrixElem f))

/-- Accumulate into a tile (R132): A's rows and B's columns, none when an operand is POISON; the exponents; what BUDGET grows by. -/
def AccTile.accumulate (t : AccTile) (ab : Option (List (List Int) × List (List Int))) (xa xb : List Nat) (inc : Nat) :
    AccTile × Bool :=
  let t1 := match ab with
    | none => { t with status := orInval t.status (2 ^ 32 - 1) }
    | some (a, b) =>
      let t0 := t.addValues (products a b)
      { t0 with status := orInval t0.status (badExps xa xb) }
  let t2 := t1.latch xa xb
  let r := addBudget t2.status inc
  ({ t2 with status := setDrained r.1 0 }, r.2)

/-- The byte at a scratch address. -/
def State.scratchByte (s : State) (c : CellId) (a : Nat) : Nat := elemOf (s.getTile c (a / 4096)).data 8 (a % 4096)

/-- Output height or width of a VIRTA tensor (R134): floor((n + 2 pad - dil (k - 1) - 1) / s) + 1. -/
def outDim (n k : Nat) (h : BitVec 256) : Int :=
  ((n : Int) + 2 * hPad h - hDil h * ((k : Int) - 1) - 1) / (hStep h : Int) + 1

/-- Element (i, k) of an A operand that is formed from a VIRTA tensor (R134). -/
def State.virtaElem (s : State) (c : CellId) (h : BitVec 256) (f i k : Nat) : Int :=
  let oh := outDim (hH h) (hKh h) h
  let ow := outDim (hW h) (hKw h) h
  let p := hPix0 h + i
  let kk := hK0 h + k
  if oh < 1 ∨ ow < 1 ∨ oh * ow ≤ p ∨ hKh h * hKw h * hC h ≤ kk then 0
  else
    let oy := p / ow.toNat
    let ox := p % ow.toNat
    let ch := kk % hC h
    let kx := kk / hC h % hKw h
    let ky := kk / (hC h * hKw h)
    let y : Int := (oy * hStep h : Nat) - (hPad h : Int) + (ky * hDil h : Nat)
    let x : Int := (ox * hStep h : Nat) - (hPad h : Int) + (kx * hDil h : Nat)
    if y < 0 ∨ (hH h : Int) ≤ y ∨ x < 0 ∨ (hW h : Int) ≤ x then 0
    else
      let size := if f = 0x02 then 2 else 1
      let a := hBase h + ((y.toNat * hW h + x.toNat) * hC h + ch) * size
      matrixElem f (s.scratchByte c a + if size = 2 then 256 * s.scratchByte c (a + 1) else 0)

/-- A tile is POISON. -/
def State.isPoison (s : State) (c : CellId) (i : Nat) : Bool := (s.getTile c i).st == .poison

/-- `mma`, `mmaz`, `mmav` or `mmavz` at its start. -/
def State.startMma (s : State) (c : CellId) (k : Cmd) (virta zero : Bool) : Started :=
  let af := bitsOf k.csr.fmt 0 8
  let bf := bitsOf k.csr.fmt 8 8
  let t0 := s.getAcc c (accOf k.instr)
  let bad := virta && (!(af == 0x01 || af == 0x02 || af == 0x03) || hFmt k.ha != af)
  match (if bad then none else pairOf af bf) with
  | none => ⟨1, t0, 0, noResult⟩
  | some (kk, m) =>
    let t := if zero then AccTile.reset else t0
    let at0 := s.getTile c (spadTile k.ha 0)
    let bt := s.getTile c (spadTile k.hb 0)
    let xa := if !virta && bitsOf k.csr.fmt 16 1 = 1 then (sideBytes at0.side).take 32 else List.replicate 32 k.csr.aexp
    let xb := if bitsOf k.csr.fmt 17 1 = 1 then (sideBytes bt.side).drop 32 else List.replicate 32 k.csr.bexp
    let poison := s.isPoison c (spadTile k.hb 0) ||
      if virta then (virtaTiles k.ha).any (s.isPoison c) else s.isPoison c (spadTile k.ha 0)
    let a := if virta then (List.range 32).map fun i => (List.range kk).map fun j => s.virtaElem c k.ha af i j
      else operand af kk at0.data
    let r := t.accumulate (if poison then none else some (a, operand bf kk bt.data)) xa xb (kk * m)
    ⟨0, r.1, if r.2 then 1 else 0, noResult⟩

/-! ### Merging a saved tile (R140) -/

/-- `mmrg` at its start. -/
def State.startMerge (s : State) (c : CellId) (k : Cmd) : Started :=
  let t := s.getAcc c (accOf k.instr)
  let b0 := s.getTile c (spadTile k.ha 0)
  let b1 := s.getTile c (spadTile k.ha 1)
  let st : Word := BitVec.ofNat 64 (elemOf b1.data 64 0)
  let raw := elemsFrom 32 1024 b0.data.toNat
  let xa := (sideBytes b0.side).take 32
  let xb := (sideBytes b0.side).drop 32
  let t1 :=
    if s.isPoison c (spadTile k.ha 0) || s.isPoison c (spadTile k.ha 1) then
      { t with status := orInval t.status (2 ^ 32 - 1) }
    else
      let badRows := rowBits ((chunks 32 32 raw).map fun r => r.any rnBad)
      let t0 := t.addValues (raw.map fun w => if rnBad w then (0, 0, 0) else rnUnword w)
      { t0 with status := orInval t0.status badRows }
  let t2 := { t1 with status := orInval t1.status (badExps xa xb) }.latch xa xb
  let st1 := orInval t2.status (fld st 0 32) ||| (st &&& BitVec.ofNat 64 (2 ^ 62 + 2 ^ 61))
  let r := addBudget st1 (fld st 32 29)
  let range := fld t.status 61 1 = 0 ∧ fld r.1 61 1 = 1
  ⟨0, { t2 with status := setDrained r.1 0 }, if range then 1 else 0, noResult⟩

/-! ### Drains (R135 to R139) -/

/-- The exponents a drain uses: the latched ones, or 127 for an unlatched tile (R136). -/
def AccTile.exps (t : AccTile) : List Nat × List Nat :=
  if t.latched then (t.ea, t.eb) else (List.replicate 32 127, List.replicate 32 127)

/-- The values of row i of a tile (R136). -/
def AccTile.row (t : AccTile) (i : Nat) (vals : List Rn30) : List Fp :=
  let e := t.exps
  List.zipWith (fun (v : Rn30) eb => Fp.ofInt (rnValue v) ((e.1.getD i 127 : Nat) + (eb : Nat) - 254)) vals e.2

/-- A row drained to FP32 or BF16: the codes, and whether one overflowed (R136). -/
def drainFp (f : FpFmt) (inval : Bool) (vs : List Fp) : List Nat × Bool :=
  if inval then (vs.map fun _ => f.nanCode, false)
  else
    let cs := vs.map (f.round 0)
    (cs, cs.any fun x => x % 2 ^ (f.ebits + f.frac) == f.infCode)

/-- A number of `n` bytes, as bytes. -/
def rowBytes (n v : Nat) : List Byte := natToBytes n v

/-- What a destination of a drain receives: its rows, each of `n` bytes: a scratch block holds them one after the other. -/
def drainBlock (h : BitVec 256) (n : Nat) (rows : List Nat) (side : BitVec 512) :
    List (Nat × Option (BitVec 32768 × BitVec 512)) :=
  if hKind h = kindSpad then [(spadTile h 0, some (BitVec.ofNat 32768 (packElems (8 * n) rows), side))] else []

/-- The rows of a destination in word space. -/
def drainRows (h : BitVec 256) (n : Nat) (rows : List Nat) : List (List Byte) :=
  if hKind h = kindWspan then rows.map (rowBytes n) else []

/-- The tile after a drain (R135). -/
def AccTile.drained (t : AccTile) (clr sat : Bool) : AccTile :=
  if clr then AccTile.reset
  else { t with status := setDrained (if sat then setFld t.status 62 1 1 else t.status) 1 }

/-- The formats of a drain's destinations agree with its mode (R135). -/
def drainFmts (mode : Nat) (hd hb : BitVec 256) : Bool :=
  (drainRow mode).isSome && hFmt hd == mode &&
    (!drainAux mode || hFmt hb == (if mode = 0x06 then 0x06 else 0x18))

/-- `mdrn` at its start. -/
def State.startDrain (s : State) (c : CellId) (k : Cmd) : Started :=
  let t := s.getAcc c (accOf k.instr)
  let mode := bitsOf k.csr.drn 0 8
  let clr := bitsOf k.csr.drn 8 1 == 1
  if !drainFmts mode k.hd k.hb then ⟨2, t, 0, noResult⟩
  else
    let n := (drainRow mode).getD 0
    let vals := chunks 32 32 t.values
    let inval := fun i => wbit t.status i
    if mode = 0x06 then
      let side := if t.latched then BitVec.ofNat 512 (packElems 8 (t.ea ++ t.eb)) else side7F
      let blocks := [(spadTile k.hd 0, some (blockOf 32 (t.values.map rnWord), side)),
        (spadTile k.hb 0, some (BitVec.ofNat 32768 t.status.toNat, side7F))]
      ⟨0, t.drained clr false, 0, ⟨blocks, [], [], 0⟩⟩
    else if isMx mode then
      let w := (fmtBits mode).getD 8
      let rs := (List.range 32).map fun i => mxBlock mode (inval i) (t.row i (vals.getD i []))
      let sat := rs.any fun r => r.2.2
      let rows := rs.map fun r => packElems w r.2.1
      let scales := [packElems 8 (rs.map fun r => r.1)]
      ⟨0, t.drained clr sat, if sat then 2 else 0,
        ⟨drainBlock k.hd n rows side7F ++ drainBlock k.hb 32 scales side7F, [],
          drainRows k.hd n rows ++ drainRows k.hb 32 scales, 0⟩⟩
    else
      let f := fpOf mode
      let rs := (List.range 32).map fun i => drainFp f (inval i) (t.row i (vals.getD i []))
      let sat := rs.any fun r => r.2
      let rows := rs.map fun r => packElems (1 + f.ebits + f.frac) r.1
      ⟨0, t.drained clr sat, if sat then 2 else 0, ⟨drainBlock k.hd n rows side7F, [], drainRows k.hd n rows, 0⟩⟩

/-- A matrix command at its start. -/
def State.startMatrix (s : State) (c : CellId) (k : Cmd) : Started :=
  match k.instr with
  | .mma .. => s.startMma c k false false
  | .mmaz .. => s.startMma c k false true
  | .mmav .. => s.startMma c k true false
  | .mmavz .. => s.startMma c k true true
  | .mmrg .. => s.startMerge c k
  | .mdrn .. => s.startDrain c k
  | .aclr a => let _ := a; ⟨0, AccTile.reset, 0, noResult⟩
  | _ => ⟨0, s.getAcc c (accOf k.instr), 0, noResult⟩

/-! ### Rows of a drain in word space (R139) -/

/-- What the translation of an instruction's rows comes to. -/
inductive RowsTry where
  | ok (rows : List RowReq) (s : State)
  | stop (s : State)

/-- The first row that fails with a cause. -/
def rowFailing (c : Nat) (l : List (Word × Except Nat RowReq)) : Option Word :=
  (l.find? fun r => match r.2 with
    | .error e => e == c
    | .ok _ => false).map fun r => r.1

/-- The rows when none of them fails; otherwise an access fault, and after it PAGE_KIND, at the lowest row that has it (R52). -/
def State.settleRows (s : State) (l : List (Word × Except Nat RowReq)) : RowsTry :=
  match rowFailing 7 l, rowFailing 27 l with
  | some va, _ => .stop (s.trap 7 va)
  | none, some va => .stop (s.trap 27 va)
  | none, none => .ok (l.filterMap fun r => r.2.toOption) s

/-- Translate rows, each with its number of bytes, of the current hart, lowest row first (R139). A row in the cell window is never walked,
and is of the wrong kind (R22); a page fault comes before the other causes (R52). -/
def State.rowsOf : List (Nat × Word) → State → List (Word × Except Nat RowReq) → RowsTry
  | [], s, acc => s.settleRows acc
  | (n, va) :: l, s, acc =>
    if inWindow va then State.rowsOf l s (acc ++ [(va, .error 27)])
    else match s.translate s.cur.pkg va with
    | .fault => .stop (s.trap 15 va)
    | .wait s' => .stop s'
    | .ok e s' =>
      if !leafAllows .store s.me.mode e then .stop (s.trap 15 va)
      else
        let qa := e.phys va.toNat
        if physFault e qa then State.rowsOf l s' (acc ++ [(va, .error 7)])
        else if e.kind = kBlock then State.rowsOf l s' (acc ++ [(va, .error 27)])
        else
          let k := s'.kindAt e qa
          let home := s'.homeOf k qa
          State.rowsOf l s' (acc ++ [(va, .ok ⟨va, ⟨qa, n, k, home, e.kind⟩, s'.postClass k qa home⟩)])

/-- The rows of a drain that go to word space, with their bytes: those of hd, then the scales row (R135, R139). -/
def drainVas (k : Cmd) : List (Nat × List Word) :=
  let mode := bitsOf k.csr.drn 0 8
  match drainRow mode with
  | none => []
  | some n =>
    (if hKind k.hd = kindWspan then [(n, (List.range 32).map (rowVa k.hd))] else []) ++
      (if drainAux mode && hKind k.hb == kindWspan then [(32, [rowVa k.hb 0])] else [])

/-- The rows of a drain, each with its number of bytes. -/
def drainList (k : Cmd) : List (Nat × Word) := (drainVas k).flatMap fun p => p.2.map fun va => (p.1, va)

/-- Rows of a context of a cell enter the range-lock tables one after the other, each counted as a post, while the count of its class has
room (R139): the operations, and the rows that are left. -/
def State.registerRows (h : HartId) (part : Nat) (c : CellId) : List RowReq → State → List Nat → State × List Nat × List RowReq
  | [], s, ids => (s, ids, [])
  | r :: rs, s, ids =>
    if State.postCount (s.getWho h part) r.cls = 65535 then (s, ids, r :: rs)
    else
      let s1 := s.updWho h part fun v => State.setPostCount v r.cls (State.postCount v r.cls + 1)
      let s2 := (s1.newOp (.row h part r.cls c r.va r.seg 0 none false)).send c.pkg r.seg.home.pkg 2 (.rangeLock s1.nextId)
      State.registerRows h part c rs s2 (ids ++ [s1.nextId])

/-- A row is still to be locked. -/
def State.rowOpen (s : State) (id : Nat) : Bool :=
  match s.getOp id with
  | some (.row _ _ _ _ _ _ lock _ _) => lock == 0
  | _ => false

/-- The rows of an `mdrn` go on: those left are registered as counts have room, and the command enters its queue once each is locked or
refused (R139). -/
def State.moveRows (s : State) (k : Cmd) (ids : List Nat) (left : List RowReq) : State :=
  let r := State.registerRows s.who s.ctx.part s.myCell left s ids
  let t := if r.2.2.length = left.length then r.1 else r.1.note (.rows r.2.1 r.2.2)
  if !r.2.2.isEmpty || r.2.1.any r.1.rowOpen || s.hasBuffered s.who || s.queueFull s.myCell 0 then t.await .retry false
  else ({ t with nextId := t.nextId + 1 }.enqueue s.myCell { k with id := t.nextId, rows := r.2.1 }).retire

/-- `mdrn` with rows in word space (R139). On a predicted path it enters the commit buffer, and its rows are registered once it commits
(R157). -/
def State.issueRows (s : State) (i : Instr) : State :=
  let k := s.mkCmd i
  match s.me.op with
  | some (.rows ids left) => s.moveRows k ids left
  | _ =>
    match cmdCheck s.ctx.spad s.me.csr.veC.toNat k with
    | some (c, v) => s.trap c (BitVec.ofNat 64 v)
    | none =>
      match State.rowsOf (drainList k) s [] with
      | .stop s' => s'
      | .ok rows s' =>
        if s'.me.spec.isSome then s'.enterBuffer k rows
        else State.moveRows (s'.note (.rows [] rows)) k [] rows

/-! ### The instructions -/

/-- mma (R132). -/
def execMma (acc ha hb : Nat) (s : State) : Out := .next (s.issue (.mma acc ha hb))

/-- mmaz (R132). -/
def execMmaz (acc ha hb : Nat) (s : State) : Out := .next (s.issue (.mmaz acc ha hb))

/-- mmav (R134). -/
def execMmav (acc ha hb : Nat) (s : State) : Out := .next (s.issue (.mmav acc ha hb))

/-- mmavz (R134). -/
def execMmavz (acc ha hb : Nat) (s : State) : Out := .next (s.issue (.mmavz acc ha hb))

/-- mdrn (R135 to R139). -/
def execMdrn (hd acc hs2 : Nat) (s : State) : Out :=
  let i := Instr.mdrn hd acc hs2
  .next (if (drainVas (s.mkCmd i)).isEmpty then s.issue i else s.issueRows i)

/-- mmrg (R140). -/
def execMmrg (acc hs : Nat) (s : State) : Out := .next (s.issue (.mmrg acc hs))

/-- aclr (R141). -/
def execAclr (acc : Nat) (s : State) : Out := .next (s.issue (.aclr acc))

/-- astat (R141): it enters the matrix queue, and the hart waits until it reaches the head. -/
def execAstat (rd acc : Nat) (s : State) : Out :=
  .next (match s.me.answer with
    | some (.word v) => s.finish rd v
    | _ =>
      if s.hasBuffered s.who || s.queueFull s.myCell 0 then s.await .retry false
      else ({ s with nextId := s.nextId + 1 }.enqueue s.myCell (s.mkCmd (.astat rd acc))).await .answer false)

end Sys2Proof.Machine
end

