-- ==== Sys2Proof/Machine/Vector.lean ====
section
/-!
DEFINITION. What a vector command computes when it starts (R144 to R150), and the instructions of the vector engine.
-/
namespace Sys2Proof.Machine

/-! ### Sources (R129, R144) -/

/-- The elements of each block of a handle; none for a POISON block. -/
def State.sources (s : State) (c : CellId) (h : BitVec 256) : List (Option (List Nat)) :=
  (spadTiles h).map fun i =>
    let t := s.getTile c i
    if t.st = .poison then none else some (blockElems (hFmt h) t.data)

/-- Apply a function of a block's number and elements to each block. -/
def mapBlocks (f : Nat → List Nat → List Nat) (l : List (Option (List Nat))) : List (Option (List Nat)) :=
  l.mapIdx fun i b => b.map (f i)

/-- Combine two lists of blocks; a block is none when either source is. -/
def zipBlocks (f : Nat → List Nat → List Nat → List Nat) (a b : List (Option (List Nat))) : List (Option (List Nat)) :=
  (a.zip b).mapIdx fun i p => p.1.bind fun x => p.2.map fun y => f i x y

/-- The destination blocks of a handle, from their elements (R129, R150). -/
def destBlocks (h : BitVec 256) (l : List (Option (List Nat))) : List (Nat × Option (BitVec 32768 × BitVec 512)) :=
  l.mapIdx fun i b => (spadTile h i, b.map fun x => (blockOf (vecBits (hFmt h)) x, side7F))

/-! ### Element-wise operations (R145, R146) -/

/-- The integer of an element. -/
def vecInt (f v : Nat) : Int := signedOf (vecBits f) v

/-- A scalar as an operand: FP32 bits. -/
def scalarFp (v : Nat) : Fp := fp32.decode (v % 2 ^ 32)

/-- a + b. -/
def vecAdd (f rm a b : Nat) : Nat :=
  if isFp f then fpResult f rm (((fpOf f).decode a).add rm ((fpOf f).decode b)) else satInt (vecBits f) (vecInt f a + vecInt f b)

/-- a - b. -/
def vecSub (f rm a b : Nat) : Nat :=
  if isFp f then fpResult f rm (((fpOf f).decode a).add rm ((fpOf f).decode b).neg) else satInt (vecBits f) (vecInt f a - vecInt f b)

/-- a x b. -/
def vecMul (f rm a b : Nat) : Nat :=
  if isFp f then fpResult f rm (((fpOf f).decode a).mul ((fpOf f).decode b)) else satInt (vecBits f) (vecInt f a * vecInt f b)

/-- a x b + c with one rounding. -/
def vecFma (f rm a b c : Nat) : Nat :=
  if isFp f then fpResult f rm ((((fpOf f).decode a).mul ((fpOf f).decode b)).add rm ((fpOf f).decode c))
  else satInt (vecBits f) (vecInt f a * vecInt f b + vecInt f c)

/-- The larger of two elements. -/
def vecMax (f a b : Nat) : Nat := if isFp f then fpMax f a b else if vecInt f a < vecInt f b then b else a

/-- The smaller of two elements. -/
def vecMin (f a b : Nat) : Nat := if isFp f then fpMin f a b else if vecInt f b < vecInt f a then b else a

/-- a x s. -/
def vecScale (f rm sv a : Nat) : Nat :=
  if isFp f then fpResult f rm (((fpOf f).decode a).mul (scalarFp sv)) else satInt (vecBits f) (vecInt f a * signedOf 32 sv)

/-- (s x a) + b: two roundings on floating-point types, one saturation on integers. -/
def vecAxpy (f rm sv a b : Nat) : Nat :=
  if isFp f then vecAdd f rm (vecScale f rm sv a) b else satInt (vecBits f) (signedOf 32 sv * vecInt f a + vecInt f b)

/-- A unary function in floating point. -/
def vecFn (g : Fp → Fp) (f rm a : Nat) : Nat := fpResult f rm (g ((fpOf f).decode a))

/-- a < b. -/
def vecLt (f a b : Nat) : Bool :=
  if isFp f then Fp.lt ((fpOf f).decode a) ((fpOf f).decode b) else decide (vecInt f a < vecInt f b)

/-- a = b. -/
def vecEq (f a b : Nat) : Bool :=
  if isFp f then Fp.eq ((fpOf f).decode a) ((fpOf f).decode b) else decide (vecInt f a = vecInt f b)

/-! ### Rows of 32 (R147, R148) -/

/-- The rows of a block. -/
def rowsOf32 (l : List Nat) : List (List Nat) := chunks 32 (l.length / 32) l

/-- One level of the tree: neighbours combined. -/
def pairUp {α : Type} (op : α → α → α) : List α → List α
  | a :: b :: l => op a b :: pairUp op l
  | l => l

/-- The fixed tree over 32 elements. -/
def tree {α : Type} (op : α → α → α) (l : List α) : Option α :=
  (pairUp op (pairUp op (pairUp op (pairUp op (pairUp op l))))).head?

/-- The sum of a row. -/
def rowSum (f rm : Nat) (row : List Nat) : Nat :=
  if isFp f then (tree (vecAdd f rm) row).getD 0
  else satInt (vecBits f) ((row.map (vecInt f)).foldl (· + ·) 0)

/-- The maximum of a row. -/
def rowMax (f : Nat) (row : List Nat) : Nat := (tree (vecMax f) row).getD 0

/-- The lowest index of a row whose element is its maximum, bit for bit; 0 when that is a NaN. -/
def rowArg (f : Nat) (row : List Nat) : Nat :=
  let m := rowMax f row
  if isFp f && (fpOf f).decode m = .nan then 0 else row.findIdx fun v => v == m

/-- One term of `verrs` as FP32 bits. -/
def errTerm (f rm atol rtol a b : Nat) : Nat :=
  let r := fun v => fp32.round rm v
  let d := fun v => fp32.decode v
  let x := (fpOf f).decode a
  let mag := match x with
    | .nan => Fp.nan
    | .inf _ => .inf false
    | .fin _ m e => .fin false m e
  let num := r (x.add rm ((fpOf f).decode b).neg)
  let den := r ((d atol).add rm (d (r ((d rtol).mul mag))))
  let t := r ((d num).div (d den))
  r ((d t).mul (d t))

/-- The sum of a row's error terms. -/
def rowErr (f rm atol rtol : Nat) (a b : List Nat) : Nat :=
  (tree (vecAdd 0x08 rm) (List.zipWith (errTerm f rm atol rtol) a b)).getD 0

/-! ### Transposing and converting (R150) -/

/-- A 32 x 32 tile transposed. -/
def transpose32 (l : List Nat) : List Nat :=
  let rows := chunks 32 32 l
  (List.range 32).flatMap fun j => rows.map fun r => r.getD j 0

/-- An element as it is passed on: a NaN becomes the canonical NaN of its type (R204). -/
def cleanNan (f v : Nat) : Nat := if isFp f ∧ (fpOf f).decode v = .nan then (fpOf f).nanCode else v

/-- A block of 32 x 32 tiles, each transposed. -/
def transposeBlock (l : List Nat) : List Nat := (chunks 1024 (l.length / 1024) l).flatMap transpose32

/-- Replace none by a given number of missing elements, so that poison follows the elements. -/
def flatElems (n : Nat) (l : List (Option (List Nat))) : List (Option Nat) :=
  l.flatMap fun b => match b with
    | none => List.replicate n none
    | some x => x.map some

/-- Cut elements into blocks of `n`: a block is none when one of its elements is. -/
def blocksOf (n k : Nat) (l : List (Option Nat)) : List (Option (List Nat)) :=
  (chunks n k l).map fun b => b.mapM id

/-! ### The start of a vector command -/

/-- The destination blocks of a command whose destination's blocks follow its sources' (R129). -/
def vecResult (h : BitVec 256) (l : List (Option (List Nat))) : EngineResult := ⟨destBlocks h l, [], [], 0⟩

/-- `vcmplt` or `vcmpeq`: the flags in increasing e; a POISON block gives 0 and a late POISON_FLAG (R149). -/
def compareResult (k : Cmd) (a b : List (Option (List Nat))) (rel : Nat → Nat → Nat → Bool) : EngineResult :=
  let f := hFmt k.ha
  let n := fmtElems f
  let r := (a.zip b).map fun (p : Option (List Nat) × Option (List Nat)) => match p.1, p.2 with
    | some x, some y => (false, List.zipWith (rel f) x y)
    | _, _ => (true, List.replicate n false)
  let bits := r.flatMap fun p => p.2
  ⟨[], bits.mapIdx fun e v => ((fld k.xv 0 10 + e) % 1024, v), [], if r.any fun p => p.1 then 5 else 0⟩

/-- A vector command at its start. -/
def State.startVector (s : State) (c : CellId) (k : Cmd) : EngineResult :=
  let f := hFmt k.ha
  let rm := k.csr.rm
  let a := s.sources c k.ha
  let b := s.sources c k.hb
  let un := fun g : Nat → Nat => vecResult k.hd (mapBlocks (fun _ x => x.map g) a)
  let bin := fun g : Nat → Nat → Nat => vecResult k.hd (zipBlocks (fun _ x y => List.zipWith g x y) a b)
  let red := fun g : List Nat → Nat => vecResult k.hd (mapBlocks (fun _ x => (rowsOf32 x).map g) a)
  match k.instr with
  | .vadd .. => bin (vecAdd f rm)
  | .vsub .. => bin (vecSub f rm)
  | .vmul .. => bin (vecMul f rm)
  | .vmax .. => bin (vecMax f)
  | .vmin .. => bin (vecMin f)
  | .vaxpy .. => bin (vecAxpy f rm k.csr.s)
  | .vfma .. =>
    let ab := zipBlocks (fun _ x y => List.zipWith (fun p q => p + q * 2 ^ 32) x y) a b
    vecResult k.hd (zipBlocks (fun _ x y => List.zipWith (fun p q => vecFma f rm (p % 2 ^ 32) (p / 2 ^ 32) q) x y) ab
      (s.sources c k.hc))
  | .vscl .. => un (vecScale f rm (fld k.xv 0 32))
  | .vexp2 .. => un (vecFn Fp.exp2 f rm)
  | .vrcp .. => un (vecFn Fp.recip f rm)
  | .vrsq .. => un (vecFn Fp.rsqrt f rm)
  | .vsel .. =>
    let flags := (s.getCell c).ctx.flags
    let n := fmtElems f
    vecResult k.hd (zipBlocks (fun i x y =>
      (x.zip y).mapIdx fun j p => if flags.getLsbD ((k.csr.fbase + n * i + j) % 1024) then cleanNan f p.1 else cleanNan f p.2) a b)
  | .vcmplt .. => compareResult k a b vecLt
  | .vcmpeq .. => compareResult k a b vecEq
  | .vreds .. => red (rowSum f rm)
  | .vredm .. => red (rowMax f)
  | .vargm .. => red (rowArg f)
  | .verrs .. => vecResult k.hd (zipBlocks (fun _ x y =>
      List.zipWith (rowErr f rm k.csr.atol k.csr.rtol) (rowsOf32 x) (rowsOf32 y)) a b)
  | .vtrn .. => vecResult k.hd (mapBlocks (fun _ x => transposeBlock (x.map (cleanNan f))) a)
  | .vfill .. => vecResult k.hd ((List.range (hCount k.hd)).map fun _ =>
      some (List.replicate (fmtElems (hFmt k.hd)) (k.xv.toNat % 2 ^ vecBits (hFmt k.hd))))
  | .vcopy .. =>
    ⟨List.zipWith (fun d i =>
      let t := s.getTile c i
      (d, if t.st = .poison then none else some (t.data, t.side))) (spadTiles k.hd) (spadTiles k.ha), [], [], 0⟩
  | _ =>
    let g := hFmt k.hd
    let es := (flatElems (fmtElems f) a).map fun x => x.map (convert f g rm)
    vecResult k.hd (blocksOf (fmtElems g) (hCount k.hd) es)

/-! ### The instructions -/

/-- vadd (R146). -/
def execVadd (hd ha hb : Nat) (s : State) : Out := .next (s.issue (.vadd hd ha hb))

/-- vsub (R146). -/
def execVsub (hd ha hb : Nat) (s : State) : Out := .next (s.issue (.vsub hd ha hb))

/-- vmul (R146). -/
def execVmul (hd ha hb : Nat) (s : State) : Out := .next (s.issue (.vmul hd ha hb))

/-- vfma (R146). -/
def execVfma (hd ha hb : Nat) (s : State) : Out := .next (s.issue (.vfma hd ha hb))

/-- vmax (R146). -/
def execVmax (hd ha hb : Nat) (s : State) : Out := .next (s.issue (.vmax hd ha hb))

/-- vmin (R146). -/
def execVmin (hd ha hb : Nat) (s : State) : Out := .next (s.issue (.vmin hd ha hb))

/-- vscl (R146). -/
def execVscl (hd ha rs2 : Nat) (s : State) : Out := .next (s.issue (.vscl hd ha rs2))

/-- vaxpy (R146). -/
def execVaxpy (hd ha hb : Nat) (s : State) : Out := .next (s.issue (.vaxpy hd ha hb))

/-- vfill (R146). -/
def execVfill (hd rs1 : Nat) (s : State) : Out := .next (s.issue (.vfill hd rs1))

/-- vcopy (R146). -/
def execVcopy (hd ha : Nat) (s : State) : Out := .next (s.issue (.vcopy hd ha))

/-- vexp2 (R146). -/
def execVexp2 (hd ha : Nat) (s : State) : Out := .next (s.issue (.vexp2 hd ha))

/-- vrcp (R146). -/
def execVrcp (hd ha : Nat) (s : State) : Out := .next (s.issue (.vrcp hd ha))

/-- vrsq (R146). -/
def execVrsq (hd ha : Nat) (s : State) : Out := .next (s.issue (.vrsq hd ha))

/-- vcmplt (R149). -/
def execVcmplt (rs ha hb : Nat) (s : State) : Out := .next (s.issue (.vcmplt rs ha hb))

/-- vcmpeq (R149). -/
def execVcmpeq (rs ha hb : Nat) (s : State) : Out := .next (s.issue (.vcmpeq rs ha hb))

/-- vsel (R146). -/
def execVsel (hd ha hb : Nat) (s : State) : Out := .next (s.issue (.vsel hd ha hb))

/-- vreds (R147). -/
def execVreds (hd ha : Nat) (s : State) : Out := .next (s.issue (.vreds hd ha))

/-- vredm (R147). -/
def execVredm (hd ha : Nat) (s : State) : Out := .next (s.issue (.vredm hd ha))

/-- vargm (R147). -/
def execVargm (hd ha : Nat) (s : State) : Out := .next (s.issue (.vargm hd ha))

/-- verrs (R148). -/
def execVerrs (hd ha hb : Nat) (s : State) : Out := .next (s.issue (.verrs hd ha hb))

/-- vtrn (R150). -/
def execVtrn (hd ha : Nat) (s : State) : Out := .next (s.issue (.vtrn hd ha))

/-- vcvt (R150). -/
def execVcvt (hd ha : Nat) (s : State) : Out := .next (s.issue (.vcvt hd ha))

end Sys2Proof.Machine
end

