-- ==== Sys2Proof/Machine/Convert.lean ====
section
/-!
DEFINITION. What a conversion command computes when it starts (R151 to R155, R200), and the instructions of the conversion
engine.
-/
namespace Sys2Proof.Machine

/-- The first `n` elements that a handle's blocks hold, packed one after the other from block 0 (R16, R151). -/
def State.elements (s : State) (c : CellId) (h : BitVec 256) (n : Nat) : List Nat :=
  ((spadTiles h).flatMap fun i => blockElems (hFmt h) (s.getTile c i).data).take n

/-- The blocks of a handle that hold these elements; bytes past them are zero. -/
def packBlocks (h : BitVec 256) (l : List Nat) (side : BitVec 512) : List (Nat × Option (BitVec 32768 × BitVec 512)) :=
  (chunks (fmtElems (hFmt h)) (hCount h) l).mapIdx fun i x =>
    (spadTile h i, some (blockOf ((fmtBits (hFmt h)).getD 8) x, side))

/-- Every destination poisoned. -/
def allPoison (k : Cmd) : EngineResult := ⟨k.writes.map fun i => (i, none), [], [], 0⟩

/-- The value of an MX element with its scale (R152, R153): a scale of 0xFF makes it NaN. -/
def mxValue (f b scale : Nat) : Fp := if scale = 0xFF then .nan else (mxDecode f b).scale ((scale : Int) - 127)

/-- The values of MX elements, one scale for each 32. -/
def mxValues (f : Nat) (es scales : List Nat) : List Fp := es.mapIdx fun i b => mxValue f b (scales.getD (i / 32) 0)

/-- The values of `n` elements of hs, with the scales of hs2 for an MX format. -/
def State.inputs (s : State) (c : CellId) (k : Cmd) (n : Nat) : List Fp :=
  let f := hFmt k.ha
  let es := s.elements c k.ha n
  if isMx f then mxValues f es (s.elements c k.hb (n / 32)) else es.map (fpOf f).decode

/-- A 16-bit AI10 container (R199). -/
def ai10Word (q : Int) : Nat := (BitVec.ofInt 16 q).toNat

/-- Output block t of `cvala` or `cvalb` (R152): a row-major or a K-major tile, one line of 64 elements after another, where a missing
element is 0 (R131). -/
def alignBlock (byRows : Bool) (t : Nat) (lines : List (List Int)) : List Nat :=
  let part := lines.map fun l => (l.drop (64 * t)).take 64
  if byRows then part.flatMap fun l => l.map ai10Word
  else part.flatMap fun l => (List.range 64).map fun kx => ai10Word (l.getD kx 0)

/-- `cvala` and `cvalb` (R152, R200). -/
def State.startAlign (s : State) (c : CellId) (k : Cmd) (byRows : Bool) : EngineResult :=
  let n := hCount k.hd
  let lines := (chunks (64 * n) 32 (s.inputs c k (2048 * n))).map ai10Line
  let es := lines.map fun l => l.1
  let pad := List.replicate 32 0x7F
  let side : BitVec 512 := BitVec.ofNat 512 (packElems 8 (if byRows then es ++ pad else pad ++ es))
  ⟨(List.range n).map fun t => (spadTile k.hd t, some (blockOf 16 (alignBlock byRows t (lines.map fun l => l.2)), side)), [], [], 0⟩

/-- `cvqmx` (R153). -/
def State.startQuantise (s : State) (c : CellId) (k : Cmd) : EngineResult :=
  let n := allElems k.ha
  let f := hFmt k.hd
  let rs := (chunks 32 (n / 32) ((s.elements c k.ha n).map (fpOf (hFmt k.ha)).decode)).map fun vs =>
    mxBlock f (vs.any fun v => !v.finite) vs
  ⟨packBlocks k.hd (rs.flatMap fun r => r.2.1) side7F ++ packBlocks k.hb (rs.map fun r => r.1) side7F, [], [], 0⟩

/-- `cvdq` (R153). -/
def State.startDequantise (s : State) (c : CellId) (k : Cmd) : EngineResult :=
  ⟨packBlocks k.hd ((s.inputs c k (allElems k.hd)).map ((fpOf (hFmt k.hd)).round 0)) side7F, [], [], 0⟩

/-- One element of `cvi8` (R154). -/
def toInt8 (scale b : Nat) : Nat :=
  match (fp32.decode b).mul (fp32.decode scale) with
  | .nan => 0
  | .inf n => satInt 8 (if n then -1000 else 1000)
  | .fin n m e => let q : Int := roundInt 0 n m e; satInt 8 (if n then -q else q)

/-- `cvrns`: residues, and the status record (R154). -/
def State.startResidues (s : State) (c : CellId) (k : Cmd) : EngineResult :=
  let vs := (s.elements c k.ha 1024).map (signedOf 32)
  let big := vs.foldl (fun a v => max a v.natAbs) 0
  let range := vs.any fun v => decide (v < -536870400) || decide (536870399 < v)
  let st := min big 536870911 * 2 ^ 32 + if range then 2 ^ 61 else 0
  ⟨[(spadTile k.hd 0, some (blockOf 32 (vs.map fun v => rnWord (rnOf v)), side7F)),
    (spadTile k.hb 0, some (BitVec.ofNat 32768 st, side7F))], [], [], 0⟩

/-- One element of `cvcrt` (R154). -/
def crtWord (w : Nat) : Nat := if rnBad w then 0x80000000 else (BitVec.ofInt 32 (rnValue (rnUnword w))).toNat

/-- `cvcrt` (R154). -/
def State.startCrt (s : State) (c : CellId) (k : Cmd) : EngineResult :=
  ⟨[(spadTile k.hd 0, some (blockOf 32 ((s.elements c k.ha 1024).map crtWord), (s.getTile c (spadTile k.ha 0)).side))], [], [], 0⟩

/-- `cvlay` (R155). Elements move as they are, but for a NaN of an IEEE format, whose payload is never passed on (R204; that this holds of a
reordering too is DEDUCED, log 22). -/
def State.startLayout (s : State) (c : CellId) (k : Cmd) : EngineResult :=
  let n := allElems k.ha
  let r := fld k.xv 0 13
  let rows := chunks (n / r) r ((s.elements c k.ha n).map (cleanNan (hFmt k.ha)))
  let out := (List.range (n / r)).flatMap fun j => rows.map fun l => l.getD j 0
  let side := (s.getTile c (spadTile k.ha 0)).side
  let swapped : BitVec 512 := BitVec.ofNat 512 (side.toNat / 2 ^ 256 + side.toNat % 2 ^ 256 * 2 ^ 256)
  ⟨packBlocks k.hd out swapped, [], [], 0⟩

/-- A conversion command at its start. The blocks of a conversion's operands do not correspond one to one (but for the one
block of `cvrns` and `cvcrt`), so that a POISON source poisons every destination (R151). -/
def State.startConvert (s : State) (c : CellId) (k : Cmd) : EngineResult :=
  if k.reads.any (s.isPoison c) then allPoison k
  else match k.instr with
    | .cvala .. => s.startAlign c k true
    | .cvalb .. => s.startAlign c k false
    | .cvqmx .. => s.startQuantise c k
    | .cvdq .. => s.startDequantise c k
    | .cvi8 .. => ⟨packBlocks k.hd ((s.elements c k.ha (allElems k.ha)).map (toInt8 k.csr.scale)) side7F, [], [], 0⟩
    | .cvrns .. => s.startResidues c k
    | .cvcrt .. => s.startCrt c k
    | _ => s.startLayout c k

/-! ### The instructions -/

/-- cvala (R152). -/
def execCvala (hd hs hs2 : Nat) (s : State) : Out := .next (s.issue (.cvala hd hs hs2))

/-- cvalb (R152). -/
def execCvalb (hd hs hs2 : Nat) (s : State) : Out := .next (s.issue (.cvalb hd hs hs2))

/-- cvqmx (R153). -/
def execCvqmx (hd hs hs2 : Nat) (s : State) : Out := .next (s.issue (.cvqmx hd hs hs2))

/-- cvdq (R153). -/
def execCvdq (hd hs hs2 : Nat) (s : State) : Out := .next (s.issue (.cvdq hd hs hs2))

/-- cvi8 (R154). -/
def execCvi8 (hd hs : Nat) (s : State) : Out := .next (s.issue (.cvi8 hd hs))

/-- cvrns (R154). -/
def execCvrns (hd hs hs2 : Nat) (s : State) : Out := .next (s.issue (.cvrns hd hs hs2))

/-- cvcrt (R154). -/
def execCvcrt (hd hs : Nat) (s : State) : Out := .next (s.issue (.cvcrt hd hs))

/-- cvlay (R155). -/
def execCvlay (hd hs rs2 : Nat) (s : State) : Out := .next (s.issue (.cvlay hd hs rs2))

end Sys2Proof.Machine
end

