-- ==== Sys2Proof/Machine/Flags.lean ====
section
/-!
DEFINITION. The cell's flags (R18, R74 to R76), the conditions of a hand-off (R71), names of target cells (R74), and the
instructions on flags.
-/
namespace Sys2Proof.Machine

namespace State

/-! ### The flag array (R18, R75) -/

/-- The value of a local flag. -/
def flag (s : State) (n : Nat) : Bool := s.ctx.flags.getLsbD n

/-- A flag array with flag `n` set or cleared. -/
def flagsWith (f : BitVec 1024) (n : Nat) (v : Bool) : BitVec 1024 :=
  if v then f ||| (1#1024 <<< n) else f &&& ~~~(1#1024 <<< n)

/-- Clear a flag of a partition at a cell. -/
def clearFlag (s : State) (c : CellId) (part n : Nat) : State :=
  s.updCtxFor c part fun x => { x with flags := flagsWith x.flags n false }

/-- Set a flag of a partition at a cell (R75): every `fwait` waiter completes; the first `fwclr` waiter completes and clears
the flag in the same step. -/
def setFlag (s : State) (c : CellId) (part n : Nat) : State :=
  match s.ctxFor c part with
  | none => s
  | some x =>
    let ws := x.flagWaiters.filter fun w => w.1 == n
    let clr := ws.find? fun w => w.2.2
    let done := (ws.filter fun w => !w.2.2) ++ clr.toList
    let s1 := s.updCtxFor c part fun x => { x with
      flags := flagsWith x.flags n clr.isNone
      flagWaiters := x.flagWaiters.filter fun w => !done.contains w }
    done.foldl (fun t w => t.answer (c.hart w.2.1) part .done) s1

/-- Write a flag. -/
def putFlag (s : State) (c : CellId) (part n : Nat) (v : Bool) : State :=
  if v then s.setFlag c part n else s.clearFlag c part n

/-! ### Hand-off (R71) -/

/-- Every earlier base access of the hart has performed, and every earlier engine instruction has entered its queue. -/
def handOffReady (s : State) : Bool := !s.basePending s.who && !s.hasBuffered s.who

/-- A hand-off operation performs once it is ready. -/
def handOff (s : State) (k : State → State) : State := if s.handOffReady then k s else s.await .retry false

/-- A flag read performs after the flag writes of the hart's earlier compare commands (R75). -/
def flagRead (s : State) (k : State → State) : State := if s.flagsPending s.who then s.await .retry false else k s

/-! ### Target cells (R74) -/

/-- The cell that bits [17:0] of a word name; none for a cell field of 144 to 255. -/
def targetCell (w : Word) : Option CellId :=
  if fld w 0 8 < 144 then some ⟨fld w 12 6, fld w 8 4, fld w 0 8⟩ else none

/-- The target of a remote operation: a cell of the hart's gang (R74). -/
def gangTarget (s : State) (w : Word) : Option CellId :=
  match targetCell w, s.gangOf s.myCell with
  | some c, some g => if g.cells.contains c then some c else none
  | _, _ => none

/-- An open branch of a hart that waits for a flag is told that another hart has handed work over by it. -/
def Spec.told (n : Nat) (sp : Spec) : Spec := if sp.flag = some n then { sp with handed := true } else sp

/-- Another hart of the cell hands work over by a flag: the loads that a hart has made past a branch on it, which has not resolved, may have
performed too early, so that the branch does not observe the flag but is taken again (R71). -/
def handedOver (s : State) (n : Nat) : State :=
  { s with harts := s.harts.map fun p =>
      if p.1.cellId = s.myCell ∧ p.1 ≠ s.cur ∧ p.2.spec.isSome then
        (p.1, { p.2 with spec := p.2.spec.map (Spec.told n), younger := p.2.younger.map (Spec.told n) })
      else p }

/-- `fset` or `fclr` (R74). A local one performs at once, also while an earlier remote one of the hart to its own cell is under way: R74 orders
remote operations among themselves only (DESIGN CHOICE, log 35). -/
def flagOp (s : State) (n rs1 : Nat) (v : Bool) : State :=
  if rs1 = 0 then s.handOff fun t => ((t.putFlag t.myCell t.ctx.part n v).retire).handedOver n
  else match s.gangTarget (s.xr rs1) with
    | none => s.trap 38 (s.xr rs1)
    | some c => ((s.newOp (.flag s.who s.ctx.part c n v)).send s.cur.pkg c.pkg 3 (.remoteFlagOp s.nextId)).retire

/-- Park on a flag, at the end of its waiters. -/
def parkOnFlag (s : State) (n : Nat) (clears : Bool) : State :=
  (s.updMyCtx fun x => { x with flagWaiters := x.flagWaiters ++ [(n, s.who.hart, clears)] }).await (.flag n) true

/-! ### Branches on flags (R76, R156) -/

/-- A hart goes on along the predicted path of one more branch. -/
def Hart.opened (h : Hart) (sp : Spec) : Hart :=
  match h.spec with
  | none => { h with spec := some sp }
  | some _ => { h with younger := h.younger ++ [sp] }

/-- Open a predicted path for the branch at the pc: the direction that was not taken, and the registers as they stand. -/
def predict (s : State) (flag : Option Nat) (expect : Bool) (takenPc other : Word) : State :=
  ((s.retireTo takenPc).updMe fun h => Hart.opened h
    { branchPc := s.me.pc, flag := flag, expect := expect, handed := false, otherPc := other, savedX := s.me.x, savedMinstret := h.csr.minstret }).pushOnce
      (.commitBufferCommit s.who)

/-- `bfs` or `bfc`: branch when the flag has the value `on`. While the flag read waits the hart goes on along a predicted path, on which
further branches may be predicted (R156). -/
def branchFlag (s : State) (n : Nat) (off : Nat) (on : Bool) : State :=
  let t := s.targetQF off
  let next := s.me.pc + 4
  if s.flagsPending s.who then
    if s.me.loop.isNone && t.toNat % 4 == 0 then
      if Config.predictTaken s.tick then s.predict (some n) on t next else s.predict (some n) (!on) next t
    else s.await .retry false
  else if s.flag n = on then (if t.toNat % 4 = 0 then s.retireTo t else s.trap 0 t) else s.retire

end State

/-! ### The instructions -/

/-- fset (R74). -/
def execFset (n rs1 : Nat) (s : State) : Out := .next (s.flagOp n rs1 true)

/-- fclr (R74). -/
def execFclr (n rs1 : Nat) (s : State) : Out := .next (s.flagOp n rs1 false)

/-- ftst (R75). -/
def execFtst (rd n : Nat) (s : State) : Out := .next (s.flagRead fun t => t.finish rd (bit01 (t.flag n)))

/-- fwait (R75). -/
def execFwait (n : Nat) (s : State) : Out :=
  .next (if s.me.answer = some .done then s.retire
    else s.flagRead fun t => if t.flag n then t.retire else t.parkOnFlag n false)

/-- fwclr (R75). -/
def execFwclr (n : Nat) (s : State) : Out :=
  .next (if s.me.answer = some .done then s.retire
    else s.flagRead fun t => if t.flag n then (t.clearFlag t.myCell t.ctx.part n).retire else t.parkOnFlag n true)

/-- bfs (R76). -/
def execBfs (n off : Nat) (s : State) : Out := .next (s.branchFlag n off true)

/-- bfc (R76). -/
def execBfc (n off : Nat) (s : State) : Out := .next (s.branchFlag n off false)

end Sys2Proof.Machine
end

