-- ==== Sys2Proof/Machine/Sync.lean ====
section
/-!
DEFINITION. Barriers, semaphores and mutexes (R77 to R80), the wait lists of a cell (R70), and what the end of a hart leaves behind (R85, R86).
-/
namespace Sys2Proof.Machine

namespace State

/-! ### Barriers (R77, R78) -/

/-- The members of a barrier of a gang: the harts of its mask in every cell of its group. -/
def barMembers (g : Gang) (grp mask : Nat) : List HartId :=
  (groupCells g grp).flatMap fun c => ((List.range 24).filter fun n => bitsOf mask n 1 = 1).map c.hart

/-- The group and the mask that a gang binds a barrier to. -/
def barBinding (g : Gang) (b : Nat) : Option (Nat × Nat) := lookup b g.lpb.barriers

/-- The phase that barrier b of a gang is in, and the arrivals in it. -/
def barPhase (g : Gang) (b : Nat) : Nat × List HartId := (lookup b g.bars).getD (0, [])

/-- The barrier as the current hart may use it: its gang's number, the gang and the group (R77); none where the use is
illegal. A service context is no hart of the mask. -/
def barFor (s : State) (b : Nat) : Option (Nat × Gang × Nat) :=
  match s.ctx.gang, s.gangOf s.myCell with
  | some i, some g =>
    match barBinding g b with
    | some (grp, mask) =>
      if s.me.service then none
      else if bitsOf mask s.cur.hart 1 = 1 ∧ (groupCells g grp).contains s.myCell then some (i, g, grp) else none
    | none => none
  | _, _ => none

/-- The pending arrival of a hart at a barrier is of a completed phase. -/
def barDone (g : Gang) (h : Hart) (b : Nat) : Bool := (lookup b h.bars).any fun p => decide (p < (barPhase g b).1)

/-- A hart waits for one of the barriers whose phase has completed. -/
def barWoken (g : Gang) (h : Hart) : Bool :=
  match h.wait with
  | some ⟨.barrier b, _⟩ => barDone g h b
  | some ⟨.anyBarrier bs, _⟩ => bs.any (barDone g h)
  | _ => false

/-- The waits that a completed phase ends. -/
def barWake (s : State) (i : Nat) (ms : List HartId) : State :=
  match lookup i s.gangs with
  | none => s
  | some g => ms.foldl (fun t h => if barWoken g (t.getWho h g.part) then t.answer h g.part .done else t) s

/-- Every member has arrived, or is a permanent arrival: the phase completes (R77). -/
def barSettle (s : State) (i b : Nat) : State :=
  match lookup i s.gangs with
  | none => s
  | some g =>
    match barBinding g b with
    | none => s
    | some (grp, mask) =>
      let p := barPhase g b
      let ms := barMembers g grp mask
      if p.2.isEmpty || !(ms.all fun m => p.2.contains m || g.gone.contains m) then s
      else ({ s with gangs := store i { g with bars := store b (p.1 + 1, []) g.bars } s.gangs }).barWake i ms

/-- The pending bit of a barrier is cleared, and with it that an abandoned `barvw` has still to resume its wait there. -/
def consumed (h : Hart) (b : Nat) : Hart := { h with bars := erase b h.bars, resumed := h.resumed.filter fun n => n != b }

/-- An arrival of the current hart (R77): none when it has already arrived in the current phase. -/
def arrive (s : State) (i b : Nat) : State :=
  match lookup i s.gangs with
  | none => s
  | some g =>
    let p := barPhase g b
    let h : HartId := s.cur
    if p.2.contains h then s
    else
      let s1 := { s with gangs := store i { g with bars := store b (p.1, p.2 ++ [h]) g.bars } s.gangs }
      (s1.updMe fun v => { consumed v b with bars := store b p.1 v.bars }).barSettle i b

/-- A hart that halts arrives permanently in every barrier whose mask holds it (R77, R85). -/
def goneFromBarriers (s : State) (i : Nat) (h : HartId) : State :=
  match lookup i s.gangs with
  | none => s
  | some g =>
    let s1 := { s with gangs := store i { g with gone := g.gone ++ [h] } s.gangs }
    g.lpb.barriers.foldl (fun t b => t.barSettle i b.1) s1

/-- The wait of a hart at a barrier whose pending bit is set, and what follows it. -/
def barWait (s : State) (g : Gang) (b : Nat) : State :=
  if barDone g s.me b then ((s.acquire 1).updMe fun h => consumed h b).retire
  else s.await (.barrier b) true

/-- `barv` and `barvw` up to the arrival, then `k`. -/
def barArrive (s : State) (b i grp : Nat) (k : State → State) : State := s.release 1 grp fun t => k (t.arrive i b)

/-- `barw` (R77). -/
def barW (s : State) (b : Nat) (g : Gang) : State :=
  if (lookup b s.me.bars).isNone then s.retire else s.barWait g b

/-- The wait of `barvw`, on the gang as the arrival leaves it. -/
def barVw (s : State) (b : Nat) : State :=
  match s.gangOf s.myCell with
  | some g => (s.note .arrived).barWait g b
  | none => s.retire

/-! ### Semaphores (R79) -/

/-- A semaphore of the current cell. -/
def getSem (s : State) (n : Nat) : Sem := (lookup n s.ctx.sems).getD ⟨0, [], []⟩

/-- Replace a semaphore of the current cell. -/
def setSem (s : State) (n : Nat) (v : Sem) : State := s.updMyCtx fun x => { x with sems := store n v x.sems }

/-- A parked hart of the current cell completes. -/
def handTo (s : State) (h : Nat) (a : Answer) : State := s.answer (s.myCell.hart h) s.ctx.part a

/-- Take one from a count above 0; a parked `semv` then completes. -/
def semTake (s : State) (n : Nat) : State :=
  let v := s.getSem n
  match v.givers with
  | g :: gs => (s.setSem n { v with givers := gs }).handTo g .done
  | [] => s.setSem n { v with count := v.count - 1 }

/-- Give one; the first parked `semp` completes in its place. -/
def semGive (s : State) (n : Nat) : State :=
  let v := s.getSem n
  match v.takers with
  | t :: ts => (s.setSem n { v with takers := ts }).handTo t .done
  | [] => s.setSem n { v with count := v.count + 1 }

/-! ### Mutexes (R80) -/

/-- A mutex of a partition at a cell. -/
def getMutex (s : State) (c : CellId) (part n : Nat) : Mutex :=
  ((s.ctxFor c part).bind fun x => lookup n x.mutexes).getD ⟨none, []⟩

/-- Replace a mutex of a partition at a cell. -/
def setMutex (s : State) (c : CellId) (part n : Nat) (v : Mutex) : State :=
  s.updCtxFor c part fun x => { x with mutexes := store n v x.mutexes }

/-- Free a mutex, or pass it to the first waiter. -/
def freeMutex (s : State) (c : CellId) (part n : Nat) : State :=
  match (s.getMutex c part n).waiters with
  | w :: ws => (s.setMutex c part n ⟨some w, ws⟩).answer (c.hart w) part .done
  | [] => s.setMutex c part n ⟨none, []⟩

/-- A mutex of the current cell. -/
def myMutex (s : State) (n : Nat) : Mutex := s.getMutex s.myCell s.ctx.part n

/-- The current hart takes a free mutex. -/
def takeMutex (s : State) (n : Nat) : State :=
  s.setMutex s.myCell s.ctx.part n { s.myMutex n with holder := some s.who.hart }

/-! ### Leaving the wait lists (R70) -/

/-- A hart that is abandoned leaves every wait list of its cell. -/
def leaveLists (x : CellCtx) (h : Nat) : CellCtx := { x with
  flagWaiters := x.flagWaiters.filter fun w => w.2.1 != h
  sems := x.sems.map fun p => (p.1, { p.2 with takers := p.2.takers.filter fun n => n != h
                                               givers := p.2.givers.filter fun n => n != h })
  mutexes := x.mutexes.map fun p => (p.1, { p.2 with waiters := p.2.waiters.filter fun n => n != h })
  queues := x.queues.map fun p => (p.1, { p.2 with pushers := p.2.pushers.filter fun n => n.1 != h
                                                   poppers := p.2.poppers.filter fun n => n != h }) }

/-! ### The end of a hart (R85, R86) -/

/-- The stores, posts and atomics of a context have all performed. -/
def storesDone (s : State) (h : HartId) (part : Nat) : Bool :=
  let v := s.getWho h part
  v.postDie == 0 && v.postPkg == 0 && v.postSys == 0 && !s.basePending h && (s.rowsLeft h part).isEmpty

/-- A copy channel still runs a chain of the hart, be it one that is suspended in the berth (R86, R284). -/
def copiesOut (s : State) (h : HartId) (part : Nat) : Bool :=
  (s.ctxFor h.cellId part).any fun x => x.chans.any fun p => p.2.busy && decide (p.2.owner = some h)

/-- The mutexes a context holds are freed, in number order. -/
def freeMutexes (s : State) (h : HartId) (part : Nat) : State :=
  (List.range 8).foldl (fun t n =>
    if (t.getMutex h.cellId part n).holder = some h.hart then t.freeMutex h.cellId part n else t) s

/-- The gang's side of the end of a hart: mutexes, then permanent arrivals. -/
def leaveGang (s : State) (h : HartId) (part : Nat) : State :=
  let s1 := s.freeMutexes h part
  match (s.ctxFor h.cellId part).bind fun x => x.gang with
  | some i => s1.goneFromBarriers i h
  | none => s1

/-- The retirement tracker has seen all of an ended hart's operations (R86). -/
def settleTracked (s : State) (h : HartId) (part : Nat) : State :=
  if (s.getWho h part).status = .tracked ∧ s.storesDone h part ∧ !s.copiesOut h part then
    (s.leaveGang h part).updWho h part fun v => { v with status := .halted }
  else s

end State

/-! ### The instructions -/

/-- barv (R77). -/
def execBarv (b : Nat) (s : State) : Out :=
  .next (match s.barFor b with
    | none => s.illegal (.barv b)
    | some (i, _, grp) => s.barArrive b i grp fun t => t.retire)

/-- barw (R77). -/
def execBarw (b : Nat) (s : State) : Out :=
  .next (match s.barFor b with
    | none => s.illegal (.barw b)
    | some (_, g, _) => s.barW b g)

/-- barvw (R77): once the arrival is made, re-execution resumes the wait. After an interrupt has abandoned the wait, the hart's next `barvw` of the
barrier is its re-execution, at whichever address it stands, while the arrival it made is pending (DESIGN CHOICE, log 35: the manual does
not say how a re-execution is known). -/
def execBarvw (b : Nat) (s : State) : Out :=
  .next (match s.barFor b with
    | none => s.illegal (.barvw b)
    | some (i, _, grp) =>
      if s.me.op = some .arrived then s.barVw b
      else if s.me.resumed.contains b && (lookup b s.me.bars).isSome then
        (s.updMe fun h => { h with resumed := h.resumed.filter fun n => n != b }).barVw b
      else s.barArrive b i grp fun t => t.barVw b)

/-- barany (R78). -/
def execBarany (rd rs1 mask : Nat) (s : State) : Out :=
  let sel := (List.range 8).filter fun i => bitsOf mask i 1 = 1
  let num := fun i : Nat => (s.xr rs1).toNat + i
  .next (if sel.any fun i => decide (47 < num i) || (s.barFor (num i)).isNone then s.illegal (.barany rd rs1 mask)
    else
      let cand := sel.filter fun i => (lookup (num i) s.me.bars).isSome
      if cand.isEmpty then s.finish rd (-1)
      else match s.gangOf s.myCell with
        | none => s.finish rd (-1)
        | some g =>
          let order := (List.range 8).map fun d => (s.me.baranyPtr + d) % 8
          match order.find? fun i => cand.contains i && State.barDone g s.me (num i) with
          | none => s.await (.anyBarrier (cand.map num)) true
          | some i => ((s.acquire 1).updMe fun h => { State.consumed h (num i) with baranyPtr := (i + 1) % 8 }).finish rd
              (BitVec.ofNat 64 (num i)))

/-- semp (R79). -/
def execSemp (sem : Nat) (s : State) : Out :=
  .next (if s.me.answer = some .done then s.retire
    else
      let v := s.getSem sem
      if 0 < v.count then (s.semTake sem).retire
      else (s.setSem sem { v with takers := v.takers ++ [s.who.hart] }).await .answer true)

/-- semv (R79), a hand-off (R71). -/
def execSemv (sem : Nat) (s : State) : Out :=
  .next (if s.me.answer = some .done then s.retire
    else s.handOff fun t =>
      let v := t.getSem sem
      if v.takers.isEmpty && v.count == 65535 then (t.setSem sem { v with givers := v.givers ++ [t.who.hart] }).await .answer true
      else (t.semGive sem).retire)

/-- semtry (R79). -/
def execSemtry (rd sem : Nat) (s : State) : Out :=
  .next (if 0 < (s.getSem sem).count then (s.semTake sem).finish rd 1 else s.finish rd 0)

/-- mtxl (R80). -/
def execMtxl (mtx : Nat) (s : State) : Out :=
  .next (if s.me.answer = some .done then s.retire
    else
      let m := s.myMutex mtx
      if m.holder = some s.who.hart then s.illegal (.mtxl mtx)
      else if m.holder.isNone then (s.takeMutex mtx).retire
      else (s.setMutex s.myCell s.ctx.part mtx { m with waiters := m.waiters ++ [s.who.hart] }).await .answer true)

/-- mtxu (R80), a hand-off (R71). -/
def execMtxu (mtx : Nat) (s : State) : Out :=
  .next (if (s.myMutex mtx).holder ≠ some s.who.hart then s.illegal (.mtxu mtx)
    else s.handOff fun t => (t.freeMutex t.myCell t.ctx.part mtx).retire)

/-- mtxtry (R80). -/
def execMtxtry (rd mtx : Nat) (s : State) : Out :=
  .next (if (s.myMutex mtx).holder.isNone then (s.takeMutex mtx).finish rd 1 else s.finish rd 0)

end Sys2Proof.Machine
end

