-- ==== Sys2Proof/Machine/Fetch.lean ====
section
/-!
DEFINITION. Fetching an instruction word (R44, R66, R268, R271, R275), and the field rewriting of a hardware loop (R72).
-/
namespace Sys2Proof.Machine

namespace State

/-- The value of a word as its home serves a load miss from die `d` (R214, R219); none when the word is LOST. -/
def homeValue (s : State) (d : DieId) (kind w : Nat) : Option Word :=
  if kind = kTracked then s.pte w
  else if s.isBad w then none
  else if kind = kReplicated then some (s.replicaWord d w)
  else some (s.mem.word w)

/-- What a fetch comes to. -/
inductive Fetched where
  | word (w : Nat) (s : State)
  | fault (cause : Nat) (s : State)
  | wait (s : State)

/-- A 32-bit half of an aligned word. -/
def halfOf (w : Word) (qa : Nat) : Nat := bitsOf w.toNat (8 * (qa % 8)) 32

/-- An uncorrectable error is found in a word of the instruction store: the word is dropped and logged (R275). -/
def dropInsn (s : State) (qa addr synd : Nat) : State :=
  let s1 := s.logCell s.myCell true 1 addr synd s.ctx.part s.cur.hart
  s1.updCell s.myCell fun c => { c with
    istore := c.istore.filter fun e => e.1 != qa, istoreBad := c.istoreBad.filter fun e => e.1 != qa }

/-- The instruction word at a translated address: from the instruction store, or from word space, which fills the store
(64 KiB, R66). -/
def fetchAt (s : State) (e : TlbEntry) (qa : Nat) : Fetched :=
  if physFault e qa || e.kind = kBlock then .fault 1 s
  else match lookup qa (s.getCell s.myCell).istore with
    | some w => match lookup qa (s.getCell s.myCell).istoreBad with
      | some b => .fault 1 (s.dropInsn qa b.1 b.2)
      | none => .word w s
    | none =>
      match s.homeValue s.cur.dieId (s.kindAt e qa) (wordOf qa) with
      | none => .fault 1 s
      | some v =>
        let w := halfOf v qa
        .word w (s.updCell s.myCell fun c => { c with istore := ((qa, w) :: c.istore).take 16384 })

/-- The fetch at the hart's pc. -/
def fetch (s : State) : Fetched :=
  let va := s.me.pc
  if inWindow va then .fault 1 s
  else match s.translate s.cur.pkg va with
    | .fault => .fault 12 s
    | .wait s' => .wait s'
    | .ok e s' => if leafAllows .fetch s.me.mode e then s'.fetchAt e (e.phys va.toNat) else .fault 12 s

/-- The word a fetch in a mode would read, raising nothing (R73); none when it meets a fault. -/
def peekInsn (s : State) (mode : Mode) (va : Word) : Option Nat :=
  if inWindow va then none
  else match s.translateFor s.cur.dieId s.ctx.part s.cur.pkg va with
    | none => none
    | some e =>
      if !leafAllows .fetch mode e then none
      else match s.fetchAt e (e.phys va.toNat) with
        | .word w _ => some w
        | _ => none

end State

/-! ### Words in a loop body (R72) -/

/-- The major opcode of a word. -/
def opcOf (w : Nat) : Nat := bitsOf w 0 7

/-- Bits [11:7] name a register as rd: the R, I, U, J, Q, QI and QM formats. That a loop goes by the format, also where an instruction's entry
reserves the field or holds an immediate in it, is a DESIGN CHOICE, log 35; so for the two fields below. -/
def hasRd (w : Nat) : Bool :=
  let o := opcOf w
  !(o == 0x23 || o == 0x63 || (o == 0x5B && (bitsOf w 12 3 == 2 || bitsOf w 12 3 == 3)))

/-- Bits [19:15] are an rs1 field: every format but U, J and QF. -/
def hasRs1 (w : Nat) : Bool :=
  let o := opcOf w
  !(o == 0x37 || o == 0x17 || o == 0x6F || (o == 0x5B && (bitsOf w 12 3 == 2 || bitsOf w 12 3 == 3)))

/-- Bits [24:20] are an rs2 field: the R, S, B and Q formats. -/
def hasRs2 (w : Nat) : Bool :=
  let f := bitsOf w 12 3
  match opcOf w with
  | 0x33 => true
  | 0x3B => true
  | 0x2F => true
  | 0x23 => true
  | 0x63 => true
  | 0x0B => f == 0 || f == 1 || f == 6
  | 0x2B => true
  | 0x5B => decide (5 ≤ f)
  | 0x7B => f == 1 || f == 2
  | _ => false

/-- The position of the field that names an accumulator tile, for the instructions that have one (R126): mma, mmaz, mmav,
mmavz, mmrg and aclr in [11:7], mdrn and astat in [19:15]. -/
def accPos (w : Nat) : List Nat :=
  if opcOf w = 0x2B ∧ bitsOf w 12 3 = 0 then
    match bitsOf w 25 7 with
    | 0 => [7]
    | 1 => [7]
    | 2 => [7]
    | 3 => [7]
    | 4 => [15]
    | 5 => [7]
    | 6 => [7]
    | 7 => [15]
    | _ => []
  else []

/-- The field at bit `pos` replaced by its value moved on by `ofs`, modulo 16, the top bit kept. -/
def rewriteField (ofs pos w : Nat) : Nat :=
  let v := bitsOf w pos 5
  w - v * 2 ^ pos + (v / 16 * 16 + (v % 16 + ofs) % 16) * 2 ^ pos

/-- The word as a pass of a loop executes it. -/
def loopWord (l : Loop) (w : Nat) : Nat :=
  let acc := if bitsOf l.mask 3 1 = 1 then accPos w else []
  let at7 := (bitsOf l.mask 0 1 = 1 ∧ hasRd w) ∨ acc.contains 7
  let at15 := (bitsOf l.mask 1 1 = 1 ∧ hasRs1 w) ∨ acc.contains 15
  let w1 := if at7 then rewriteField l.ofs 7 w else w
  let w2 := if at15 then rewriteField l.ofs 15 w1 else w1
  if bitsOf l.mask 2 1 = 1 ∧ hasRs2 w then rewriteField l.ofs 20 w2 else w2

/-- The hart stands at the body instruction that its loop takes next. -/
def Hart.inBody (h : Hart) : Option Loop :=
  match h.loop with
  | some l => if h.pc = l.start + BitVec.ofNat 64 (4 * l.idx) then some l else none
  | none => none

/-- An instruction that may not stand in a loop body (R72). -/
def Instr.notInBody : Instr → Bool
  | .beq .. => true
  | .bne .. => true
  | .blt .. => true
  | .bge .. => true
  | .bltu .. => true
  | .bgeu .. => true
  | .jal .. => true
  | .jalr .. => true
  | .bfs .. => true
  | .bfc .. => true
  | .rep .. => true
  | .ecall => true
  | .ebreak => true
  | .mret => true
  | .wfi => true
  | .fenceI .. => true
  | .halt .. => true
  | .tail => true
  | _ => false

end Sys2Proof.Machine
end

