-- ==== Sys2Proof/Machine/System.lean ====
section
/-!
DEFINITION. CSRs, environment calls, returns from traps, waits for interrupts, fences, and the machine-mode instructions on
translations and error logs (R11, R12, R57, R61 to R66, R73, R90, R92, R93, R286).
-/
namespace Sys2Proof.Machine

/-! ### CSRs (R11, R12) -/

/-- Every CSR number that is implemented, with whether it is a machine CSR and whether it is read-only. -/
def csrTable : List (Nat × Bool × Bool) :=
  [(0x300, true, false), (0x301, true, false), (0x304, true, false), (0x305, true, false), (0x306, true, false),
   (0x340, true, false), (0x341, true, false), (0x342, true, false), (0x343, true, false), (0x344, true, true),
   (0xB00, true, false), (0xB02, true, false), (0xC00, false, true), (0xC02, false, true),
   (0xF11, true, true), (0xF12, true, true), (0xF13, true, true), (0xF14, true, true)] ++
  [(0x800, false, false), (0x801, false, false), (0x802, false, false), (0x803, false, false), (0x804, false, false),
   (0x805, false, false), (0x806, false, false), (0x807, false, false), (0x808, false, false), (0x809, false, false),
   (0x80A, false, false), (0x80B, false, false), (0x80C, false, false), (0x80D, false, false), (0x80E, false, false),
   (0x80F, false, false)] ++
  [(0xCC0, false, true), (0xCC1, false, true), (0xCC2, false, true), (0xCC3, false, true), (0xCC4, false, true),
   (0xCC5, false, true), (0xCC6, false, true), (0xCC7, false, true), (0xCC8, false, true), (0xCC9, false, true),
   (0x7C0, true, false), (0x7C1, true, true), (0x7C2, true, true), (0x7C3, true, false), (0x7C4, true, true)]

/-- The global hart id (R8). -/
def hartNumber (h : HartId) : Nat := h.pkg * 2 ^ 17 + h.die * 2 ^ 13 + h.cell * 2 ^ 5 + h.hart

/-- A record header is not a pad (R82). -/
def MsgRing.firstRecord (r : MsgRing) : Option Word :=
  if r.used = 0 then none
  else
    let w := (lookup r.head r.ring).getD 0
    if wbit w 5 then
      if r.used ≤ fld w 0 5 + 1 then none else some ((lookup 0 r.ring).getD 0)
    else some w

namespace State

/-- mip: the held bits, bit 16 while the ring of the hart's number holds a record, bit 19 while the cell's log holds an
unread entry (R276). -/
def mipOf (s : State) (h : HartId) : Word :=
  let c := s.getCell h.cellId
  (s.getHart h).csr.mip |||
    (match lookup h.hart c.ctx.rings with
      | some r => if r.firstRecord.isSome then BitVec.ofNat 64 (2 ^ 16) else 0
      | none => 0) |||
    (if c.elog.isEmpty then 0 else BitVec.ofNat 64 (2 ^ 19))

/-- Transfers towards a cell whose data has left its source and not landed: answers of reads of blocks, sent to its harts and to the records
of its channels, and units that a record has read, but for those that leave the cell's own scratch for another place (R286, R287: PEND,
saturating at 255). -/
def inbound (s : State) (c : CellId) : Nat :=
  let answers := s.ops.filter fun o => match o.2 with
    | .block (.read _) (.hart h) _ _ _ _ _ _ _ _ _ (some _) => decide (h.cellId = c)
    | .block (.read _) (.chan c' _) _ _ _ _ _ _ _ _ _ (some _) => decide (c' = c)
    | _ => false
  let leaves := fun b : BitVec 2048 => bitsOf b.toNat 72 2 == 2 && bitsOf b.toNat 74 2 != 2
  let units := (s.getCell c).ctx.chans.filter fun p => p.2.cur.any fun r => r.ready.isSome && !leaves r.bytes
  min 255 (answers.length + units.length)

/-- dbg.ctl as it reads (R286). -/
def dbgRead (s : State) (c : CellId) : Word := setFld (s.getCell c).dbg 24 8 (s.inbound c)

/-- A debug halt is asked for, with its DCAUSE; the first to ask sets the cause (R287). -/
def askHalt (s : State) (c : CellId) (cause : Nat) : State :=
  if wbit (s.getCell c).dbg 17 || (s.getCell c).haltCause != 0 then s
  else (s.updCell c fun x => { x with haltCause := cause }).pushOnce (.debugHaltReached c)

/-- The cell leaves debug halt (R287). -/
def resumeCell (s : State) (c : CellId) : State :=
  s.updCell c fun v => { v with dbg := setFld (setFld v.dbg 17 1 0) 20 3 0, stepping := false }

/-- A write of dbg.ctl: IMM, EBRK and SEL are stored, and HREQ requests a halt; RESUME and STEP act on a cell that is halted, also where a
hart that is being stepped writes them (R286, R287). -/
def dbgStore (s : State) (c : CellId) (v : Word) : State :=
  let halted := wbit (s.getCell c).dbg 17
  let s1 := s.updCell c fun x =>
    let d1 := setFld (setFld x.dbg 1 1 (fld v 1 1)) 3 1 (fld v 3 1)
    { x with dbg := if fld v 8 5 < 24 then setFld d1 8 5 (fld v 8 5) else d1 }
  let s2 := if wbit v 0 then s1.askHalt c 1 else s1
  if halted && wbit v 2 then s2.resumeCell c
  else if halted && wbit v 4 then s2.updCell c fun x => { x with stepping := true }
  else s2

/-- The value of an implemented CSR of a hart. That gang.rank, gang.size, slice.count and mx.capin of a cell that holds no gang read 0 is a
DESIGN CHOICE, log 35. -/
def csrGet (s : State) (h : HartId) (n : Nat) : Word :=
  let v := (s.getHart h).csr
  let c := s.getCell h.cellId
  match n with
  | 0x300 => v.mstatus
  | 0x301 => 0x8000000000101101
  | 0x304 => v.mie
  | 0x305 => v.mtvec
  | 0x306 => v.mcounteren
  | 0x340 => v.mscratch
  | 0x341 => v.mepc
  | 0x342 => v.mcause
  | 0x343 => v.mtval
  | 0x344 => s.mipOf h
  | 0xB00 => v.mcycle
  | 0xB02 => v.minstret
  | 0xC00 => v.mcycle
  | 0xC02 => v.minstret
  | 0xF11 => 0
  | 0xF12 => 0x1600
  | 0xF13 => 1
  | 0xF14 => BitVec.ofNat 64 (hartNumber h)
  | 0x800 => v.mxFmt
  | 0x801 => v.mxAexp
  | 0x802 => v.mxBexp
  | 0x803 => v.mxDrn
  | 0x804 => v.mxSticky
  | 0x805 => v.mxCapout
  | 0x806 => v.veRm
  | 0x807 => v.veAtol
  | 0x808 => v.veRtol
  | 0x809 => v.msScope
  | 0x80A => v.repState
  | 0x80B => v.cvScale
  | 0x80C => v.veS
  | 0x80D => v.veC
  | 0x80E => v.veFbase
  | 0x80F => v.efPtr
  | 0xCC0 => BitVec.ofNat 64 h.cell
  | 0xCC1 => BitVec.ofNat 64 h.die
  | 0xCC2 => BitVec.ofNat 64 h.pkg
  | 0xCC3 => BitVec.ofNat 64 (hartNumber h)
  | 0xCC4 => BitVec.ofNat 64 c.ctx.rank
  | 0xCC5 => BitVec.ofNat 64 (match s.gangOf h.cellId with
      | some g => g.cells.length
      | none => 0)
  | 0xCC6 => BitVec.ofNat 64 (s.getHart h).postDie
  | 0xCC7 => BitVec.ofNat 64 (s.getHart h).postPkg
  | 0xCC8 => BitVec.ofNat 64 (s.getHart h).postSys
  | 0xCC9 => BitVec.ofNat 64 (match s.gangOf h.cellId with
      | some g => g.lpb.slices
      | none => 0)
  | 0x7C0 => BitVec.ofNat 64 c.ctx.capin
  | 0x7C1 => BitVec.ofNat 64 c.ctx.part
  | 0x7C2 => BitVec.ofNat 64 c.ctx.spad
  | 0x7C3 => s.dbgRead h.cellId
  | 0x7C4 => BitVec.ofNat 64 (if c.elogCount = 0 then 0 else (c.elogCount - 1) % 16)
  | _ => 0

/-- The low `n` bits of a word: the bits a row implements. -/
def low (n : Nat) (v : Word) : Word := BitVec.ofNat 64 (v.toNat % 2 ^ n)

/-- Change the CSRs of a hart. -/
def updCsr (s : State) (h : HartId) (f : HartCsrs → HartCsrs) : State := s.updHart h fun v => { v with csr := f v.csr }

/-- mstatus as a write stores it: MIE, MPIE and MPP; MPP 01 and 10 are stored as 00 (R11). -/
def mstatusOf (v : Word) : Word :=
  BitVec.ofNat 64 (fld v 3 1 * 8 + fld v 7 1 * 128 + if fld v 11 2 = 3 then 0x1800 else 0)

/-- mtvec as a write stores it: MODE 2 and 3 are stored as 0 (R11). -/
def mtvecOf (v : Word) : Word := if 2 ≤ fld v 0 2 then v &&& ~~~(3 : Word) else v

/-- ms.scope as a write stores it: a SCOPE of 5 to 7 leaves the field unchanged (R12). -/
def msScopeOf (old v : Word) : Word :=
  BitVec.ofNat 64 (fld v 8 8 * 256 + if 5 ≤ fld v 0 3 then fld old 0 3 else fld v 0 3)

/-- Write an implemented CSR of a hart; read-only CSRs do not come here. -/
def csrSet (s : State) (h : HartId) (n : Nat) (v : Word) : State :=
  match n with
  | 0x300 => s.updCsr h fun c => { c with mstatus := mstatusOf v }
  | 0x304 => s.updCsr h fun c => { c with mie := v &&& 0xF0808 }
  | 0x305 => s.updCsr h fun c => { c with mtvec := mtvecOf v }
  | 0x306 => s.updCsr h fun c => { c with mcounteren := v &&& 5 }
  | 0x340 => s.updCsr h fun c => { c with mscratch := v }
  | 0x341 => s.updCsr h fun c => { c with mepc := v &&& ~~~(3 : Word) }
  | 0x342 => s.updCsr h fun c => { c with mcause := v }
  | 0x343 => s.updCsr h fun c => { c with mtval := v }
  | 0xB00 => s.updCsr h fun c => { c with mcycle := v }
  | 0xB02 => s.updCsr h fun c => { c with minstret := v }
  | 0x800 => s.updCsr h fun c => { c with mxFmt := low 18 v }
  | 0x801 => s.updCsr h fun c => { c with mxAexp := low 8 v }
  | 0x802 => s.updCsr h fun c => { c with mxBexp := low 8 v }
  | 0x803 => s.updCsr h fun c => { c with mxDrn := low 9 v }
  | 0x804 => s.updCsr h fun c => { c with mxSticky := low 2 v }
  | 0x805 => s.updCsr h fun c => { c with mxCapout := low 32 v }
  | 0x806 => s.updCsr h fun c => { c with veRm := low 2 v }
  | 0x807 => s.updCsr h fun c => { c with veAtol := low 32 v }
  | 0x808 => s.updCsr h fun c => { c with veRtol := low 32 v }
  | 0x809 => s.updCsr h fun c => { c with msScope := msScopeOf c.msScope v }
  | 0x80A => s.updCsr h fun c => { c with repState := low 40 v }
  | 0x80B => s.updCsr h fun c => { c with cvScale := low 32 v }
  | 0x80C => s.updCsr h fun c => { c with veS := low 32 v }
  | 0x80D => s.updCsr h fun c => { c with veC := low 4 v }
  | 0x80E => s.updCsr h fun c => { c with veFbase := low 10 v }
  | 0x80F => s.updCsr h fun c => { c with efPtr := v &&& ~~~(63 : Word) }
  | 0x7C0 => s.updCtx h.cellId fun c => { c with capin := fld v 0 32 }
  | 0x7C3 => s.dbgStore h.cellId v
  | _ => s

/-- The access of the current hart to a CSR is legal (R11): the number is implemented, the mode may, and a write meets a
writable CSR. -/
def csrLegal (s : State) (n : Nat) (writes : Bool) : Bool :=
  match lookup n csrTable with
  | none => false
  | some (m, ro) =>
    (s.me.mode == .m || !m) && !(ro && writes) &&
      (s.me.mode == .m || (n != 0xC00 || wbit s.me.csr.mcounteren 0) && (n != 0xC02 || wbit s.me.csr.mcounteren 2))

/-- A CSR instruction (R65): `new` gives the value written from the one read. -/
def csrOp (s : State) (i : Instr) (rd n : Nat) (writes : Bool) (new : Word → Word) : State :=
  if s.csrLegal n writes then
    let old := s.csrGet s.cur n
    let s1 := if writes then s.csrSet s.cur n (new old) else s
    s1.finish rd old
  else s.illegal i

/-! ### Machine mode -/

/-- In M mode go on; in U mode the instruction is illegal (R51). -/
def machineOnly (s : State) (i : Instr) (k : State → State) : State := if s.me.mode = .m then k s else s.illegal i

/-- The loop that mret resumes (R73): the word at mepc - 4 x IDX - 4, read in the mode returned to, is a `rep` whose len is
above IDX. -/
def loopAt (s : State) (mode : Mode) (pc rs : Word) : Option Loop :=
  if fld rs 35 1 = 0 then none
  else
    let idx := fld rs 32 3
    let start := pc - BitVec.ofNat 64 (4 * idx)
    match s.peekInsn mode (start - 4) with
    | none => none
    | some w =>
      match decodeWord w with
      | .ok (.rep _ len stride mask) =>
        if idx < len + 1 then
          some { start := start, len := len + 1, stride := stride, mask := mask, rem := fld rs 0 32, idx := idx, ofs := fld rs 36 4 }
        else none
      | _ => none

/-- mret in M mode (R62, R73). -/
def returnFromTrap (s : State) : State :=
  let v := s.me
  let mode := if fld v.csr.mstatus 11 2 = 0 then Mode.u else Mode.m
  let pc := v.csr.mepc
  let l := s.loopAt mode pc v.csr.repState
  (s.retireTo pc).updMe fun h => { h with
    mode := mode
    loop := l
    csr := { h.csr with
      mstatus := mretStatus h.csr.mstatus
      repState := match l with
        | some _ => h.csr.repState
        | none => h.csr.repState &&& ~~~(BitVec.ofNat 64 (2 ^ 35)) } }

/-- Drop the entries of a TLB that a `tlbi` names (R90). -/
def tlbDrop (mode part : Nat) (va : Nat) (l : List TlbEntry) : List TlbEntry :=
  l.filter fun e => !(match mode with
    | 0 => e.part == part && decide (e.va ≤ va) && decide (va < e.va + e.size)
    | 1 => e.part == part
    | _ => true)

/-- A `tlbi` reaches the TLBs of the dies that `hit` names. -/
def shootdown (s : State) (hit : DieId → Bool) (mode part va : Nat) : State :=
  { s with
    cells := s.cells.map fun p => if hit p.1.dieId then (p.1, { p.2 with tlb := tlbDrop mode part va p.2.tlb }) else p
    dies := s.dies.map fun p => if hit p.1 then (p.1, { p.2 with tlb := tlbDrop mode part va p.2.tlb }) else p }

/-- Whether an error-log array is a cell's (R316). -/
def cellArray (a : Nat) : Bool := decide (a ≤ 8)

/-- Arm a fault injection from the operands of `einj` (R93), or nothing. -/
def injection (known : Nat → Bool) (op1 op2 : Word) (old : Option (Nat × Nat × Nat)) : Option (Nat × Nat × Nat) :=
  let array := fld op1 24 6
  let addr := fld op1 0 24
  let b1 := fld op2 0 7
  let b2 := fld op2 8 7
  if !known array || decide (Config.arrayWords array ≤ addr) || decide (72 ≤ b1) || (wbit op2 15 && decide (72 ≤ b2)) then old
  else some (array, addr, fld op2 0 16)

end State

/-! ### The instructions -/

/-- csrrw (R65). -/
def execCsrrw (rd csr rs1 : Nat) (s : State) : Out :=
  .next (s.csrOp (.csrrw rd csr rs1) rd csr true fun _ => s.xr rs1)

/-- csrrs: no write when rs1 is x0 (R65). -/
def execCsrrs (rd csr rs1 : Nat) (s : State) : Out :=
  .next (s.csrOp (.csrrs rd csr rs1) rd csr (rs1 != 0) fun old => old ||| s.xr rs1)

/-- csrrc: no write when rs1 is x0 (R65). -/
def execCsrrc (rd csr rs1 : Nat) (s : State) : Out :=
  .next (s.csrOp (.csrrc rd csr rs1) rd csr (rs1 != 0) fun old => old &&& ~~~(s.xr rs1))

/-- csrrwi (R65). -/
def execCsrrwi (rd csr uimm : Nat) (s : State) : Out :=
  .next (s.csrOp (.csrrwi rd csr uimm) rd csr true fun _ => BitVec.ofNat 64 uimm)

/-- csrrsi: no write when uimm is 0 (R65). -/
def execCsrrsi (rd csr uimm : Nat) (s : State) : Out :=
  .next (s.csrOp (.csrrsi rd csr uimm) rd csr (uimm != 0) fun old => old ||| BitVec.ofNat 64 uimm)

/-- csrrci: no write when uimm is 0 (R65). -/
def execCsrrci (rd csr uimm : Nat) (s : State) : Out :=
  .next (s.csrOp (.csrrci rd csr uimm) rd csr (uimm != 0) fun old => old &&& ~~~(BitVec.ofNat 64 uimm))

/-- ecall: environment call from U (8) or M (11) mode (R61). -/
def execEcall (s : State) : Out := .next (s.trap (if s.me.mode = .m then 11 else 8) 0)

/-- ebreak: breakpoint (3), or a debug halt with DCAUSE 2 when dbg.ctl.EBRK is set, pc staying at the ebreak (R61, R287). -/
def execEbreak (s : State) : Out :=
  .next (if wbit (s.getCell s.myCell).dbg 3 then
      s.askHalt s.myCell 2
    else s.trap 3 0)

/-- mret (R62, R73); illegal in U mode. -/
def execMret (s : State) : Out := .next (s.machineOnly .mret State.returnFromTrap)

/-- wfi: completes when a bit of mie and mip is 1, and parks until then (R64); a hart that has been woken goes on. -/
def execWfi (s : State) : Out :=
  .next (if s.me.answer = some .done || s.me.csr.mie &&& s.mipOf s.cur ≠ 0 then s.retire else s.await .interrupt false)

/-- fence (R57): I counts as R and O as W; a release, an acquire, both in that order, or nothing, at ms.scope. -/
def execFence (fm pred succ rs1 rd : Nat) (s : State) : Out :=
  let _ := (fm, rs1, rd)
  let r := fun set : Nat => bitsOf set 3 1 = 1 ∨ bitsOf set 1 1 = 1
  let w := fun set : Nat => bitsOf set 2 1 = 1 ∨ bitsOf set 0 1 = 1
  let sc := s.msScope
  let acq := fun t : State => (if r succ then t.acquire sc.1 else t).retire
  .next (if pred = 0 ∨ succ = 0 then s.retire
    else if w pred ∨ (r pred ∧ w succ) then s.release sc.1 sc.2 acq
    else acq s)

/-- fence.i: the cell's instruction store is invalidated (R66). It waits for the base stores of the cell that memory does not show yet:
the hart has made them, or may have read them from a VALID copy (R213). -/
def execFenceI (imm rs1 rd : Nat) (s : State) : Out :=
  let _ := (imm, rs1, rd)
  .next (if s.cellStores s.myCell then s.await .retry false
    else (s.updCell s.myCell fun c => { c with istore := [], istoreBad := [] }).retire)

/-- tlbi (R90): the translations named are dropped within the reach. -/
def execTlbi (rs1 rs2 : Nat) (s : State) : Out :=
  let op := s.xr rs2
  let me := s.cur.dieId
  let all := wbit op 2
  .next (s.machineOnly (.tlbi rs1 rs2) fun t =>
    (t.shootdown (fun d => decide (d = me) || (all && d.pkg == me.pkg)) (fld op 0 2) (fld op 8 8) (s.xr rs1).toNat).retire)

/-- tlbsync: waits until every earlier store of the hart has performed, posted stores and drain rows among them; its invalidations have
(R90, R273). -/
def execTlbsync (s : State) : Out :=
  .next (s.machineOnly .tlbsync fun t =>
    if t.basePending t.who || t.me.postDie + t.me.postPkg + t.me.postSys != 0 then t.await .retry true else t.retire)

/-- elog (R92): the oldest unread entry is removed and read; 0 when there is none. -/
def execElog (rd : Nat) (s : State) : Out :=
  .next (s.machineOnly (.elog rd) fun t =>
    match (t.getCell t.myCell).elog with
    | [] => t.finish rd 0
    | e :: rest => (t.updCell t.myCell fun c => { c with elog := rest }).finish rd e)

/-- einj (R93): one fault injection is armed for the cell. -/
def execEinj (rs1 rs2 : Nat) (s : State) : Out :=
  .next (s.machineOnly (.einj rs1 rs2) fun t =>
    (t.updCell t.myCell fun c => { c with einj := State.injection State.cellArray (s.xr rs1) (s.xr rs2) c.einj }).retire)

end Sys2Proof.Machine
end

