-- ==== Sys2Proof/Machine/WordInstrs.lean ====
section
/-!
DEFINITION. Word-memory instructions of custom-0 (R111, R114 to R122, R124): handle loads and stores, posted stores, queued
loads, post counts, registration control and scoped ordering.
-/
namespace Sys2Proof.Machine

namespace State

/-! ### Several accesses in one instruction -/

/-- The words an instruction of several accesses has dealt with so far. -/
def doneWords (s : State) : List Word :=
  match s.me.op with
  | some (.words vs) => vs
  | some (.receiving _ vs) => vs
  | _ => []

/-- `n` more 8-byte loads from `va`, after those in `vs`. -/
def loadMore : Nat → State → Word → List Word → (State → List Word → State) → State
  | 0, s, _, vs, k => k s vs
  | n + 1, s, va, vs, k =>
    s.loadVA (va + BitVec.ofNat 64 (8 * vs.length)) 8 fun t v =>
      loadMore n (t.note (.words (vs ++ [v]))) va (vs ++ [v]) k

/-- `n` 8-byte loads from `va`, in ascending order; those already made when the instruction waited are kept. -/
def loadMany (s : State) (va : Word) (n : Nat) (k : State → List Word → State) : State :=
  loadMore (n - s.doneWords.length) s va s.doneWords k

/-- 8-byte stores of `ws` from `va`, after those in `made`; `mk` says how the progress is noted. -/
def storeMore (mk : List Word → Progress) : List Word → State → Word → List Word → (State → State) → State
  | [], s, _, _, k => k s
  | w :: ws, s, va, made, k =>
    s.storeVA (va + BitVec.ofNat 64 (8 * made.length)) 8 w fun t =>
      storeMore mk ws (t.note (mk (made ++ [w]))) va (made ++ [w]) k

/-- 8-byte stores of `ws` from `va`, in ascending order. -/
def storeMany (s : State) (va : Word) (ws : List Word) (k : State → State) : State :=
  storeMore .words (ws.drop s.doneWords.length) s va s.doneWords k

/-- The 64-bit words of a handle, lowest first. -/
def handleWords (h : BitVec 256) : List Word := (List.range 4).map fun i => BitVec.ofNat 64 (hField h (64 * i) 64)

/-- The handle of four words. -/
def wordsHandle (ws : List Word) : BitVec 256 := BitVec.ofNat 256 (ws.foldr (fun w n => w.toNat + 2 ^ 64 * n) 0)

/-- The first of `n` words from `va` that lies in a locked range at its home, if the page translates (R123). -/
def lockedWord (s : State) (va : Word) (n : Nat) : Option Word :=
  match s.translate s.cur.pkg va with
  | .ok e t =>
    ((List.range n).map fun i => va + BitVec.ofNat 64 (8 * i)).find? fun w =>
      let a := t.mkAccess e (e.phys w.toNat) w 8
      s.lockHit a.home a.part w.toNat 8
  | _ => none

/-! ### Words of a virtual range (R119, R120) -/

/-- The entries of a table at a level, standing for addresses from `va` on, that reach into a range. -/
def reaching (lo hi va lvl : Nat) : List Nat :=
  (List.range 512).filter fun i =>
    decide (va + i * 2 ^ (12 + 9 * lvl) < hi) && decide (lo < va + (i + 1) * 2 ^ (12 + 9 * lvl))

/-- Every leaf below a table at a level that reaches into a range: its translation, as the walk forms it. -/
def leaves (s : State) (d : DieId) (part lo hi : Nat) : Nat → Nat → Nat → List TlbEntry
  | 0, t, va => (reaching lo hi va 0).filterMap fun i => leafAt t (va + i * 2 ^ 12) i
  | lvl + 1, t, va => (reaching lo hi va (lvl + 1)).flatMap fun i =>
      let e := (s.pte (d.pkg * pkgSpan + t + 8 * i)).getD 0
      let va' := va + i * 2 ^ (12 + 9 * (lvl + 1))
      if fld e 0 2 = 1 ∧ fld e 52 12 = 0 ∧ fld e 2 10 = 0 then leaves s d part lo hi lvl (fld e 12 40 * 4096) va'
      else (leafAt t va' i).toList
where
  /-- The leaf that an entry of a table is, if it is one. -/
  leafAt (t va i : Nat) : Option TlbEntry :=
    if fld ((s.pte (d.pkg * pkgSpan + t + 8 * i)).getD 0) 0 2 = 3 then s.walk d part d.pkg va else none

/-- The translations of a cell's partition on its own package for word pages that reach into a range: what the TLBs hold and what
the tables map. -/
def translations (s : State) (c : CellId) (lo hi : Nat) : List TlbEntry :=
  let part := (s.getCell c).ctx.part
  let r := s.rootOf c.dieId part c.pkg
  ((s.getCell c).tlb ++ (s.getDie c.dieId).tlb ++
    (if fld r 0 1 = 1 then s.leaves c.dieId part lo hi 4 (fld r 12 40 * 4096) 0 else [])).filter
      fun e => e.part == part && e.win == c.pkg && e.kind != kBlock && decide (e.va < hi) && decide (lo < e.va + e.size)

/-- A word lies in a virtual byte range of the cell's partition, on a page of a kind (R119): a byte of it is enough (DESIGN CHOICE,
log 35). -/
def inKinds (s : State) (c : CellId) (lo len : Nat) (kind : Nat → Bool) : Nat → Bool :=
  let hi := min (lo + len) (2 ^ 57)
  let es := (s.translations c lo hi).filter fun e => kind e.kind
  fun w => len != 0 && es.any fun e => decide (e.pa ≤ w) && decide (w < e.pa + e.size) &&
    (let va := e.va + (w - e.pa)
     decide (va < hi) && decide (lo < va + 8))

/-- A word lies in a virtual byte range of the cell's partition, on a word page. -/
def inRange (s : State) (c : CellId) (lo len : Nat) : Nat → Bool := s.inKinds c lo len fun _ => true

/-- The words of a range on WORD_TRACKED pages that a cell's L1 holds OWNED (R120). -/
def ownedIn (s : State) (c : CellId) (lo len : Nat) : List (Nat × L1Word) :=
  let hit := s.inKinds c lo len fun k => k == kTracked
  (s.getCell c).l1.filter fun e => e.2.owned && hit e.1

/-- The home takes a word that a cell owns back to HOME; the cell keeps it VALID (R120, R213). A copy that is no longer registered to the
cell has not the word's value, and is dropped. -/
def writeBackWord (s : State) (c : CellId) (w : Nat) : State :=
  match s.l1Get c w with
  | some ⟨true, d⟩ =>
    if lookup w s.words = some (.registered c) then (s.homeWord w d).l1Set c w ⟨false, d⟩ else s.l1Drop c w
  | _ => s

/-- A store of the current hart is still registering a word of a range on a WORD_TRACKED page (R120). -/
def registersIn (s : State) (c : CellId) (lo len : Nat) : Bool :=
  let hit := s.inKinds c lo len fun k => k == kTracked
  s.ops.any fun o => match o.2 with
    | .register a _ _ true => decide (a.hart = s.who) && hit (wordOf a.qa)
    | _ => false

/-- The word's home is on this package and takes a request now. -/
def yieldsNow (s : State) (c : CellId) (w : Nat) : Bool :=
  decide ((s.homeOf kTracked w).pkg = c.pkg) && !s.flipping w && !s.wordBusy w none

end State

/-! ### The instructions -/

/-- hld: four 8-byte loads into h[hd] (R111). -/
def execHld (hd rs1 : Nat) (s : State) : Out :=
  let va := s.xr rs1
  .next (if va.toNat % 32 ≠ 0 then s.trap 4 va
    else s.loadMany va 4 fun t ws => (t.setH hd (State.wordsHandle ws)).retire)

/-- hst: four 8-byte stores of h[hs] (R111). A locked word is found before the first of them; where a later one meets a lock or an unreachable
home after that, the hart traps with the earlier ones made (DESIGN CHOICE, log 36). -/
def execHst (hs rs1 : Nat) (s : State) : Out :=
  let va := s.xr rs1
  .next (if va.toNat % 32 ≠ 0 then s.trap 6 va
    else match s.lockedWord va 4 with
      | some w =>
        if s.me.op = none then s.withPage .store s.cur.pkg va fun t e _ => if e.kind = kBlock then t.trap 27 va else t.trap 28 w
        else s.storeMany va (State.handleWords (s.hr hs)) fun t => t.retire
      | none => s.storeMany va (State.handleWords (s.hr hs)) fun t => t.retire)

/-- ldq (R116): waits on the post count that W names, then loads, sign-extended. -/
def execLdq (w sz off rs1 rd : Nat) (s : State) : Out :=
  .next (if w ≠ 0 ∧ s.posts w ≠ 0 then s.await .retry false
    else s.load rd (s.addrQM rs1 sz off) (2 ^ sz) true)

/-- The posted store of `size` bytes at `va` (R114). -/
def State.post (s : State) (acc : Acc) (va : Word) (size : Nat) (val : Word) (add : Bool) : State :=
  if va.toNat % size ≠ 0 then s.trap 6 va
  else if inWindow va then s.trap 27 va
  else s.withPage acc s.cur.pkg va fun t e qa =>
    if e.kind = kBlock then t.trap 27 va
    else t.postStore (t.mkAccess e qa va size) val add fun u => u.retire

/-- stp (R114): waits on the post count that W names, then posts the low 2^sz bytes of x[rs]. -/
def execStp (w sz off rs1 rs : Nat) (s : State) : Out :=
  .next (if w ≠ 0 ∧ s.posts w ≠ 0 then s.await .retry false
    else s.post .store (s.addrQM rs1 sz off) (2 ^ sz) (s.xr rs) false)

/-- stpa: a posted atomic add of x[rs2] to the 8-byte word at x[rs1] (R115). -/
def execStpa (rs1 rs2 : Nat) (s : State) : Out := .next (s.post .amo (s.xr rs1) 8 (s.xr rs2) true)

/-- invr: VALID words of a byte range become INVALID (R119). -/
def execInvr (rs1 rs2 : Nat) (s : State) : Out :=
  .next ((s.invalidate s.myCell (s.inRange s.myCell (s.xr rs1).toNat (s.xr rs2).toNat)).retire)

/-- inva: VALID words become INVALID (R119). -/
def execInva (s : State) : Out := .next ((s.invalidate s.myCell fun _ => true).retire)

/-- yld: OWNED tracked words of a byte range are written back (R120), after the stores of the hart that are still registering one. Words
whose home is elsewhere or held wait for their WRITE_BACK. -/
def execYld (rs1 rs2 : Nat) (s : State) : Out :=
  let c := s.myCell
  .next (match s.me.op with
    | some (.yields ws) => if ws.any fun w => s.pool.contains (.writeBack c w) then s.await .retry false else s.retire
    | _ =>
      if s.registersIn c (s.xr rs1).toNat (s.xr rs2).toNat then s.await .retry false else
      let ws := s.ownedIn c (s.xr rs1).toNat (s.xr rs2).toNat
      let t := (ws.filter fun e => s.yieldsNow c e.1).foldl (fun t e => t.writeBackWord c e.1) s
      let rest := (ws.filter fun e => !s.yieldsNow c e.1).map fun e => e.1
      if rest.isEmpty then t.retire
      else ((t.note (.yields rest)).pushAll (rest.map fun w => .writeBack c w)).await .retry false)

/-- ownq: the state of the cell's copy, and whether the page is WORD_TRACKED (R121). That it writes 0 for the first 128 KiB of the cell
window, and that bit 2 is the KIND of the leaf on a page in host bias too, is a DESIGN CHOICE, log 35. -/
def execOwnq (rd rs1 : Nat) (s : State) : Out :=
  let va := s.xr rs1
  .next (if inWindow va then (if va.toNat - 0x01FFFF0000000000 < 0x20000 then s.finish rd 0 else s.trap 27 va)
    else s.withPage .load s.cur.pkg va fun t e qa =>
      if e.kind = kBlock then t.trap 27 va
      else
        let st := match t.l1Get t.myCell (State.wordOf qa) with
          | none => 0
          | some x => if x.owned then 2 else 1
        t.finish rd (BitVec.ofNat 64 (st + if e.kind = kTracked then 4 else 0)))

/-- cntw: parks until the post count of the class is 0 (R118). -/
def execCntw (cls : Nat) (s : State) : Out :=
  .next (if s.posts cls = 0 then s.retire else s.await .retry false)

/-- cntr: the post count of the class (R118). -/
def execCntr (rd cls : Nat) (s : State) : Out := .next (s.finish rd (BitVec.ofNat 64 (s.posts cls)))

/-- facq: an acquire (R122). -/
def execFacq (scope rs1 : Nat) (s : State) : Out :=
  let _ := rs1
  .next ((s.acquire scope).retire)

/-- frel: a release (R122). -/
def execFrel (scope rs1 : Nat) (s : State) : Out :=
  .next (s.release scope (fld (s.xr rs1) 0 8) fun t => t.retire)

/-- far: a release, then an acquire (R122). -/
def execFar (scope rs1 : Nat) (s : State) : Out :=
  .next (s.release scope (fld (s.xr rs1) 0 8) fun t => (t.acquire scope).retire)

/-- rlq: whether the word lies in a locked range, and whether an engine of this cell holds the lock (R124). That it writes 0 for the first
128 KiB of the cell window is a DESIGN CHOICE, log 35. -/
def execRlq (rd rs1 : Nat) (s : State) : Out :=
  let va := s.xr rs1
  .next (if inWindow va then (if va.toNat - 0x01FFFF0000000000 < 0x20000 then s.finish rd 0 else s.trap 27 va)
    else s.withPage .load s.cur.pkg va fun t e qa =>
      if e.kind = kBlock then t.trap 27 va
      else
        let a := t.mkAccess e qa va 8
        if t.homeCut a then t.trap 38 va
        else
          let lo := State.wordOf va.toNat
          let hits := t.locks.filter fun l =>
            decide (l.die = a.home) && l.part == a.part && decide (l.lo ≤ lo + 7) && decide (lo ≤ l.hi)
          t.finish rd (bit01 (!hits.isEmpty) ||| (bit01 (hits.any fun l => decide (l.cell = t.myCell)) <<< 1)))

end Sys2Proof.Machine
end

