-- ==== Sys2Proof/Machine/Queues.lean ====
section
/-!
DEFINITION. Queue registers (R81), message channels and messages between cells (R82 to R84).
-/
namespace Sys2Proof.Machine

namespace State

/-! ### Queue registers (R81) -/

/-- A queue register of the current cell. -/
def getQueue (s : State) (q : Nat) : QueueReg := (lookup q s.ctx.queues).getD ⟨[], none, [], []⟩

/-- Replace a queue register of the current cell. -/
def setQueue (s : State) (q : Nat) (v : QueueReg) : State := s.updMyCtx fun x => { x with queues := store q v x.queues }

/-- Append a value: it goes to the first parked `qpop`, or into the queue. -/
def queuePush (s : State) (q : Nat) (w : Word) : State :=
  let v := s.getQueue q
  match v.poppers with
  | p :: ps => (s.setQueue q { v with poppers := ps }).handTo p (.word w)
  | [] => s.setQueue q { v with entries := v.entries ++ [w] }

/-- Remove the oldest entry; the first parked `qpush` then completes. -/
def queuePop (s : State) (q : Nat) (es : List Word) : State :=
  let v := s.getQueue q
  match v.pushers with
  | p :: ps => (s.setQueue q { v with entries := es ++ [p.2], pushers := ps }).handTo p.1 .done
  | [] => s.setQueue q { v with entries := es }

/-! ### Channels (R82, R83) -/

/-- A message channel of a partition at a cell. -/
def getRing (s : State) (c : CellId) (part ch : Nat) : MsgRing :=
  ((s.ctxFor c part).bind fun x => lookup ch x.rings).getD ⟨0, 0, 0, []⟩

/-- Replace a message channel. -/
def setRing (s : State) (c : CellId) (part ch : Nat) (v : MsgRing) : State :=
  s.updCtxFor c part fun x => { x with rings := store ch v x.rings }

/-- Write words from a position of a ring up. -/
def ringWrite (ring : List (Nat × Word)) (p : Nat) (ws : List Word) : List (Nat × Word) :=
  (ws.zip (List.range ws.length)).foldl (fun l w => store (p + w.2) w.1 l) ring

/-- A record placed at position `p`. -/
def ringPlace (r : MsgRing) (p : Nat) (ws : List Word) : MsgRing :=
  { r with ring := ringWrite r.ring p ws, tail := (p + ws.length) % 32, used := r.used + ws.length }

/-- The placing of a record of header and payload (R83); none when it is refused. -/
def ringAccept (r : MsgRing) (ws : List Word) : Option MsgRing :=
  let n := ws.length
  if r.used = 32 then none
  else if r.head < r.tail ∨ r.used = 0 then
    if n ≤ 32 - r.tail then some (ringPlace r r.tail ws)
    else if n ≤ r.head then
      let pad : Word := BitVec.ofNat 64 (32 + (32 - r.tail - 1))
      some (ringPlace { r with ring := store r.tail pad r.ring, used := r.used + (32 - r.tail), tail := 0 } 0 ws)
    else none
  else if n ≤ r.head - r.tail then some (ringPlace r r.tail ws) else none

/-- A ring with the pad record at its head discarded (R84). -/
def ringSkip (r : MsgRing) : MsgRing :=
  let w := (lookup r.head r.ring).getD 0
  if 0 < r.used ∧ wbit w 5 then { r with head := 0, used := r.used - (fld w 0 5 + 1) } else r

/-- A ring with the record at its head consumed; an empty ring starts again at 0 (R82). -/
def ringConsume (r : MsgRing) (n : Nat) : MsgRing :=
  if r.used - n = 0 then { r with head := 0, tail := 0, used := 0 }
  else { r with head := (r.head + n) % 32, used := r.used - n }

/-- The header of a message of a hart (R82). -/
def msgHeader (h : HartId) (len : Nat) : Word :=
  BitVec.ofNat 64 (hartNumber { h with hart := h.hart % 32 } * 64 + len)

/-- A channel now holds a record: harts parked on it take their instruction up again. -/
def wakeChannel (s : State) (c : CellId) (part ch : Nat) : State :=
  (List.range 64).foldl (fun t n =>
    let h := c.hart n
    if ((t.getWho h part).wait.any fun w => decide (w.kind = .message ch)) then t.wake h part else t) s

/-- Another hart of the cell is storing a message of the channel. That harts in `mrecv` on one channel receive one at a time, while the others
wait and are taken up in any order, is a DESIGN CHOICE, log 35. -/
def channelTaken (s : State) (ch : Nat) : Bool :=
  s.harts.any fun p => decide (p.1 ≠ s.cur) && decide (p.1.cellId = s.myCell) && (match p.2.op with
    | some (.receiving c _) => c == ch
    | _ => false)

/-- The check that a destination of `n` bytes takes stores of the hart (R84), page by page. -/
def storable : Nat → State → Word → (State → State) → State
  | 0, s, _, k => k s
  | n + 1, s, va, k =>
    if inWindow va then s.trap 27 va
    else s.withPage .store s.cur.pkg va fun t e _ =>
      if e.kind = kBlock then t.trap 27 va else storable n t (va + 8) k

/-- The stores of `mrecv`, and what follows them. -/
def receive (s : State) (rd ch : Nat) (dest : Word) : State :=
  let part := s.ctx.part
  let r := ringSkip (s.getRing s.myCell part ch)
  let hdr := (lookup r.head r.ring).getD 0
  let ws := (List.range (fld hdr 0 5)).map fun i => (lookup (r.head + 1 + i) r.ring).getD 0
  let made := s.doneWords
  storeMore (.receiving ch) (ws.drop made.length) s dest made fun t =>
    ((t.setRing t.myCell part ch (ringConsume r (fld hdr 0 5 + 1)))).finish rd hdr

end State

/-! ### The instructions -/

/-- A user of a named pipe other than the one it is bound to (R81). -/
def QueueReg.closedTo (v : QueueReg) (push : Bool) (h : Nat) : Bool :=
  v.pipe.any fun p => (if push then p.1 else p.2) != h

/-- qpush (R81), a hand-off (R71). -/
def execQpush (q rs1 : Nat) (s : State) : Out :=
  let v := s.getQueue q
  .next (if s.me.answer = some .done then s.retire
    else if v.closedTo true s.who.hart then s.trap 30 (BitVec.ofNat 64 q)
    else s.handOff fun t =>
      if v.poppers.isEmpty && decide (8 ≤ v.entries.length) then
        (t.setQueue q { v with pushers := v.pushers ++ [(t.who.hart, t.xr rs1)] }).await .answer true
      else (t.queuePush q (t.xr rs1)).retire)

/-- qpop (R81). -/
def execQpop (rd q : Nat) (s : State) : Out :=
  let v := s.getQueue q
  .next (match s.me.answer with
    | some (.word w) => s.finish rd w
    | _ =>
      if v.closedTo false s.who.hart then s.trap 30 (BitVec.ofNat 64 q)
      else match v.entries with
        | w :: es => (s.queuePop q es).finish rd w
        | [] => (s.setQueue q { v with poppers := v.poppers ++ [s.who.hart] }).await .answer true)

/-- qtry (R81). -/
def execQtry (rd q : Nat) (s : State) : Out := .next (s.finish rd (BitVec.ofNat 64 (s.getQueue q).entries.length))

/-- msend (R83): the payload is read at issue, and a fault of its loads is raised before REMOTE (R52); then the hart parks until
the target accepts the record. -/
def execMsend (rs1 rs2 : Nat) (s : State) : Out :=
  let w := s.xr rs2
  let len := fld w 24 5
  .next (match s.me.op with
    | some (.asked _) =>
      match s.me.answer with
      | some (.trap c t) => s.trap c (if c = 38 then w else t)
      | some _ => s.retire
      | none => s.await .answer true
    | _ =>
      s.loadMany (s.xr rs1) len fun t ws =>
        match t.gangTarget w with
        | none => t.trap 38 w
        | some c =>
          if len = 0 ∨ fld w 29 35 ≠ 0 then t.trap 38 w
          else
            let t1 := (t.newOp (.message t.who t.ctx.part c (fld w 18 6) ws 0 false)).send t.cur.pkg c.pkg 3 (.msendRecordArrives t.nextId)
            (t1.note (.asked t.nextId)).await .answer true)

/-- mrecv (R84): it waits for a record, checks its destination, stores the payload and consumes the record. -/
def execMrecv (rd rs1 : Nat) (s : State) : Out :=
  let ch := fld (s.xr rs1) 0 6
  let dest := s.xr rs1 &&& ~~~(63 : Word)
  .next (if s.channelTaken ch then s.await .retry true
    else match s.me.op with
      | some (.receiving _ _) => s.receive rd ch dest
      | _ =>
        match (s.getRing s.myCell s.ctx.part ch).firstRecord with
        | none => s.await (.message ch) true
        | some hdr => State.storable (fld hdr 0 5) s dest fun t => (t.note (.receiving ch [])).receive rd ch dest)

/-- mpoll (R84). -/
def execMpoll (rd rs1 : Nat) (s : State) : Out :=
  .next (s.finish rd (((s.getRing s.myCell s.ctx.part (fld (s.xr rs1) 0 6)).firstRecord).getD 0))

/-! ### The events -/

/-- MSEND_RECORD_ARRIVES (R83): the record is placed, or refused and retried. A cell that no longer stands in the sender's
gang's partition refuses it as a berthed one does (R285). -/
def execMsendRecordArrives (id : Nat) (s : State) : Out :=
  .next (match s.getOp id with
    | some (.message src part dst ch words retries _) =>
      let refuse := (s.setOp id (.message src part dst ch words (retries + 1) true)).push (.msendRetry id)
      if (s.getCell dst).ctx.part ≠ part then refuse
      else match State.ringAccept (s.getRing dst part ch) (State.msgHeader src words.length :: words) with
        | none => refuse
        | some r => (((s.setRing dst part ch r).wakeChannel dst part ch).dropOp id).answer src part .done
    | _ => s)

/-- MSEND_RETRY (R83): a refused record is sent again, unless its sender has been told meanwhile that it failed (R303). -/
def execMsendRetry (id : Nat) (s : State) : Out :=
  .next (match s.getOp id with
    | some (.message src part dst ch words retries true) =>
      if 1024 ≤ src.hart then s.dropOp id
      else (s.setOp id (.message src part dst ch words retries false)).send src.pkg dst.pkg 3 (.msendRecordArrives id)
    | _ => s)

end Sys2Proof.Machine
end

