-- ==== Sys2Proof/Machine/EngineEvents.lean ====
section
/-!
DEFINITION. The steps of the engines (R128 to R130, R139, R156 to R158), and matrix commands sent to another cell (R142,
R143).
-/
namespace Sys2Proof.Machine

namespace State

/-! ### When a command starts (R128) -/

/-- The engines of a cell are paused by a debug halt (R287), or a swap stops them (R283). -/
def enginesPaused (s : State) (c : CellId) : Bool :=
  let v := s.getCell c
  wbit v.dbg 17 || v.haltCause != 0 || v.swap == 3

/-- A row of a command is not yet locked. -/
def rowsOpen (s : State) (k : Cmd) : Bool := k.rows.any s.rowOpen

/-- A row of a command was refused its lock. -/
def rowRefused (s : State) (k : Cmd) : Bool := k.rows.any fun id => match s.getOp id with
  | some (.row _ _ _ _ _ _ lock _ _) => lock == 2
  | _ => false

/-- The command at the head of a queue may start (R128). -/
def startable (s : State) (c : CellId) (k : Cmd) : Bool :=
  k.reads.all (fun i => let st := (s.getTile c i).st; !(st == .empty || st == .filling)) &&
    k.writes.all (fun i => let t := s.getTile c i; !(t.st == .full && t.brel.isSome)) && !s.rowsOpen k

/-- A gang hart's context that has not halted. -/
def liveHart (h : Hart) : Bool := decide (h.status = .running) && !h.service

/-- Every hart of a cell has halted, a pre-empted one included. -/
def allHalted (s : State) (c : CellId) : Bool :=
  !(s.harts.any fun p => decide (p.1.cellId = c) && liveHart p.2) && !((s.getCell c).preempted.any fun p => liveHart p.2)

/-- A read request of a hart of the cell is outstanding (R128). -/
def readsOut (s : State) (c : CellId) : Bool :=
  s.ops.any fun o => match o.2 with
    | .block (.read _) (.hart h) _ _ _ _ _ _ _ _ _ _ => decide (h.cellId = c) && decide (h.hart < 1024)
    | _ => false

/-- A source of a command is starved (R128). -/
def starved (s : State) (c : CellId) (k : Cmd) : Bool :=
  let x := (s.getCell c).ctx
  s.allHalted c && !(x.chans.any fun p => p.2.busy) && !s.readsOut c &&
    k.reads.any fun i => (s.getTile c i).st == .empty &&
      !((x.mq ++ x.vq ++ x.cq).any fun q => q.writes.contains i)

/-! ### The end of a command -/

/-- The command at the head of a queue has ended: its reads are done, and what waits for the queue goes on. -/
def endCommand (s : State) (c : CellId) (e : Nat) (k : Cmd) : State :=
  let part := (s.getCell c).ctx.part
  let s1 := s.updCtx c fun x => x.setQueue e (x.queue e).tail
  (k.reads.foldl (fun t i => t.readDone c part k.id i) s1).wakeTiles c part

/-- The command at the head faults (R130). The rows that it does not write count as acknowledged (R139), for a context that has tailed too
(R86). -/
def faultHead (s : State) (c : CellId) (e : Nat) (k : Cmd) (sub : Nat) : State :=
  ((s.engineFault c k sub false none).endCommand c e k).settleTracked k.src k.part

/-- Bits of mx.sticky are raised at the hart that issued a command; a command sent by `mmsend` raises none (R143). -/
def raiseSticky (s : State) (k : Cmd) (bits : Nat) : State :=
  if bits = 0 ∨ k.desc.isSome then s
  else s.updWho k.src k.part fun h => { h with csr := { h.csr with mxSticky := h.csr.mxSticky ||| BitVec.ofNat 64 bits } }

/-- The command at the head has its destinations and what it will write. -/
def beginHead (s : State) (c : CellId) (e : Nat) (k : Cmd) (r : EngineResult) : State :=
  let s1 := k.writes.foldl (fun t i => t.setTile c i { Tile.reset with st := .filling }) s
  (s1.updCtx c fun x => x.setQueue e ({ k with result := some r } :: (x.queue e).tail)).push (.engineCommandDone c e)

/-- The command at the head starts: its checks, then what it computes (R129 to R131, R135). Which sub-code is reported where several checks
fail is a DESIGN CHOICE, log 35: the first of the order here and in the engine's own checks. -/
def startHead (s : State) (c : CellId) (e : Nat) (k : Cmd) : State :=
  let refused := k.reads.any fun i => (s.getTile c i).st == .refused
  if k.writes.any fun i => (s.getTile c i).st != .empty then s.faultHead c e k 3
  else if s.rowRefused k then s.faultHead c e k 6
  else if e = 0 then
    let r := s.startMatrix c k
    if r.fault ≠ 0 then s.faultHead c e k r.fault
    else if refused then s.faultHead c e k 4
    else ((s.setAcc c (accOf k.instr) r.acc).raiseSticky k r.sticky).beginHead c e k r.result
  else if refused then s.faultHead c e k 4
  else s.beginHead c e k (if e = 1 then s.startVector c k else s.startConvert c k)

/-- A destination receives its contents, or becomes POISON (R129). Of two destinations of a command in one scratch block, the first is written
and the second finds no block that is FILLING (DESIGN CHOICE, log 35). -/
def landResult (s : State) (c : CellId) (part : Nat) (b : Nat × Option (BitVec 32768 × BitVec 512)) : State :=
  if (s.getTile c b.1).st = .filling then
    s.changeTile c part b.1 (match b.2 with
      | some (d, sd) => ⟨.full, d, sd, none, none⟩
      | none => Tile.poisoned (s.tick + b.1))
  else s

/-- A row of a drain is sent to its home with its bytes (R139). -/
def sendRow (s : State) (id : Nat) (bytes : List Byte) : State :=
  match s.getOp id with
  | some (.row h part cls cell va seg lock _ _) =>
    (s.setOp id (.row h part cls cell va seg lock (some bytes) false)).send cell.pkg seg.home.pkg 2 (.wordWrite id)
  | _ => s

/-- The command at the head is done: its scratch blocks, its flags in order, its rows, and a fault reported last. -/
def finishHead (s : State) (c : CellId) (e : Nat) (k : Cmd) (r : EngineResult) : State :=
  let part := (s.getCell c).ctx.part
  let s1 := r.blocks.foldl (fun t b => t.landResult c part b) s
  let s2 := r.flags.foldl (fun t f => t.putFlag c part f.1 f.2) s1
  let s3 := (k.rows.zip r.rows).foldl (fun t p => t.sendRow p.1 p.2) s2
  let s4 := if r.late = 0 then s3 else s3.postImprecise k.src k.part (k.fault c r.late)
  s4.endCommand c e k

/-! ### Predicted paths (R156 to R158) -/

/-- The oldest branch of a predicted path can resolve: the compares before one that waits for a flag have written their flags, and no load of
the path is under way. -/
def resolvable (s : State) (h : HartId) (v : Hart) : Bool :=
  let x := (s.getCell h.cellId).ctx
  ((v.spec.any fun sp => sp.flag.isNone) || !(x.vq.any fun k => decide (k.src = h) && writesFlags k.instr) &&
    !(x.commit.any fun b => decide (b.cmd.src = h) && b.tag == 0 && writesFlags b.cmd.instr)) &&
    !(v.wait.any fun w => decide (w.kind = .answer))

/-- An open branch resolves as it was predicted: its flag has the value expected of it, or its scalar result is the one expected. -/
def specRight (s : State) (c : CellId) (sp : Spec) : Bool :=
  match sp.flag with
  | some n => (s.getCell c).ctx.flags.getLsbD n == sp.expect
  | none => sp.expect

/-- A hart on a predicted path goes back to its oldest unresolved branch, as an instruction boundary (R71, R287). What the path put in the
commit buffer is discarded (R158). -/
def goBack (s : State) (h : HartId) (part : Nat) (sp : Spec) : State :=
  (s.updCtx h.cellId fun x => { x with commit := x.commit.filter fun b => !decide (b.cmd.src = h) || b.tag == 0 }).updWho h part fun v =>
    { v.settle with pc := sp.branchPc, x := sp.savedX, spec := none, younger := [], csr := { v.csr with minstret := sp.savedMinstret - 1 } }

/-- Change an entry of a commit buffer. -/
def updEntry (s : State) (c : CellId) (id : Nat) (f : Buffered → Buffered) : State :=
  s.updCtx c fun x => { x with commit := x.commit.map fun y => if y.cmd.id = id then f y else y }

/-- A committed entry registers its rows, those that the post counts have room for (R157). -/
def entryRows (s : State) (h : HartId) (b : Buffered) : State × Buffered :=
  if b.rows.isEmpty then (s, b)
  else
    let r := State.registerRows h b.cmd.part h.cellId b.rows s b.cmd.rows
    let b' : Buffered := { b with cmd := { b.cmd with rows := r.2.1 }, rows := r.2.2 }
    (r.1.updEntry h.cellId b.cmd.id fun _ => b', b')

/-- Committed entries of a hart leave the commit buffer for their queues, in program order, once their rows are locked or refused and while
there is room. -/
def commitEntries (h : HartId) : List Buffered → State → State
  | [], s => s
  | b :: l, s =>
    let r := s.entryRows h b
    if !r.2.rows.isEmpty || r.2.cmd.rows.any r.1.rowOpen || r.1.queueFull h.cellId b.eng then r.1
    else commitEntries h l ((r.1.updCtx h.cellId fun x => { x with commit := x.commit.filter fun y => y.cmd.id != b.cmd.id }).enqueue
      h.cellId r.2.cmd)

/-- The entries of a hart in the commit buffer that have no open branch in their tag. -/
def entriesOf (s : State) (h : HartId) : List Buffered :=
  (s.getCell h.cellId).ctx.commit.filter fun b => decide (b.cmd.src = h) && b.tag == 0

/-- Move a hart's committed entries. While one of them stays, or another branch is open, the event stays with them. -/
def moveCommitted (s : State) (h : HartId) : State :=
  let s1 := commitEntries h (s.entriesOf h) s
  if (s1.entriesOf h).isEmpty && (s1.getWho h (s1.getCell h.cellId).ctx.part).spec.isNone then s1
  else s1.push (.commitBufferCommit h)

/-- The hart's oldest branch has resolved as predicted: it leaves every tag, and the next branch is the oldest (R156, R158). -/
def confirm (s : State) (h : HartId) (part : Nat) : State :=
  (s.updCtx h.cellId fun x => { x with commit := x.commit.map fun b => if b.cmd.src = h then { b with tag := b.tag - 1 } else b }).updWho h part
    fun v => { v with spec := v.younger.head?, younger := v.younger.tail }

/-- The hart goes back to where its oldest branch should have gone (R158). -/
def Hart.mispredicted (v : Hart) (sp : Spec) : Hart :=
  { v.settle with pc := sp.otherPc, x := sp.savedX, spec := none, younger := [], csr := { v.csr with minstret := sp.savedMinstret } }

/-! ### Rows at their homes (R123, R139) -/

/-- The rows of the drain that a row belongs to, which are one operation (R139). -/
def rowsWith (s : State) (h : HartId) (part : Nat) (cell : CellId) (id : Nat) : List Nat :=
  match (s.getWho h part).op with
  | some (.rows ids _) => if ids.contains id then ids else queued
  | _ => queued
where
  /-- The rows of the queued or committed command that holds the row. -/
  queued : List Nat :=
    match s.ctxFor cell part with
    | some x => (((x.mq ++ x.commit.map fun b => b.cmd).find? fun k => k.rows.contains id).map fun k => k.rows).getD [id]
    | none => [id]

/-- A row asks for its range lock. -/
def lockRow (s : State) (id : Nat) : State :=
  match s.getOp id with
  | some (.row h part cls cell va seg 0 bytes done) =>
    match s.tryLock (s.rowsWith h part cell id) id cell part va.toNat (va.toNat + seg.len - 1) [seg] with
    | .wait => s.push (.rangeLock id)
    | .refused => s.setOp id (.row h part cls cell va seg 2 bytes done)
    | .held s1 => s1.setOp id (.row h part cls cell va seg 1 bytes done)
  | _ => s

/-! ### Matrix commands from another cell (R142, R143) -/

/-- The command that an INSN field names, with its accumulator field; none for any other word (R142). -/
def sentInstr (w : Nat) : Option Instr :=
  let acc := bitsOf w 7 5
  let src := bitsOf w 15 5
  if opcOf w ≠ 0x2B ∨ bitsOf w 12 3 ≠ 0 then none
  else match bitsOf w 25 7 with
    | 0 => if acc < 16 then some (.mma acc 0 0) else none
    | 1 => if acc < 16 then some (.mmaz acc 0 0) else none
    | 2 => if acc < 16 then some (.mmav acc 0 0) else none
    | 3 => if acc < 16 then some (.mmavz acc 0 0) else none
    | 4 => if src < 16 then some (.mdrn 0 src 0) else none
    | 5 => if acc < 16 then some (.mmrg acc 0) else none
    | 6 => if acc < 16 then some (.aclr acc) else none
    | _ => none

/-- Whether a sent command takes a first and a second handle. -/
def sentHandles (i : Instr) (drn : Nat) : Bool × Bool :=
  match i with
  | .aclr _ => (false, false)
  | .mmrg _ _ => (true, false)
  | .mdrn _ _ _ => (true, (drainRow (bitsOf drn 0 8)).isSome && drainAux (bitsOf drn 0 8))
  | _ => (true, true)

/-- Load four words from an address after `skip` words already loaded, if wanted. -/
def loadHandle (s : State) (want : Bool) (va : Word) (vs : List Word) (skip : Nat) (k : State → List Word → State) : State :=
  if !want then k s vs
  else if va.toNat % 32 ≠ 0 then s.trap 4 va
  else loadMore (skip + 4 - vs.length) s (va - BitVec.ofNat 64 (8 * skip)) vs k

/-- The command that `mmsend` sends (R142). -/
def sentCmd (s : State) (i : Instr) (ws hs : List Word) (two : Bool) (addr : Word) (insn : Nat) : Cmd :=
  let h0 := wordsHandle (hs.take 4)
  let h1 := if two then wordsHandle ((hs.drop 4).take 4) else 0
  let c := capture s.me
  let e := ws.getD 5 0
  let drain := match i with
    | .mdrn .. => true
    | _ => false
  { id := 0, instr := i, src := s.who, part := s.ctx.part, desc := some addr
    hd := if drain then h0 else 0, ha := if drain then 0 else h0, hb := h1, hc := 0
    csr := { c with fmt := (ws.getD 3 0).toNat % 2 ^ 18, drn := (ws.getD 4 0).toNat % 2 ^ 9, aexp := fld e 0 8, bexp := fld e 8 8 }
    xv := 0, seq := (s.me.csr.minstret.toNat + 1) % 2 ^ 32, insn := insn, rows := [], result := none }

/-- A reserved byte of a descriptor is not zero. -/
def descReserved (ws : List Word) : Bool :=
  fld (ws.getD 0 0) 32 32 != 0 || fld (ws.getD 5 0) 16 48 != 0 || ws.getD 6 0 != 0 || ws.getD 7 0 != 0

/-- `mmsend` once its descriptor is loaded. -/
def mmsendWith (s : State) (addr w2 : Word) (insn : Nat) (vs : List Word) : State :=
  let ws := vs.take 8
  let p0 := ws.getD 1 0
  let p1 := ws.getD 2 0
  match sentInstr (fld (ws.getD 0 0) 0 32) with
  | none => s.trap 31 addr
  | some i =>
    let need := sentHandles i (ws.getD 4 0).toNat
    if descReserved ws || (need.1 && p0 == 0) || (need.2 && p1 == 0) then s.trap 31 addr
    else s.loadHandle need.1 p0 vs 8 fun s vs => s.loadHandle need.2 p1 vs 12 fun s vs =>
      match s.gangTarget w2 with
      | none => s.trap 38 w2
      | some c =>
        ((s.newOp (.matrix s.who s.ctx.part c s.me.csr.mxCapout.toNat (s.sentCmd i ws (vs.drop 8) need.2 addr insn))).send
          s.cur.pkg c.pkg 3 (.mmsendReceive s.nextId)).retire

/-- The translation of the rows of a received drain, in U mode; none when one fails. -/
def sentRows (s : State) (c : CellId) (part : Nat) (k : Cmd) : Option (List (Word × Seg)) :=
  (drainList k).mapM fun (p : Nat × Word) =>
    match s.translateFor c.dieId part c.pkg p.2 with
    | none => none
    | some e =>
      let qa := e.phys p.2.toNat
      let kd := s.kindAt e qa
      if !leafAllows .store .u e || physFault e qa || e.kind == kBlock then none
      else some (p.2, ⟨qa, p.1, kd, s.homeOf kd qa, e.kind⟩)

/-- Rows of a received drain ask for their locks; they are counted nowhere. -/
def registerSent (src : HartId) (part : Nat) (c : CellId) : List (Word × Seg) → State → List Nat → State × List Nat
  | [], s, ids => (s, ids)
  | r :: rs, s, ids =>
    let s1 := (s.newOp (.row src part 0 c r.1 r.2 0 none false)).send c.pkg r.2.home.pkg 2 (.rangeLock s.nextId)
    registerSent src part c rs s1 (ids ++ [s.nextId])

/-- The sender of a matrix command is told of its refusal (R143). -/
def refuseSent (s : State) (src : HartId) (part : Nat) (dst : CellId) (k : Cmd) (cause sub : Nat) : State :=
  s.postImprecise src part ⟨cause, sub, 4, 0, k.seq, k.desc.getD 0, BitVec.ofNat 64 (cellWord dst), k.insn⟩

/-- A matrix command reaches its cell (R143). One that passes the checks waits while the cell's matrix queue is full, and comes again (DESIGN
CHOICE, log 36). -/
def receiveMatrix (s : State) (id : Nat) (src : HartId) (part : Nat) (dst : CellId) (cap : Nat) (k : Cmd) : State :=
  let x := (s.getCell dst).ctx
  if x.part ≠ part ∨ cap ≠ x.capin then (s.dropOp id).refuseSent src part dst k 34 0
  else if s.allHalted dst then (s.dropOp id).refuseSent src part dst k 33 7
  else match cmdCheck x.spad 0 k, s.sentRows dst part k with
    | none, some rows =>
      if s.queueFull dst 0 then s.push (.mmsendReceive id)
      else
        let r := registerSent src part dst rows (s.dropOp id) []
        ({ r.1 with nextId := r.1.nextId + 1 }).enqueue dst { k with id := r.1.nextId, rows := r.2 }
    | _, _ => (s.dropOp id).refuseSent src part dst k 33 7

end State

/-! ### The instruction -/

/-- mmsend (R142). -/
def execMmsend (rs1 rs2 : Nat) (s : State) : Out :=
  let addr := s.xr rs1
  .next (if addr.toNat % 64 ≠ 0 then s.trap 4 addr
    else s.loadMany addr 8 fun t vs => t.mmsendWith addr (s.xr rs2) ((encode (.mmsend rs1 rs2)).getD 0) vs)

/-! ### The events -/

/-- ENGINE_COMMAND_START (R128): the head of the queue starts, or waits. -/
def execEngineCommandStart (c : CellId) (eng : Nat) (s : State) : Out :=
  .next (match (s.getCell c).ctx.queue eng with
    | [] => s
    | k :: _ =>
      if k.result.isSome || s.enginesPaused c then s.push (.engineCommandStart c eng)
      else match k.instr with
        | .astat _ acc => (s.answer k.src k.part (.word (s.getAcc c acc).status)).endCommand c eng k
        | _ =>
          if s.startable c k then s.startHead c eng k
          else
            let s1 := s.push (.engineCommandStart c eng)
            if s.starved c k && !s.pool.contains (.srcStarved c eng) then s1.push (.srcStarved c eng) else s1)

/-- ENGINE_COMMAND_DONE (R129): what the started command writes becomes visible. -/
def execEngineCommandDone (c : CellId) (eng : Nat) (s : State) : Out :=
  .next (match (s.getCell c).ctx.queue eng with
    | [] => s
    | k :: _ =>
      match k.result with
      | none => s
      | some r => if wbit (s.getCell c).dbg 17 then s.push (.engineCommandDone c eng) else s.finishHead c eng k r)

/-- SRC_STARVED (R128): the head of the queue faults, but not while a debug halt pauses the engines (R287). -/
def execSrcStarved (c : CellId) (eng : Nat) (s : State) : Out :=
  .next (match (s.getCell c).ctx.queue eng with
    | [] => s
    | k :: _ =>
      if s.enginesPaused c then s.push (.srcStarved c eng)
      else if k.result.isNone && s.starved c k then s.faultHead c eng k 8 else s)

/-- BUFFERED_COMMAND_START (R157): an engine that holds no committed command may start a buffered one. It holds back every
architectural write, and what it stages is computed afresh when it commits. -/
def execBufferedCommandStart (c : CellId) (proc : Nat) (s : State) : Out :=
  .next (match (s.buffered c proc).find? fun b => !b.staged with
    | none => s
    | some b =>
      if ((s.getCell c).ctx.queue b.eng).isEmpty then
        s.updCtx c fun x => { x with commit := x.commit.map fun y => if y.cmd.id = b.cmd.id then { y with staged := true } else y }
      else s)

/-- COMMIT_BUFFER_COMMIT (R158): the hart's oldest open branch has resolved as predicted; the entries that wait for no other branch enter
their queues. While the branch cannot resolve, those that wait for none enter them all the same. A branch that has resolved otherwise is left
to COMMIT_BUFFER_DISCARD. A hart that was handed work by the flag meanwhile takes the branch again (R71; DEDUCED, log 5). -/
def execCommitBufferCommit (h : HartId) (s : State) : Out :=
  let part := (s.getCell h.cellId).ctx.part
  let v := s.getWho h part
  .next (match v.spec with
    | none => if (s.entriesOf h).isEmpty then s else s.moveCommitted h
    | some sp =>
      if !s.resolvable h v then s.moveCommitted h
      else if !s.specRight h.cellId sp then s.pushOnce (.commitBufferDiscard h)
      else if sp.handed then (s.goBack h part sp).moveCommitted h
      else (s.confirm h part).moveCommitted h)

/-- COMMIT_BUFFER_DISCARD (R158): the hart's oldest open branch has resolved otherwise; the entries with it in their tag and the registers
of the path go, and the hart takes the other path. A branch that has resolved as predicted is left to COMMIT_BUFFER_COMMIT. -/
def execCommitBufferDiscard (h : HartId) (s : State) : Out :=
  let part := (s.getCell h.cellId).ctx.part
  let v := s.getWho h part
  .next (match v.spec with
    | none => s
    | some sp =>
      if !s.resolvable h v || s.specRight h.cellId sp then s.pushOnce (.commitBufferCommit h)
      else
        let t := (s.updCtx h.cellId fun x => { x with commit := x.commit.filter fun b => !decide (b.cmd.src = h) || b.tag == 0 }).updWho h part
          fun v => State.Hart.mispredicted v sp
        if (t.entriesOf h).isEmpty then t else t.pushOnce (.commitBufferCommit h))

/-- WORD_WRITE (R139): a drain's row reaches its home and is written as a posted store is; its acknowledgement follows. -/
def execWordWrite (id : Nat) (s : State) : Out :=
  .next (match s.getOp id with
    | some (.row h part cls cell va seg lock (some bytes) _) =>
      if s.flipping seg.qa then s.push (.wordWrite id)
      else if s.hostGone seg.qa then
        (((s.unlock id).logCell cell true 52 0 0 part (h.hart % 32)).setOp id
          (.row h part cls cell va seg lock (some bytes) true)).send seg.home.pkg cell.pkg 1 (.postAck id)
      else
        ((s.storeBytes h part va seg bytes).setOp id (.row h part cls cell va seg lock (some bytes) true)).send
          seg.home.pkg cell.pkg 1 (.postAck id)
    | _ => s)

/-- An older sent command of the same hart to the same cell is still under way (R142). -/
def State.matrixAhead (s : State) (id : Nat) (src : HartId) (dst : CellId) : Bool :=
  s.ops.any fun o => decide (o.1 < id) && (match o.2 with
    | .matrix src' _ dst' _ _ => decide (src' = src) && decide (dst' = dst)
    | _ => false)

/-- MMSEND_RECEIVE (R143): a hart's commands reach a cell in program order (R142). -/
def execMmsendReceive (id : Nat) (s : State) : Out :=
  .next (match s.getOp id with
    | some (.matrix src part dst cap k) =>
      if s.matrixAhead id src dst then s.push (.mmsendReceive id) else s.receiveMatrix id src part dst cap k
    | _ => s)

end Sys2Proof.Machine
end

