-- ==== Sys2Proof/Machine/Control.lean ====
section
/-!
DEFINITION. Hardware loops, retirement, priority and membership (R72, R85 to R89), the tiles of a service context (R281), and
the taking of interrupts and imprecise exceptions (R63, R277).
-/
namespace Sys2Proof.Machine

namespace State

/-! ### The end of a hart (R85, R86) -/

/-- Scratch blocks open to a context return to EMPTY (R109). -/
def closeTiles (s : State) (h : HartId) (part : Nat) : State :=
  match s.ctxFor h.cellId part with
  | none => s
  | some x =>
    let s1 := s.updCtxFor h.cellId part fun x => { x with
      tiles := x.tiles.map fun p => if p.2.st = .filling ∧ p.2.opener = some h.hart then (p.1, Tile.reset) else p }
    if x.tiles.any fun p => p.2.st == .filling && p.2.opener == some h.hart then s1.wakeTiles h.cellId part else s1

/-- The last running hart of the cell has ended (R85): retention is decided, and the cell can report done. -/
def lastHart (s : State) (c : CellId) (retain : Bool) (succ : Nat) : State :=
  if s.allHalted c then
    let lpb := (s.gangOf c).map fun g => g.lpb
    let r := (lpb.any fun l => l.retain) || retain
    (s.updCtx c fun x => { x with
      lastHalted := true
      retainBit := r
      succ := if retain then succ else (lpb.map fun l => l.succ).getD 0 }).push (.cellDone c)
  else s

/-- The context of a gang hart is freed with a status; an imprecise exception that it has not taken is logged (R277, R321). -/
def freeHart (s : State) (h : HartId) (st : HartStatus) : State :=
  let s1 := match (s.getHart h).imprecise with
    | some r => (s.missedException h (s.getCell h.cellId).ctx.part r).updHart h fun v => { v with imprecise := none }
    | none => s
  (s1.updHart h fun v => { v.settle with status := st, loop := none }).dropResv h

/-- `halt` of a gang hart once its stores are done. -/
def haltHart (s : State) (x1 : Word) : State :=
  let h := s.cur
  let part := s.ctx.part
  (((s.closeTiles h part).leaveGang h part).freeHart h .halted).lastHart h.cellId (wbit x1 0) (fld x1 32 32)

/-! ### Grants that land (R213, R215) -/

/-- A hart's operation is answered and ends. -/
def closeOp (s : State) (id : Nat) (h : HartId) (part : Nat) (a : Answer) : State := (s.answer h part a).dropOp id

/-- The cell of a hart still holds the partition of a request (R285): otherwise its answer does not touch the L1. -/
def isActive (s : State) (h : HartId) (part : Nat) : Bool := (s.getCell h.cellId).ctx.part == part

/-- A store that was registering has performed: its hart is answered, or has gone on already. -/
def endStore (s : State) (id : Nat) (a : Access) (retired : Bool) : State :=
  if retired then (s.dropOp id).settleTracked a.hart a.part else s.closeOp id a.hart a.part .done

/-- A grant reaches its cell, which owns the word and writes the store that waited for it. -/
def landGrant (s : State) (id : Nat) (a : Access) (val v : Word) (retired : Bool) : State :=
  let c := a.hart.cellId
  let w := wordOf a.qa
  if s.isActive a.hart a.part then
    let base := match s.l1Get c w with
      | some ⟨true, d⟩ => d
      | _ => v
    (s.writeOwned c a.hart w base (Access.mask a) (Access.place a val)).endStore id a retired
  else ((s.homeWord w (mergeWord v (Access.mask a) (Access.place a val))).loseResv w none).endStore id a retired

/-- The grants of words that are on their way reach their cells. -/
def landGrants (s : State) (hit : Nat → Bool) : State :=
  s.ops.foldl (fun t o => match o.2 with
    | .register a val (some (.word v)) r => if hit (wordOf a.qa) then t.landGrant o.1 a val v r else t
    | _ => t) s

/-- A tracked word enters LOST. A grant of it that is on its way reaches its cell first, and the owner's copy is of no more use: the cell
gives it up (DEDUCED, log 33). -/
def strikeWord (s : State) (w : Nat) : State :=
  let s1 := s.landGrants fun x => x == w
  let s2 := match lookup w s1.words with
    | some (.registered o) => s1.l1Drop o w
    | _ => s1
  s2.loseWord w (s2.homeOf kTracked w)

/-- Entries of the tracker that a processor of the cell uses, those of contexts that a service context has pre-empted among them. -/
def tracked (s : State) (c : CellId) (proc : Nat) : Nat :=
  (s.harts.filter fun p => decide (p.1.cellId = c) && decide (p.2.status = .tracked) && procOf p.1.hart == proc).length +
    ((s.getCell c).preempted.filter fun p => decide (p.2.status = .tracked) && procOf p.1 == proc).length

/-! ### The tiles of a service context (R281) -/

/-- The physical address of a tile's place in the save area of a cell, qualified (R280). -/
def tileSave (s : State) (c : CellId) (t : Nat) : Nat :=
  c.pkg * pkgSpan + (s.getCell c).csave.toNat + 65536 + 8192 * t

/-- A tile as the save area holds it: raw values, latch, status word, the flag L. -/
def tileBytes (t : AccTile) : List Byte :=
  natToBytes 4096 (packElems 32 (t.values.map rnWord)) ++
    natToBytes 64 (packElems 8 (if t.latched then t.ea ++ t.eb else List.replicate 64 0x7F)) ++
    natToBytes 8 t.status.toNat ++ natToBytes 1 (if t.latched then 1 else 0)

/-- A tile from the 4,169 bytes of its place in the save area: its values are added into a zeroed tile (R281). -/
def tileOf (bs : List Byte) : AccTile :=
  let raw := elemsFrom 32 1024 (bytesToNat (bs.take 4096))
  let ex := ((bs.drop 4096).take 64).map fun b => b.toNat
  { vals := (AccTile.reset.addValues (raw.map rnUnword)).vals, status := BitVec.ofNat 64 (bytesToNat ((bs.drop 4160).take 8))
    latched := (bs.getD 4168 0).toNat % 2 == 1, ea := ex.take 32, eb := ex.drop 32 }

/-- The tiles a CTXCTL value names. -/
def ctlTiles (ctl : Word) : List Nat := (List.range 16).filter fun t => wbit ctl (32 + t)

/-- Bytes at a physical address are written at their home: registered words are taken back first, a word written whole is LOST
no longer, one written in part stays LOST as it is, and reservations of the words are lost (R280, R214). -/
def physWrite (s : State) (qa : Nat) (bs : List Byte) : State :=
  let g : Seg := ⟨qa, bs.length, kTracked, stackDie qa, kTracked⟩
  let hit := fun w : Nat => decide (wordOf qa ≤ w) && decide (w < qa + bs.length)
  let whole := fun w : Nat => decide (qa ≤ w) && decide (w + 8 ≤ qa + bs.length)
  let s0 := s.landGrants hit
  let s1 := (s0.ownedWords g).foldl (fun t p => t.recallWord p.2 p.1) s0
  let kept := (pieceWords qa bs.length).filter fun w => !whole w && decide (lookup w s1.words = some .lost)
  let s2 := { s1 with mem := kept.foldl (fun m w => m.setWord w (s1.mem.word w)) (s1.mem.writeBytes qa bs)
                      words := s1.words.filter fun p => !(decide (p.2 = .lost) && whole p.1)
                      badWords := s1.badWords.filter fun w => !whole w
                      resvs := s1.resvs.filter fun r => !hit r.2.1 }
  kept.foldl (fun t w => t.logDie (t.homeOf kTracked w) true 49 (paOf w / 8) 0 0 0) s2

/-- The bytes at a physical address as their homes hold them; none when a word is LOST or holds an uncorrectable error. -/
def physRead (s : State) (qa n : Nat) : Option (List Byte) :=
  let g : Seg := ⟨qa, n, kTracked, stackDie qa, kTracked⟩
  if s.lostIn g || s.badIn g then none
  else some ((List.range n).map fun i =>
    BitVec.ofNat 8 (fld ((s.pte (wordOf (qa + i))).getD 0) (8 * ((qa + i) % 8)) 8))

/-- A word at a physical address as its home holds it; of one that is LOST, or holds an uncorrectable error, no rule states what the
restoring of a tile finds (log 12). -/
def physWord (s : State) (w : Nat) : Word :=
  match s.physRead w 8 with
  | some bs => BitVec.ofNat 64 (bytesToNat bs)
  | none => BitVec.ofNat 64 (Config.unstated 62 s.tick w)

/-- The place of a gang context of a slot in the save area of its cell (R280). -/
def saveBase (s : State) (h : HartId) : Nat :=
  h.pkg * pkgSpan + (s.getCell h.cellId).csave.toNat + 1024 * (16 * procOf h.hart + 2 * (h.hart % 8))

/-- What the control granule holds of a context: all but what goes on counting, becomes pending or is raised by engines while it is evicted (R280). -/
def controlFields (v : Hart) : List Nat :=
  let c := v.csr
  [v.pc.toNat, if v.mode = .m then 1 else 0, v.prio] ++
  [c.mstatus, c.mie, c.mtvec, c.mcounteren, c.mscratch, c.mepc, c.mcause, c.mtval, c.minstret, c.mxFmt, c.mxAexp, c.mxBexp,
    c.mxDrn, c.mxCapout, c.veRm, c.veAtol, c.veRtol, c.msScope, c.repState, c.cvScale, c.veS, c.veC, c.veFbase,
    c.efPtr].map (fun w => w.toNat) ++ v.bars.flatMap (fun b => [b.1, b.2]) ++ [v.baranyPtr]

/-- The control granule of a context, in the implementation's layout with its check word (log 10). -/
def controlBytes (v : Hart) : List Byte := (List.range 256).map (Config.controlByte (controlFields v))

/-- The named tiles are saved and zeroed. -/
def saveTiles (s : State) (c : CellId) (ts : List Nat) : State :=
  ts.foldl (fun u t => (u.physWrite (u.tileSave c t) (tileBytes (u.getAcc c t))).setAcc c t AccTile.reset) s

/-- The named tiles are restored exactly as they were saved, whatever the service context left in them (R281). -/
def restoreTiles (s : State) (c : CellId) (ts : List Nat) : State :=
  ts.foldl (fun u t =>
    let bs := (List.range 522).flatMap fun i => natToBytes 8 (u.physWord (u.tileSave c t + 8 * i)).toNat
    u.setAcc c t (tileOf bs)) s

/-! ### Groups of a rank (R89) -/

/-- The groups a rank belongs to, ascending, group 0 first. -/
def groupsOf (g : Gang) (rank : Nat) : List Nat :=
  0 :: ((List.range 256).filter fun i => match lookup i g.lpb.groups with
    | some rs => i != 0 && rs.contains rank
    | none => false)

/-! ### Interrupts (R63) -/

/-- The hart stands where an interrupt or imprecise exception may be taken: between instructions, or in a wait that an
interrupt abandons (R70, R277); its cell is not in debug halt (R287). -/
def interruptible (s : State) (h : HartId) : Bool :=
  let v := s.getHart h
  decide (v.status = .running) && v.spec.isNone && !wbit (s.getCell h.cellId).dbg 17 &&
    match v.wait with
    | some w => w.abandon
    | none => v.answer.isNone && v.op.isNone && !v.stalled

/-- The interrupt a hart takes next, if R63 allows one. -/
def pendingInterrupt (s : State) (h : HartId) : Option Nat :=
  let v := s.getHart h
  let on := s.mipOf h &&& v.csr.mie
  if v.mode = .u ∨ wbit v.csr.mstatus 3 then [11, 3, 19, 18, 17, 16].find? fun c => wbit on c else none

/-- The name of the context that stands on a slot. -/
def nameOf (s : State) (h : HartId) : HartId := if (s.getHart h).service then { h with hart := h.hart + 32 } else h

/-- The loads that a context has under way, and its place in the miss table, are given up with the instruction that made them (R161). -/
def dropLoads (s : State) (n : HartId) (part : Nat) : State :=
  { s with
    ops := s.ops.filter fun o => match o.2 with
      | .load a _ _ => !(decide (a.hart = n) && a.part == part)
      | _ => true
    dies := s.dies.map fun d => (d.1, { d.2 with misses := d.2.misses.map fun m =>
      if m.part = part then { m with waiting := m.waiting.filter fun h => !decide (h = n) } else m }) }

/-- A SWAP of a front end, still in progress, waits for the swap of a cell (R282). -/
def swapJoined (s : State) (c : CellId) : Bool :=
  s.dies.any fun d => d.2.queues.any fun q => q.2.running.any fun r => r.2.finish.isNone && r.2.swaps.contains c

/-- A hart leaves its wait with no effect but what its entry says is done (R70, R77, R161); a swap that a `pswap` asked for
and that has not happened is called off, unless a SWAP has joined it. -/
def abandonWait (s : State) (h : HartId) : State :=
  let v := s.getHart h
  let n := s.nameOf h
  let s1 := match v.op with
    | some (.asked id) => s.dropOp id
    | _ => s
  let s2 := s1.updCtx h.cellId fun x => leaveLists x n.hart
  let part := (s.getCell h.cellId).ctx.part
  let calledOff := fun (p : CellId × Cell) =>
    if p.2.swapWaiter = some (n, part) then (p.1, { p.2 with swap := if s.swapJoined p.1 then p.2.swap else 0, swapWaiter := none }) else p
  let t := s2.dropLoads n part
  let s3 := { t with cells := s2.cells.map calledOff
                     hqWaiters := s2.hqWaiters.filter fun w => !(decide (w.2.1 = n) && w.2.2 == part) }
  s3.updHart h fun w => { w.settle with resumed := match v.op, v.wait with
    | some .arrived, some ⟨.barrier b, _⟩ => b :: w.resumed
    | _, _ => w.resumed }

/-! ### Contexts that end without a `halt` of theirs, and service contexts that end (R278, R280) -/

/-- A gang context is treated as halted (R280): it leaves its wait, and ends as `halt` ends it. -/
def treatHalted (s : State) (h : HartId) : State :=
  let part := (s.getCell h.cellId).ctx.part
  let s1 := s.abandonWait h
  (((s1.closeTiles h part).leaveGang h part).freeHart h .halted).lastHart h.cellId false 0

/-- A context as it becomes resident again: an evicted one has its control granule back at once, and the granules of its
registers are absent; where the check word fails it is treated as halted, and none is there to restore (R280). The check word is
taken to fail for bytes that were changed (log 10). -/
def residentAgain (s : State) (h : HartId) (g : Hart) : State :=
  if !g.evicted then s.setHart h g
  else if s.physRead (s.saveBase h + 768) 256 = some (controlBytes g) then
    s.setHart h { g with evicted := false }
  else
    let part := (s.getCell h.cellId).ctx.part
    ((s.setHart h { g with evicted := false }).logCell h.cellId true 56 h.hart 0 part h.hart).treatHalted h

/-- What a service context that has halted leaves under way goes by a name that no context answers to, so that a later service context on its slot
is told nothing of it (R277). -/
def endedName (h : HartId) : HartId := { h with hart := h.hart + 64 }

/-- A command by its new issuer. -/
def Cmd.renamed (o n : HartId) (k : Cmd) : Cmd := if k.src = o then { k with src := n } else k

/-- A cell's commands and chains by their new issuer. -/
def CellCtx.renamed (o n : HartId) (x : CellCtx) : CellCtx :=
  { x with
    mq := x.mq.map (Cmd.renamed o n), vq := x.vq.map (Cmd.renamed o n), cq := x.cq.map (Cmd.renamed o n)
    commit := x.commit.map fun b => { b with cmd := Cmd.renamed o n b.cmd }
    chans := x.chans.map fun p => (p.1, if p.2.owner = some o then { p.2 with owner := some n } else p.2) }

/-- The commands, sent commands and chains of a service context that has halted are renamed (R277). -/
def leaveName (s : State) (o : HartId) : State :=
  let n := endedName o
  let op := fun q : Op => match q with
    | .matrix src p dst cap k => if src = o then Op.matrix n p dst cap (Cmd.renamed o n k) else q
    | q => q
  let t := { s with
    ops := s.ops.map fun (q : Nat × Op) => (q.1, op q.2)
    cells := s.cells.map fun (p : CellId × Cell) => (p.1, { p.2 with
      ctx := CellCtx.renamed o n p.2.ctx, berth := p.2.berth.map fun (b : CellCtx × List (Nat × Hart)) => (CellCtx.renamed o n b.1, b.2) }) }
  if (t.getCell o.cellId).ctx.commit.any fun b => decide (b.cmd.src = n) then t.pushOnce (.commitBufferCommit n) else t

/-- A service context halts (R278): an exception still pending is logged; the gang context is resident again. -/
def endService (s : State) : State :=
  let c := s.myCell
  let n := s.cur.hart
  let part := s.ctx.part
  let s0 := match s.me.imprecise with
    | some r => s.logCell c true 48 r.seq 0 part n
    | none => s
  let s1 := ((s0.closeTiles s0.who part).freeMutexes s0.who part).dropResv s0.who
  let v := s1.getCell c
  let g := (lookup n v.preempted).getD Hart.reset
  let s2 := s1.setCell c { v with preempted := erase n v.preempted, savedTiles := erase n v.savedTiles }
  ((s2.residentAgain s.cur g).restoreTiles c ((lookup n v.savedTiles).getD [])).leaveName s.who

/-- `halt`, and `tail` where it waits as `halt` does. -/
def haltOp (s : State) (x1 : Word) : State :=
  if s.storesDone s.who s.ctx.part then (if s.me.service then s.endService else s.haltHart x1)
  else s.await .retry false

/-- Trap entry of a hart for an interrupt or imprecise exception. -/
def asyncTrap (s : State) (h : HartId) (intr : Bool) (c : Nat) (tval : Word) : State :=
  let s1 := s.abandonWait h
  (s1.updHart h fun v => v.trapped intr c v.pc tval).dropResv (s.nameOf h)

/-- An interrupt is taken; trap entry clears the bits that it clears (R276). -/
def takeInterrupt (s : State) (h : HartId) (c : Nat) : State :=
  (s.asyncTrap h true c 0).updHart h fun v => { v with csr := { v.csr with mip := v.csr.mip &&& ~~~(BitVec.ofNat 64 (2 ^ c)) } }

/-! ### Imprecise exceptions (R277) -/

/-- A hart may take its pending imprecise exception: a gang hart in U mode, a service context with MIE set. -/
def impreciseDue (s : State) (h : HartId) : Bool :=
  let v := s.getHart h
  v.imprecise.isSome && s.interruptible h && (if v.service then wbit v.csr.mstatus 3 else v.mode == .u)

/-- The eight words of the fault record. -/
def recordWords (r : FaultRecord) : List Word :=
  [BitVec.ofNat 64 (r.cause + r.sub * 2 ^ 8 + r.src * 2 ^ 16 + r.ovf * 2 ^ 24 + r.seq % 2 ^ 32 * 2 ^ 32), r.addr, r.tgt,
   BitVec.ofNat 64 r.insn, 0, 0, 0, 0]

/-- Where the record at ef.ptr goes: none when it cannot be written, its home being unreachable among other things (R277). -/
def recordPlace (s : State) (h : HartId) : Option Seg :=
  let v := s.getHart h
  let va := v.csr.efPtr
  let part := (s.getCell h.cellId).ctx.part
  if va = 0 then none
  else match s.translateFor h.dieId part h.pkg va with
    | none => none
    | some e =>
      let qa := e.phys va.toNat
      let k := s.kindAt e qa
      let g : Seg := ⟨qa, 64, k, s.homeOf k qa, e.kind⟩
      if !leafAllows .store v.mode e || physFault e qa || e.kind == kBlock || s.lockHit g.home part va.toNat 64
        || s.lostIn g || s.hostGone qa || (g.home.pkg != h.pkg && s.unreachable h.pkg g.home.pkg) then none
      else some g

/-- The record is written at its home, and the cell's copies of its words are INVALID, so that it has performed. -/
def writeRecord (s : State) (h : HartId) (g : Seg) (r : FaultRecord) : State :=
  let part := (s.getCell h.cellId).ctx.part
  let s1 := (s.ownedWords g).foldl (fun t p => t.recallWord p.2 p.1) s
  let s2 := (pieceWords g.qa 64).foldl (fun t w => t.l1Drop h.cellId w) s1
  s2.storeBytes h part (s.getHart h).csr.efPtr g ((recordWords r).flatMap fun w => natToBytes 8 w.toNat)

/-- The pending imprecise exception of a hart is taken. -/
def takeImprecise (s : State) (h : HartId) (r : FaultRecord) : State :=
  let clear := fun t : State => t.updHart h fun v => { v with imprecise := none }
  match s.recordPlace h with
  | some g => clear ((s.writeRecord h g r).asyncTrap h false r.cause (s.getHart h).csr.efPtr)
  | none =>
    clear ((s.logCell h.cellId true 48 r.seq 0 (s.getCell h.cellId).ctx.part h.hart).asyncTrap h false r.cause 0)

end State

/-! ### The instructions -/

/-- rep (R72). -/
def execRep (rs1 len stride mask : Nat) (s : State) : Out :=
  let n := fld (s.xr rs1) 0 32
  let start := s.me.pc + 4
  let l : Loop := { start := start, len := len + 1, stride := stride, mask := mask, rem := n, idx := 0, ofs := 0 }
  .next (if n = 0 then s.retireTo (start + BitVec.ofNat 64 (4 * (len + 1)))
    else (s.retireTo start).updMe fun h => { h with loop := some l, csr := { h.csr with repState := repShow l } })

/-- halt (R85). -/
def execHalt (rs1 : Nat) (s : State) : Out := .next (s.haltOp (s.xr rs1))

/-- tail (R86): illegal outside a launch with flag TEST; the context is freed at once when the tracker has room. -/
def execTail (s : State) : Out :=
  let test := (s.gangOf s.myCell).any fun g => g.lpb.test
  .next (if !test then s.illegal .tail
    else if s.me.service || s.storesDone s.who s.ctx.part && !s.copiesOut s.who s.ctx.part then s.haltOp 0
    else if 4 ≤ s.tracked s.myCell (procOf s.cur.hart) then s.await .retry false
    else ((s.closeTiles s.cur s.ctx.part).freeHart s.cur .tracked).lastHart s.myCell false 0)

/-- The key of a processor's round-robin pointer (R226). -/
def rrKey (h : HartId) (prio : Nat) : Nat := 4 * procOf h.hart + prio

/-- Move the round-robin pointer of a hart's level to the hart. -/
def State.moveRr (s : State) (h : HartId) : State :=
  s.updCell h.cellId fun c => { c with rr := store (rrKey h (s.getHart h).prio) h.hart c.rr }

/-- yield (R87). -/
def execYield (s : State) : Out := .next (s.retire.moveRr s.cur)

/-- grpq (R89). -/
def execGrpq (rd rs1 : Nat) (s : State) : Out :=
  .next (match s.gangOf s.myCell with
    | none => s.finish rd (BitVec.ofNat 64 (2 ^ 63))
    | some g =>
      let r := (s.xr rs1).toNat
      if g.cells.length ≤ r then s.finish rd (BitVec.ofNat 64 (2 ^ 63))
      else
        let gs := (State.groupsOf g r).take 4
        s.finish rd (BitVec.ofNat 64 (packElems 8 gs + gs.length * 2 ^ 32)))

/-- prio (R88): in U mode a level of 0 is stored as 1. -/
def execPrio (rs1 : Nat) (s : State) : Out :=
  let l := fld (s.xr rs1) 0 2
  .next ((s.updMe fun h => { h with prio := if h.mode = .u ∧ l = 0 then 1 else l }).retire)

/-! ### The events -/

/-- INTERRUPT_TAKEN (R63): the hart takes the interrupt that is first in order, if one is allowed and no imprecise exception comes before it
(R277). -/
def execInterruptTaken (h : HartId) (s : State) : Out :=
  .next (if s.interruptible h && !s.impreciseDue h then
      match s.pendingInterrupt h with
      | some c => s.takeInterrupt h c
      | none => s
    else s)

/-- IMPRECISE_EXCEPTION (R277): while a word of the record is held at its home, it comes later. -/
def execImpreciseException (h : HartId) (s : State) : Out :=
  .next (match (s.getHart h).imprecise with
    | none => s
    | some r =>
      if !s.impreciseDue h then s
      else match s.recordPlace h with
        | some g => if s.readHeld g then s.pushOnce (.impreciseException h) else s.takeImprecise h r
        | none => s.takeImprecise h r)

/-- HART_WAKE (R228): a hart parked by `wfi` whose condition holds goes on after it (R64). A hart that waits for anything else is ready as
soon as its condition holds, without an event. -/
def execHartWake (h : HartId) (s : State) : Out :=
  let v := s.getHart h
  .next (match v.wait with
    | some ⟨.interrupt, _⟩ =>
      if v.csr.mie &&& s.mipOf h ≠ 0 then s.updHart h fun w => { w with wait := none, answer := some .done } else s
    | _ => s)

end Sys2Proof.Machine
end

