-- ==== Sys2Proof/Machine/Coherence.lean ====
section
/-!
DEFINITION. The steps of word space away from the hart: what homes, owners and replicas do with the requests in flight (R59,
R60, R114, R115, R211 to R216, R219, R297).
-/
namespace Sys2Proof.Machine

namespace State

/-! ### Posts and stores written through (R114, R115, R213) -/

/-- The operation is acknowledged to its hart. -/
def sendAck (s : State) (id : Nat) (a : Access) : State := s.send a.home.pkg a.hart.pkg 1 (.postAck id)

/-- A post count falls by one. -/
def countDown (s : State) (h : HartId) (part cls : Nat) : State :=
  s.updWho h part fun v => setPostCount v cls (postCount v cls - 1)

/-- An operation of a hart is acknowledged: its count falls, and what waits for it goes on. -/
def acked (s : State) (id : Nat) (h : HartId) (part : Nat) (cls : Option Nat) : State :=
  let s1 := s.dropOp id
  let s2 := match cls with
    | some c => if c = 0 then s1 else s1.countDown h part c
    | none => s1
  s2.settleTracked h part

/-- A store or post of a cell is acknowledged: a VALID copy that the cell holds of its word then shows the word as it is at the
home after a base store of an untracked page (R213), and otherwise becomes INVALID, so that no older value is read after it
(R212). -/
def landed (s : State) (a : Access) (cls : Option Nat) : State :=
  let w := wordOf a.qa
  match s.l1Get a.hart.cellId w with
  | some ⟨false, _⟩ =>
    if cls = none ∧ a.kind = kUntracked then s.l1Set a.hart.cellId w ⟨false, s.mem.word w⟩ else s.l1Drop a.hart.cellId w
  | _ => s

/-- The new value that a post or store writes, over the word's present value. -/
def postValue (s : State) (a : Access) (mask val : Word) (add : Bool) : Word :=
  if add then s.mem.word (wordOf a.qa) + val else mergeWord (s.mem.word (wordOf a.qa)) mask val

/-- A store is sequenced: memory changes, reservations are lost but for `keep`'s, and for a replicated page the dies that have
still to apply it are listed; otherwise it has performed and is acknowledged. -/
def sequenceStore (s : State) (id : Nat) (a : Access) (cls : Option Nat) (mask val : Word) (add : Bool) (keep : Option HartId)
    (go : Nat → Event) : State :=
  let w := wordOf a.qa
  let m : Word := if add then -1 else mask
  let v := s.postValue a mask val add
  let s1 := ((s.applyStore w a.kind m v).loseResv w keep)
  if a.kind = kReplicated then
    let left := replicaDies (stackDie w)
    let s2 := s1.setOp id (.post a cls m v false left true)
    ({ s2 with replOrder := s2.replOrder ++ [(stackDie w, id)] }).pushAll (left.map go)
  else (s1.setOp id (.post a cls mask val add [] true)).sendAck id a

/-- One replica applies a sequenced store; when it is the last, the store has performed (R219). -/
def replicaStep (s : State) (id : Nat) (a : Access) (cls : Option Nat) (mask val : Word) (left : List Nat) (d : Nat) (again : Event) :
    State :=
  let w := wordOf a.qa
  if !left.contains d then s
  else if s.replBlocked (stackDie w) id d then s.push again
  else
    let s1 := s.applyReplica id d w mask val
    let left' := left.filter fun n => n != d
    let s2 := s1.setOp id (.post a cls mask val false left' true)
    if left'.isEmpty then { s2 with replOrder := s2.replOrder.filter fun p => p.2 != id }.sendAck id a else s2

/-- A write to host memory is discarded while the link is down, with an entry in its cell's log (R297, R321). -/
def discardHost (s : State) (id : Nat) (a : Access) (cls : Option Nat) (mask val : Word) (add : Bool) : State :=
  ((s.logCell a.hart.cellId true 52 0 0 a.part (a.hart.hart % 32)).setOp id (.post a cls mask val add [] true)).sendAck id a

/-- The home serves a post: it performs, or the word is first taken back from its owner (R114, R214). -/
def servePost (s : State) (id : Nat) (a : Access) (c : Nat) (mask val : Word) (add : Bool) : State :=
  let w := wordOf a.qa
  let seq := fun t : State => t.sequenceStore id a (some c) mask val add none fun _ => .postPerform id
  if s.hostGone a.qa then s.discardHost id a (some c) mask val add
  else if a.kind = kTracked then
    match lookup w s.words with
    | none => seq s
    | some .lost =>
      if a.size = 8 ∧ !add then seq { s with words := erase w s.words }
      else (s.logDropped a).setOp id (.post a (some c) mask val add [] true) |>.sendAck id a
    | some (.registered o) => ({ s with busy := store w id s.busy }).send a.home.pkg o.pkg 0 (.transferRecall o w)
  else seq s

/-- A post at its destination: served, or taken later. -/
def performPost (s : State) (id : Nat) (a : Access) (c : Nat) (mask val : Word) (add : Bool) : State :=
  if s.flipping a.qa || s.wordBusy (wordOf a.qa) (some id) || s.lockHit a.home a.part a.va.toNat a.size then s.push (.postPerform id)
  else s.servePost id a c mask val add

/-- A base store is written at the memory controller or sequencing die (R213). One that left its cell while the page was in host bias and
meets it in device bias is performed as a posted store is (R296; DEDUCED, log 20). -/
def serveStore (s : State) (id : Nat) (a : Access) (mask val : Word) : State :=
  let w := wordOf a.qa
  let seq := fun t : State => t.sequenceStore id a none mask val false (some a.hart) fun d => .storeWriteThrough id d
  if s.hostGone a.qa then s.discardHost id a none mask val false
  else if a.kind = kTracked then
    match lookup w s.words with
    | none => seq s
    | some .lost =>
      if a.size = 8 then seq { s with words := erase w s.words }
      else (s.logDropped a).setOp id (.post a none mask val false [] true) |>.sendAck id a
    | some (.registered o) => ({ s with busy := store w id s.busy }).send a.home.pkg o.pkg 0 (.transferRecall o w)
  else seq s

/-- A base store that was written through, where it is to be written: served, or taken later. -/
def performStore (s : State) (id : Nat) (a : Access) (mask val : Word) (die : Nat) : State :=
  if s.flipping a.qa || (a.kind == kTracked && s.wordBusy (wordOf a.qa) (some id)) then s.push (.storeWriteThrough id die)
  else s.serveStore id a mask val

/-! ### Requests at a home (R214) -/

/-- The home answers a registration: the answer is on its way to the cell. -/
def answerStore (s : State) (id : Nat) (a : Access) (val : Word) (retired : Bool) (ans : Answer) : State :=
  (s.setOp id (.register a val (some ans) retired)).send a.home.pkg a.hart.pkg 1 (.registrationGrant id)

/-- A home on the hart's package tells the hart that its store can be refused no longer, so that it goes on (R120, R319; log 4). -/
def letGo (s : State) (a : Access) (retired : Bool) : State :=
  if retired || decide (a.home.pkg ≠ a.hart.pkg) then s else s.answer a.hart a.part .done

/-- An access as the present bias of its page has it served (R292, R294). -/
def atBias (s : State) (a : Access) : Access :=
  { a with kind := if a.leaf != kBlock && s.hostBias.contains (a.qa / 4096) then kUntracked else a.leaf }

/-- The hart of a store goes on, or has gone on, before the store performs. -/
def goesOn (a : Access) (retired : Bool) : Bool := retired || decide (a.home.pkg = a.hart.pkg)

/-- A registration reaches the home of a page in host bias: nothing is registered, the store performs at the memory controller, and the
hart is told (R294). -/
def storeAtHome (s : State) (id : Nat) (a : Access) (val : Word) (retired : Bool) : State :=
  let w := wordOf a.qa
  ((s.applyStore w a.kind (Access.mask a) (Access.place a val)).loseResv w (some a.hart)).answerStore id a val retired .done

/-- A registration is granted. -/
def grant (s : State) (id : Nat) (a : Access) (val : Word) (v : Word) (retired : Bool) : State :=
  ((s.setWordState (wordOf a.qa) (.registered a.hart.cellId)).letGo a retired).answerStore id a val (goesOn a retired) (.word v)

/-- An atomic operation's answer goes back to its hart. -/
def answerAtomic (s : State) (id : Nat) (a : Access) (k : AtomicKind) (val : Word) (ans : Answer) : State :=
  if a.home.pkg = a.hart.pkg then s.closeOp id a.hart a.part ans
  else (s.setOp id (.atomic a k val (some ans))).send a.home.pkg a.hart.pkg 1 (.homeAtomicOp id)

/-- A registration is refused. A store whose hart has gone on waits where it meets a range that has been locked since, and one of a part of a
word that has become LOST since is dropped, as a post to the word is (R214; DESIGN CHOICE, log 4). -/
def refuseStore (s : State) (id : Nat) (a : Access) (val : Word) (retired : Bool) (cause : Nat) : State :=
  if !retired then s.answerStore id a val retired (.trap cause a.va)
  else if cause = 29 then (s.logDropped a).endStore id a retired
  else s.push (.registration id)

/-- The request in service goes on at its home once the word is there, with the word's value in memory, or is LOST (R214). -/
def resume (s : State) (id : Nat) : State :=
  let lost := fun a : Access => decide (lookup (wordOf a.qa) s.words = some .lost)
  match s.getOp id with
  | some (.register a val none r) =>
    if !lost a then s.grant id a val (s.mem.word (wordOf a.qa)) r
    else if a.size = 8 then s.grant id a val 0 r
    else s.refuseStore id a val r 29
  | some (.atomic a k val none) =>
    if lost a then s.answerAtomic id a k val (.trap 29 a.va)
    else
      let r := s.performAtomic a k val (s.mem.word (wordOf a.qa))
      r.2.answerAtomic id a k val (.word r.1)
  | some (.post a (some c) mask val add _ false) => s.servePost id a c mask val add
  | some (.post a none mask val _ _ false) => s.serveStore id a mask val
  | _ => s

/-- The home asks a word's owner for it. -/
def askOwner (s : State) (id : Nat) (a : Access) (o : CellId) : State :=
  let w := wordOf a.qa
  ({ s with busy := store w id s.busy }).send a.home.pkg o.pkg 0 (.transferRecall o w)

/-- The grant of a word is on its way to a cell. A registered word of which the owner holds no copy and awaits none is LOST, as an owner is
that was cut off (R214; DEDUCED, log 32). -/
def grantOut (s : State) (c : CellId) (w : Nat) : Bool :=
  s.ops.any fun o => match o.2 with
    | .register a _ (some (.word _)) _ => decide (a.hart.cellId = c) && wordOf a.qa == w
    | _ => false

/-- A word is no longer held at its home. -/
def freeBusy (s : State) (w : Nat) : State := { s with busy := erase w s.busy }

/-- A load's value reaches its cell. -/
def fill (s : State) (id : Nat) (a : Access) (inv : Bool) (v : Word) : State :=
  let c := a.hart.cellId
  let w := wordOf a.qa
  if s.isActive a.hart a.part then
    match s.l1Get c w with
    | some e => s.closeOp id a.hart a.part (.word e.data)
    | none => (if inv || s.servedValue c.dieId a.kind w != v then s else s.l1Set c w ⟨false, v⟩).closeOp id a.hart a.part (.word v)
  else s.closeOp id a.hart a.part (.word v)

/-! ### Home migration (R216) -/

/-- An access with its home replaced, when its word lies on the page. -/
def Access.moved (page : Nat) (d : DieId) (a : Access) : Access := if a.qa / 4096 = page then { a with home := d } else a

/-- A piece with its home replaced. -/
def Seg.moved (page : Nat) (d : DieId) (g : Seg) : Seg := if g.qa / 4096 = page then { g with home := d } else g

/-- An operation in flight follows a page to its new home. -/
def Op.moved (page : Nat) (d : DieId) : Op → Op
  | .load a i ans => .load (Access.moved page d a) i ans
  | .register a v ans r => .register (Access.moved page d a) v ans r
  | .atomic a k v ans => .atomic (Access.moved page d a) k v ans
  | .post a c m v ad l p => .post (Access.moved page d a) c m v ad l p
  | .row h p c cell va g lock b done => .row h p c cell va (Seg.moved page d g) lock b done
  | .copyWrite c ch p va g b => .copyWrite c ch p va (Seg.moved page d g) b
  | .lock c ch p lo hi gs l => .lock c ch p lo hi (gs.map (Seg.moved page d)) l
  | o => o

/-- A page holds a locked range. -/
def pageLocked (s : State) (page : Nat) : Bool :=
  let hit := fun g : Seg => g.qa / 4096 == page
  s.ops.any fun o => s.locks.any (fun l => l.op == o.1) && (match o.2 with
    | .row _ _ _ _ _ g _ _ _ => hit g
    | .lock _ _ _ _ _ gs _ => gs.any hit
    | _ => false)

/-- A leaf of some partition on the page's package maps the page with PIN set. -/
def pagePinned (s : State) (page : Nat) : Bool :=
  s.dies.any fun d => decide (d.1.pkg = page * 4096 / pkgSpan) && d.2.ptroot.any fun r =>
    fld r.2 0 1 == 1 && (s.leaves d.1 r.1 0 (2 ^ 57) 4 (fld r.2 12 40 * 4096) 0).any fun e =>
      e.pin && decide (e.pa ≤ page * 4096) && decide (page * 4096 < e.pa + e.size)

/-- The FE.POLICY register after reset: AGE 4,096, MIGEN 1, MIGPCT 75 (R265). -/
def policyReset : Word := 0x1000014B00000000

/-- FE.POLICY of a die. -/
def policy (s : State) (d : DieId) : Word := (lookup 0x1008 (s.getDie d).regs).getD policyReset

/-- A die draws the home of a page, which is on another die: migration is enabled at the page's home, and of the last registrations there the
die holds MIGPCT per cent, some of them of the page (R216, R265; that a page is drawn by such a registration is DEDUCED, log 34). -/
def draws (s : State) (page die : Nat) : Bool :=
  let home := s.homeOf kTracked (page * 4096)
  let l := (s.getDie home).recent
  let p := s.policy home
  decide (home ≠ ⟨page * 4096 / pkgSpan, die⟩) && wbit p 40 && l.contains (page, die) &&
    decide (fld p 32 8 * l.length ≤ 100 * (l.filter fun e => e.2 == die).length)

/-- A request for a word of a page. -/
def forPage (s : State) (page : Nat) (e : Event) : Bool := (s.span e).any fun r => r.1 / 4096 == page

/-- A page's home moves within its package (R305): its landing-table entry, the requests under way, and the reservations of its words. The
requests that were sent before are served at the new home in the order in which they were sent, before any later one. -/
def migrate (s : State) (page : Nat) (d : DieId) : State :=
  { s with
    pool := s.pool.filter fun e => !s.forPage page e
    held := s.held ++ (s.pool.filter fun e => s.forPage page e).map fun e => (page + 1, e)
    homes := if stackDie (page * 4096) = d then erase page s.homes else store page d s.homes
    ops := s.ops.map fun o => (o.1, Op.moved page d o.2)
    resvs := s.resvs.filter fun r => r.2.1 / 4096 != page }

end State

/-! ### The events -/

/-- LOAD_MISS (R214): at the home a load is answered, forwarded to the owner, refused, or taken later. -/
def execLoadMiss (id : Nat) (s : State) : Out :=
  .next (match s.getOp id with
    | some (.load a inv none) =>
      match s.serveLoad a (some id) with
      | .value v => s.answerLoad id a inv a.home.pkg (.word v)
      | .owner c => s.send a.home.pkg c.pkg 0 (.forward id)
      | .trap c => s.answerLoad id a inv a.home.pkg (.trap c a.va)
      | .later => s.push (.loadMiss id)
    | _ => s)

/-- REGISTRATION (R214): granted from HOME, after a transfer from the owner, or refused. To a cell that owns the word by now the home
answers that it does. A hart on the home's package goes on once its store can be refused no longer: it is granted, or it is of 8 bytes and
another cell owns the word, so that not even a LOST word refuses it (log 4). -/
def execRegistration (id : Nat) (s : State) : Out :=
  .next (match s.getOp id with
    | some (.register a val none r) =>
      match s.serveRegister a (some id) with
      | .value v => if a.kind = kTracked then s.grant id a val v r else s.storeAtHome id a val r
      | .trap c => s.refuseStore id a val r c
      | .later => s.push (.registration id)
      | .owner c =>
        if c = a.hart.cellId then
          match s.l1Get c (State.wordOf a.qa) with
          | some ⟨true, _⟩ => s.answerStore id a val r .done
          | _ => if s.grantOut c (State.wordOf a.qa) then s.push (.registration id)
            else (s.loseWord (State.wordOf a.qa) a.home).push (.registration id)
        else if a.size = 8 then ((s.letGo a r).setOp id (.register a val none (State.goesOn a r))).askOwner id a c
        else s.askOwner id a c
    | _ => s)

/-- HOME_ATOMIC_OP (R60, R214): an AMO, LR or SC is performed at the home, after a recall of the word where it is registered;
its answer then reaches the hart. -/
def execHomeAtomicOp (id : Nat) (s : State) : Out :=
  .next (match s.getOp id with
    | some (.atomic a _ _ (some ans)) => s.closeOp id a.hart a.part ans
    | some (.atomic a k val none) =>
      if s.hostGone a.qa then s.answerAtomic id a k val (.trap (if k = .lr then 5 else 7) a.va)
      else match s.serveAtomic a k (some id) with
        | .value v => let r := s.performAtomic a k val v; r.2.answerAtomic id a k val (.word r.1)
        | .trap c => s.answerAtomic id a k val (.trap c a.va)
        | .owner c => s.askOwner id a c
        | .later => s.push (.homeAtomicOp id)
    | _ => s)

/-- WRITE_BACK (R120, R214): the home takes a yielded word back to HOME; the cell keeps it VALID. -/
def execWriteBack (c : CellId) (w : Nat) (s : State) : Out :=
  .next (match s.l1Get c w with
    | some ⟨true, _⟩ =>
      if s.flipping w || s.wordBusy w none then s.push (.writeBack c w) else s.writeBackWord c w
    | _ => s)

/-- FORWARD (R213, R215): the owner answers with its value once it has the word. -/
def execForward (id : Nat) (s : State) : Out :=
  .next (match s.getOp id with
    | some (.load a inv none) =>
      let w := State.wordOf a.qa
      match lookup w s.words with
      | some (.registered c) =>
        match s.l1Get c w with
        | some ⟨true, d⟩ => s.answerLoad id a inv c.pkg (.supplied c d)
        | _ => if s.grantOut c w then s.push (.forward id)
          else (s.loseWord w a.home).answerLoad id a inv a.home.pkg (.trap 29 a.va)
      | some .lost => s.answerLoad id a inv a.home.pkg (.trap 29 a.va)
      | none => s.answerLoad id a inv a.home.pkg (.word (s.mem.word w))
    | _ => s)

/-- TRANSFER_RECALL (R213, R215): after the forwards sent before it, the owner supplies the word and gives it up; the request
that waited goes on. A transfer to another owner takes every reservation of the word, a recall none (R59). -/
def execTransferRecall (c : CellId) (w : Nat) (s : State) : Out :=
  .next (match lookup w s.busy with
    | none => s
    | some id =>
      if s.forwardsOut w then s.push (.transferRecall c w)
      else match lookup w s.words with
        | some (.registered o) =>
          match s.l1Get o w with
          | some ⟨true, d⟩ =>
            let s1 := (s.homeWord w d).l1Drop o w
            let s2 := match s.getOp id with
              | some (.register ..) => s1.loseResv w none
              | _ => s1
            (s2.freeBusy w).resume id
          | _ => if s.grantOut o w then s.push (.transferRecall c w)
            else ((s.loseWord w (s.homeOf kTracked w)).freeBusy w).resume id
        | _ => (s.freeBusy w).resume id)

/-- REGISTRATION_GRANT (R215): the cell owns the word and writes the store that waited, or the store is refused. A cell that was told that
it owns the word writes into its copy, or asks again, under the bias that its page has by then, when it has given the word up meanwhile. -/
def execRegistrationGrant (id : Nat) (s : State) : Out :=
  .next (match s.getOp id with
    | some (.register a val (some (.word v)) r) => s.landGrant id a val v r
    | some (.register a val (some .done) r) =>
      let w := State.wordOf a.qa
      if a.kind ≠ kTracked then (s.landed a none).endStore id a r
      else match s.l1Get a.hart.cellId w with
        | some ⟨true, d⟩ =>
          (s.writeOwned a.hart.cellId a.hart w d (State.Access.mask a) (State.Access.place a val)).endStore id a r
        | _ => (s.setOp id (.register (s.atBias a) val none r)).send a.hart.pkg a.home.pkg 0 (.registration id)
    | some (.register a _ (some ans) _) => s.closeOp id a.hart a.part ans
    | _ => s)

/-- L1_FILL (R213, R215): the load's value lands; the word becomes VALID unless it was invalidated in flight, or
has a newer value by now (R212). -/
def execL1Fill (id : Nat) (s : State) : Out :=
  .next (match s.getOp id with
    | some (.load a inv (some (.word v))) => s.fill id a inv v
    | some (.load a inv (some (.supplied _ v))) => s.fill id a inv v
    | some (.load a _ (some ans)) => s.closeOp id a.hart a.part ans
    | _ => s)

/-- CAPACITY_EVICTION (R213): a VALID word becomes INVALID; an OWNED one is written back. -/
def execCapacityEviction (c : CellId) (w : Nat) (s : State) : Out :=
  .next (match s.l1Get c w with
    | some ⟨true, _⟩ =>
      if s.flipping w || s.wordBusy w none then s else s.evictWord c w
    | some _ => s.l1Drop c w
    | none => s)

/-- STORE_WRITE_THROUGH (R213, R219): a base store reaches the memory controller or the sequencing die, or a replica applies
it. -/
def execStoreWriteThrough (id die : Nat) (s : State) : Out :=
  .next (match s.getOp id with
    | some (.post a none mask val _ _ false) => s.performStore id a mask val die
    | some (.post a none mask val _ left true) => s.replicaStep id a none mask val left die (.storeWriteThrough id die)
    | _ => s)

/-- HOME_MIGRATION (R216, R265): a page's home moves within its package to a die that draws it, unless the page is pinned; while it holds
a locked range or a word of it is between two owners, it stays. -/
def execHomeMigration (pkg page die : Nat) (s : State) : Out :=
  let p := pkg * (pkgSpan / 4096) + page
  .next (if !inHbm (p * 4096) || s.pagePinned p || decide (16 ≤ die) || !s.draws p die then s
    else if s.pageLocked p || s.busy.any fun b => b.1 / 4096 == p then s
    else s.migrate p ⟨pkg, die⟩)

end Sys2Proof.Machine
end

