-- ==== Sys2Proof/Machine/Tasks.lean ====
section
/-!
DEFINITION. The die's task scheduler (R181 to R186).
-/
namespace Sys2Proof.Machine

namespace State

/-! ### Task ids (R181) -/

/-- The die of a task id, on a package. -/
def taskDie (pkg id : Nat) : DieId := ⟨pkg, bitsOf id 16 4⟩

/-- The slot of a task id. -/
def taskSlot (id : Nat) : Nat := bitsOf id 0 14

/-- The task that an id names: none for bits that no id has, or a slot that holds no task. -/
def getTask (s : State) (pkg id : Nat) : Option Task :=
  if 2 ^ 20 ≤ id ∨ bitsOf id 14 2 ≠ 0 then none
  else (lookup (taskSlot id) (s.getDie (taskDie pkg id)).tasks).filter fun t => t.entered

/-- Put a task into its slot. -/
def setTask (s : State) (pkg id : Nat) (t : Task) : State :=
  s.updDie (taskDie pkg id) fun d => { d with tasks := store (taskSlot id) t d.tasks }

/-- Free a slot. -/
def freeTask (s : State) (pkg id : Nat) : State :=
  s.updDie (taskDie pkg id) fun d => { d with tasks := erase (taskSlot id) d.tasks }

/-- A task becomes ready on its die, and may become stealable after AGE (R184). -/
def makeReady (s : State) (pkg id : Nat) (t : Task) : State :=
  let d := s.getDie (taskDie pkg id)
  let s1 := (s.setTask pkg id { t with ready := some d.readyCount }).updDie (taskDie pkg id) fun d =>
    { d with readyCount := d.readyCount + 1 }
  if t.nosteal then s1 else s1.push (.taskStealable pkg id)

/-- The counter of a task changes, and its producer is recorded; none where R183 raises TASK. A producer numbered 64 and up is
a copy channel. -/
def addTask (s : State) (pkg id : Nat) (delta : Int) (producer : HartId) : Option State :=
  match s.getTask pkg id with
  | none => none
  | some t =>
    let n : Int := t.count + delta
    if t.ready.isSome || t.taken.isSome || n < 0 || 65535 < n then none
    else
      let t' := { t with count := n.toNat, producers := t.producers ++ [producer] }
      let s1 := s.setTask pkg id t'
      some (if n = 0 then s1.makeReady pkg id t' else s1)

/-- A cell lies in the extent of a scope measured from another cell (R177, R186). -/
def inExtent (g : Option Gang) (base : CellId) (scope grp : Nat) (c : CellId) : Bool :=
  match scope with
  | 0 => decide (c = base)
  | 1 => match g with
    | some v => (groupCells v grp).contains c
    | none => false
  | 2 => decide (c.dieId = base.dieId)
  | 3 => c.pkg == base.pkg
  | _ => true

/-- The posts of a producer that a release at a scope covers have performed, those of the completed records of a copy channel too, and so
have its base stores (R186). -/
def producerDone (s : State) (part scope : Nat) (p : HartId) : Bool :=
  let cover := s.coversAt p.cellId scope 0
  if 64 ≤ p.hart then !(s.ops.any fun o => match o.2 with
    | .copyWrite c ch pt _ g _ =>
      decide (c = p.cellId) && ch == p.hart - 64 && pt == part && cover.contains (classFrom c.dieId g.kind g.qa g.home)
    | _ => false)
  else !s.basePending p && cover.all fun c => s.postsOf (s.getWho p part) p part c == 0

/-! ### Spawning (R182) -/

/-- The rank that owns a task with this main operand. -/
def taskRank (aff : Word) (size : Nat) : Nat := (aff >>> 12 ^^^ aff >>> 24 ^^^ aff >>> 36).toNat % size

/-- The cell that owns a task spawned here. -/
def taskOwner (s : State) (aff : Word) : CellId :=
  match s.gangOf s.myCell with
  | some g => (g.cells[taskRank aff (max 1 g.cells.length)]?).getD s.myCell
  | none => s.myCell

/-- The task a record describes. -/
def recordTask (s : State) (va : Word) (ws : List Word) : Task :=
  let w := ws.getD 2 0
  { record := va, part := s.ctx.part, gang := s.ctx.gang.getD 0, owner := s.taskOwner (ws.getD 0 0), count := fld w 0 16
    scope := fld w 16 3, group := fld w 24 8, nosteal := wbit w 19, succ := fld w 32 32, ready := none, stealable := false
    taken := none, entered := false, producers := [s.who] }

/-- A record that `tspawn` refuses. -/
def recordBad (s : State) (ws : List Word) : Bool :=
  let w := ws.getD 2 0
  let succ := fld w 32 32
  decide (4 < fld w 16 3) || fld w 20 4 != 0 || fld (ws.getD 3 0) 32 32 != 0 ||
    (succ != 0xFFFFFFFF && (s.getTask s.cur.pkg succ).isNone)

/-- The release and the entering of a spawned task. -/
def spawnEnter (s : State) (rd id : Nat) : State :=
  match lookup (taskSlot id) (s.getDie (taskDie s.cur.pkg id)).tasks with
  | none => s.retire
  | some t => s.release t.scope t.group fun s =>
      let t' := { t with entered := true }
      let s1 := s.setTask s.cur.pkg id t'
      (if t.count = 0 then s1.makeReady s.cur.pkg id t' else s1).finish rd (BitVec.ofNat 64 id)

/-- The store of the id into the record; a store that traps gives the slot back. -/
def spawnStore (s : State) (rd id : Nat) (va : Word) : State :=
  let r := s.storeVA (va + 24) 4 (BitVec.ofNat 64 id) fun t => (t.note (.spawning id true)).spawnEnter rd id
  match r.me.op with
  | some _ => r
  | none => if (r.getTask r.cur.pkg id).isSome then r else r.freeTask r.cur.pkg id

/-- The free slots of a scheduler. -/
def freeSlots (s : State) (d : DieId) : List Nat :=
  let used := (s.getDie d).tasks.map fun p => p.1
  (List.range 16384).filter fun n => !used.contains n

/-- A slot is taken for the task, and its id is stored. -/
def spawnSlot (s : State) (rd : Nat) (va : Word) (t : Task) : State :=
  let d := t.owner.dieId
  let free := s.freeSlots d
  let id := d.die * 2 ^ 16 + free.getD (s.draw % free.length) 0
  ((s.setTask s.cur.pkg id t).note (.spawning id false)).spawnStore rd id va

/-! ### Taking (R184, R186) -/

/-- A task of the hart's gang that is ready and not taken. -/
def mayTake (s : State) (t : Task) : Bool := t.entered && some t.gang == s.ctx.gang && t.ready.isSome && t.taken.isNone

/-- Of the listed tasks the one that became ready first. -/
def oldest (l : List (Nat × Task)) : Option Nat :=
  (l.foldl (fun (a : Option (Nat × Nat)) p =>
    let n := p.2.ready.getD 0
    match a with
    | none => some (p.1, n)
    | some x => if n < x.2 then some (p.1, n) else some x) none).map fun x => x.1

/-- Ready tasks of a die that the hart's gang may take and `ok` allows, by id. -/
def readyOn (s : State) (die : Nat) (ok : Task → Bool) : List (Nat × Task) :=
  ((s.getDie ⟨s.cur.pkg, die⟩).tasks.filter fun p => s.mayTake p.2 && ok p.2).map fun p => (die * 2 ^ 16 + p.1, p.2)

/-- The task that `tnext` takes, if one is available. -/
def nextTask (s : State) : Option Nat :=
  let mine := fun t : Task => decide (t.owner = s.myCell)
  let steal := fun t : Task => t.stealable && !mine t
  match oldest (s.readyOn s.cur.die mine) with
  | some id => some id
  | none =>
    (s.cur.die :: (List.range 16).filter fun d => d != s.cur.die).findSome? fun d => oldest (s.readyOn d steal)

/-- The gang holds a spawned task that has not been taken. -/
def tasksLeft (s : State) : Bool :=
  (List.range 16).any fun d => (s.getDie ⟨s.cur.pkg, d⟩).tasks.any fun p =>
    p.2.entered && some p.2.gang == s.ctx.gang && p.2.taken.isNone

/-- The hand-over of a taken task: at its own scope, or, across it, at the promoted one once its producers are settled. -/
def handOver (s : State) (rd id : Nat) : State :=
  match s.getTask s.cur.pkg id with
  | none => s.finish rd 0
  | some t =>
    if inExtent (s.gangOf s.myCell) t.owner t.scope t.group s.myCell then (s.acquire t.scope).finish rd t.record
    else
      let up := if t.owner.dieId = s.cur.dieId then 2 else 3
      if t.producers.all fun p => s.producerDone t.part up p then (s.acquire up).finish rd t.record else s.await .retry false

/-- A task passes to the hart. -/
def takeTask (s : State) (rd id : Nat) : State :=
  match s.getTask s.cur.pkg id with
  | none => s
  | some t => ((s.setTask s.cur.pkg id { t with taken := some s.who }).note (.asked id)).handOver rd id

/-! ### Ending (R185) -/

/-- A task is freed and its successor, if any, counts down. -/
def endTask (s : State) (id : Nat) (t : Task) : State :=
  let s1 := s.freeTask s.cur.pkg id
  if t.succ = 0xFFFFFFFF then s1.retire
  else match s1.addTask s.cur.pkg t.succ (-1) s.who with
    | some s2 => s2.retire
    | none => s1.trap 35 (BitVec.ofNat 64 t.succ)

end State

/-! ### The instructions -/

/-- tspawn (R182). -/
def execTspawn (rd rs1 : Nat) (s : State) : Out :=
  let va := s.xr rs1
  .next (match s.me.op with
    | some (.spawning id true) => s.spawnEnter rd id
    | some (.spawning id false) => s.spawnStore rd id va
    | _ =>
      if va.toNat % 64 ≠ 0 then s.trap 6 va
      else if inWindow va then s.trap 27 va
      else s.withPage .load s.cur.pkg va fun s e qa =>
        if s.kindAt e qa ≠ kTracked then s.trap 27 va
        else s.loadMany va 4 fun s ws =>
          if s.recordBad ws then s.trap 35 va
          else
            let t := s.recordTask va ws
            if 16384 ≤ (s.getDie t.owner.dieId).tasks.length then s.await .retry true else s.spawnSlot rd va t)

/-- tdep (R183). -/
def execTdep (rs1 rs2 : Nat) (s : State) : Out :=
  let id := s.xr rs1
  .next (match s.getTask s.cur.pkg id.toNat with
    | none => s.trap 35 id
    | some t => s.release t.scope t.group fun s =>
        match s.addTask s.cur.pkg id.toNat (s.xr rs2).toInt s.who with
        | some s' => s'.retire
        | none => s.trap 35 id)

/-- tdone (R185): it releases at the task's scope, and at its successor's as `tdep` would. -/
def execTdone (rs1 : Nat) (s : State) : Out :=
  let id := s.xr rs1
  .next (match s.getTask s.cur.pkg id.toNat with
    | none => s.trap 35 id
    | some t =>
      if t.taken ≠ some s.who then s.trap 35 id
      else s.release t.scope t.group fun s =>
        match s.getTask s.cur.pkg t.succ with
        | some u => s.release u.scope u.group fun s => s.endTask id.toNat t
        | none => s.endTask id.toNat t)

/-- tnext (R184). -/
def execTnext (rd : Nat) (s : State) : Out :=
  .next (match s.me.op with
    | some (.asked id) => s.handOver rd id
    | _ => match s.nextTask with
      | some id => s.takeTask rd id
      | none => if s.tasksLeft then s.await .retry true else s.finish rd 0)

/-! ### The event -/

/-- TASK_STEALABLE (R184): a task has waited AGE cycles. -/
def execTaskStealable (pkg task : Nat) (s : State) : Out :=
  .next (match s.getTask pkg task with
    | some t =>
      if t.ready.isSome && t.taken.isNone && !t.nosteal then
        s.setTask pkg task { t with stealable := true }
      else s
    | none => s)

end Sys2Proof.Machine
end

