-- ==== Sys2Proof/Machine/HwQueues.lean ====
section
/-!
DEFINITION. Hardware queues (R175 to R180), performed at the home of the descriptor.
-/
namespace Sys2Proof.Machine

/-- A queue descriptor as memory holds it (R175). -/
structure Hq where
  ring : Word
  ctl : Word
  rsv : Word
  pub : Word
  pop : Word
  pend : Word
  creator : Word
  last : Word
  deriving DecidableEq, Repr

namespace Hq

/-- Tickets count modulo 2^48. -/
abbrev span : Nat := 2 ^ 48

/-- LOG2CAP as the number of entries. -/
def cap (q : Hq) : Nat := 2 ^ fld q.ctl 0 5

/-- SCOPE and GROUP. -/
def scope (q : Hq) : Nat := fld q.ctl 8 3
def group (q : Hq) : Nat := fld q.ctl 16 8

/-- MADE. -/
def made (q : Hq) : Bool := wbit q.ctl 32

/-- How far ticket `a` lies ahead of ticket `b`. -/
def ahead (a b : Nat) : Nat := (a + span - b % span) % span

/-- The cell of CREATOR. -/
def cell (q : Hq) : CellId := ⟨fld q.creator 17 6, fld q.creator 13 4, fld q.creator 5 8⟩

/-- A CTL field or a reserved field is invalid, or RING is misaligned (R176). -/
def invalid (q : Hq) : Bool :=
  fld q.ctl 33 31 != 0 || fld q.ctl 24 8 != 0 || fld q.ctl 11 5 != 0 || fld q.ctl 5 3 != 0 || decide (4 < q.scope) ||
    decide (fld q.ctl 0 5 < 3) || decide (20 < fld q.ctl 0 5) || q.last != 0 || q.ring.toNat % (8 * q.cap) != 0

/-- The VA of the entry that a ticket occupies (R178). -/
def entryVa (q : Hq) (t : Nat) : Word := q.ring + BitVec.ofNat 64 (8 * (t % q.cap))

/-- PEND and PUB once every published ticket at the front is counted (R179). -/
def advance : Nat → Word → Nat → Word × Nat
  | 0, pend, pub => (pend, pub)
  | n + 1, pend, pub => if wbit pend 0 then advance n (pend >>> 1) ((pub + 1) % span) else (pend, pub)

end Hq

namespace State

/-- The descriptor at a qualified address. -/
def hqAt (s : State) (qa : Nat) : Hq :=
  let w := fun i => s.mem.word (qa + 8 * i)
  ⟨w 0, w 1, w 2, w 3, w 4, w 5, w 6, w 7⟩

/-- Write a word of a descriptor at its home. -/
def hqSet (s : State) (qa i : Nat) (v : Word) : State :=
  ({ s with mem := s.mem.setWord (qa + 8 * i) v }).loseResv (qa + 8 * i) none

/-- A queue operation at the home of the descriptor at `va`: its page and lock are checked, and registrations of its words are
taken back (R175); it waits while the home holds a word of it. A word of it with an uncorrectable error is an access fault of its load, as for
an AMO (R317; DEDUCED, log 33). -/
def withQueue (s : State) (va : Word) (k : State → Nat → State) : State :=
  if inWindow va then s.trap 27 va
  else s.withPage .amo s.cur.pkg va fun s e qa =>
    if s.kindAt e qa ≠ kTracked then s.trap 27 va
    else
      let g : Seg := ⟨qa, 64, kTracked, s.homeOf kTracked qa, e.kind⟩
      if (pieceWords qa 64).any (s.cellPending s.who) || s.readHeld g then s.await .retry false
      else if s.badIn g then s.trap 5 va
      else if s.lockHit g.home s.ctx.part va.toNat 64 then s.trap 28 va
      else if s.lostIn g then s.trap 29 va
      else
        let s1 := (s.ownedWords g).foldl (fun t p => t.recallWord p.2 p.1) s
        k ((pieceWords qa 64).foldl (fun t w => t.l1Drop t.myCell w) s1) qa

/-- A queue operation of a made queue in its extent; QUEUE_SCOPE otherwise (R177), after the faults of its page (R52). A descriptor
address that is not a multiple of 64 names no queue. -/
def inQueue (s : State) (va : Word) (k : State → Nat → Hq → State) : State :=
  if va.toNat % 64 ≠ 0 then
    if inWindow va then s.trap 27 va
    else s.withPage .amo s.cur.pkg va fun s e qa => s.trap (if s.kindAt e qa ≠ kTracked then 27 else 30) va
  else s.withQueue va fun s qa =>
    let q := s.hqAt qa
    if q.made && inExtent (s.gangOf s.myCell) q.cell q.scope q.group s.myCell then k s qa q else s.trap 30 va

/-! ### Popping (R180) -/

/-- The read of a queue entry at its home through its page, as a load of a hart of a partition that goes to its home: behind the stores to
the word that its cell has under way (R212). -/
def entryRead (s : State) (h : HartId) (part : Nat) (va : Word) (e : TlbEntry) : Serve :=
  let qa := e.phys va.toNat
  if !leafAllows .load (s.getWho h part).mode e then .trap 13
  else if physFault e qa then .trap 5
  else if e.kind = kBlock then .trap 27
  else if s.cellPending h (wordOf qa) then .later
  else
    let kd := s.kindAt e qa
    match s.serveLoad ⟨h, part, va, qa, 8, kd, s.homeOf kd qa, e.kind⟩ none with
    | .owner c => .value (s.ownerValue c (wordOf qa))
    | r => r

/-- The translation that a TLB of a hart's holds for a queue entry. -/
def entryPage (s : State) (h : HartId) (part : Nat) (va : Word) : Option TlbEntry :=
  (tlbFind (s.getCell h.cellId).tlb part h.pkg va.toNat) <|> tlbFind (s.getDie h.dieId).tlb part h.pkg va.toNat

/-- A hart no longer waits at a descriptor. -/
def leaveQueue (s : State) (qa : Nat) (h : HartId) (part : Nat) : State :=
  { s with hqWaiters := s.hqWaiters.filter fun w => !(w.1 == qa && decide (w.2.1 = h) && w.2.2 == part) }

/-- The oldest entry of a queue is popped for a hart: an older copy of it that the hart's cell holds is VALID no longer (R212). -/
def popped (s : State) (qa : Nat) (h : HartId) (part entry : Nat) : State :=
  ((s.hqSet qa 4 (BitVec.ofNat 64 (((s.hqAt qa).pop.toNat + 1) % Hq.span))).leaveQueue qa h part).l1Invalidate h.cellId (wordOf entry)

/-- Nothing published is left to pop. -/
def Hq.drained (q : Hq) : Bool := Hq.ahead q.pub.toNat q.pop.toNat == 0

/-- A popper is parked at its queue. -/
def parkedPopper (s : State) (h : HartId) (part : Nat) : Bool := (s.getWho h part).wait.any fun w => decide (w.kind = .retry)

/-- Parked poppers are served in the order of their arrival, while there are entries. One whose entry no TLB holds, or whose entry has a place that
cannot be read, goes on with its instruction itself, and those behind it wait for it. -/
def serveQueue (qa : Nat) : List (HartId × Nat) → State → State
  | [], s => s
  | (h, part) :: l, s =>
    let q := s.hqAt qa
    let va := q.entryVa q.pop.toNat
    if Hq.drained q || !s.parkedPopper h part || va.toNat % 8 != 0 then s
    else match s.entryPage h part va with
      | none => s
      | some e => match s.entryRead h part va e with
        | .value v => serveQueue qa l ((s.popped qa h part (e.phys va.toNat)).answer h part (.word v))
        | .trap c => serveQueue qa l ((s.leaveQueue qa h part).answer h part (.trap c va))
        | _ => s

/-- The harts parked at a descriptor, in order. -/
def poppersOf (s : State) (qa : Nat) : List (HartId × Nat) :=
  (s.hqWaiters.filter fun w => w.1 == qa).map fun w => w.2

/-- The hart has its place at a descriptor, behind those that arrived before it; the place is kept, and so is the scope of the acquire that ends
its instruction. -/
def lineUp (s : State) (qa scope : Nat) : State :=
  let me := (s.who, s.ctx.part)
  let s1 := if (s.poppersOf qa).contains me then s else { s with hqWaiters := s.hqWaiters ++ [(qa, me)] }
  s1.note (.stage scope)

/-- The hart parks at a descriptor. -/
def parkPopper (s : State) (qa scope : Nat) : State := (s.lineUp qa scope).await .retry true

/-- The hart, whose turn it is at a descriptor, pops the oldest entry, which lies at `ea`. An entry in the cell window has no home and raises
PAGE_KIND, in the first 128 KiB too, where R22 allows loads (DESIGN CHOICE, log 35). -/
def popEntry (s : State) (rd qa scope : Nat) (ea : Word) : State :=
  let fails := fun c : Nat => (s.leaveQueue qa s.who s.ctx.part).trap c ea
  if ea.toNat % 8 ≠ 0 then fails 4
  else if inWindow ea then fails 27
  else match s.translate s.cur.pkg ea with
    | .fault => fails 13
    | .wait _ => (s.lineUp qa scope).enterMiss s.cur.pkg ea.toNat
    | .ok e t => match t.entryRead t.who t.ctx.part ea e with
      | .value v =>
        let s1 := t.popped qa t.who t.ctx.part (e.phys ea.toNat)
        ((serveQueue qa (s1.poppersOf qa) s1).acquire scope).finish rd v
      | .trap c => (t.leaveQueue qa t.who t.ctx.part).trap c ea
      | _ => t.parkPopper qa scope

end State

/-! ### The instructions -/

/-- hqmake (R176). -/
def execHqmake (rd rs1 : Nat) (s : State) : Out :=
  let va := s.xr rs1
  .next (if va.toNat % 64 ≠ 0 then s.trap 6 va
    else s.withQueue va fun s qa =>
      let q := s.hqAt qa
      if q.invalid then s.finish rd 1
      else if q.made then s.finish rd 2
      else
        let s1 := [2, 3, 4, 5].foldl (fun (t : State) i => t.hqSet qa i 0) s
        let me : HartId := { s.cur with hart := s.cur.hart % 32 }
        ((s1.hqSet qa 6 (BitVec.ofNat 64 (hartNumber me))).hqSet qa 1 (q.ctl ||| BitVec.ofNat 64 (2 ^ 32))).finish rd 0)

/-- hqrsv (R178). -/
def execHqrsv (rd rs1 rs2 : Nat) (s : State) : Out :=
  let va := s.xr rs1
  let n := (s.xr rs2).toNat
  .next (s.inQueue va fun s qa q =>
    if n = 0 ∨ 64 < n ∨ q.cap < n then s.trap 30 va
    else
      let t := q.rsv.toNat % Hq.span
      if q.cap < Hq.ahead (t + n) q.pop.toNat ∨ 64 < Hq.ahead (t + n) q.pub.toNat then s.await .retry true
      else (s.hqSet qa 2 (BitVec.ofNat 64 ((t + n) % Hq.span))).finish rd (BitVec.ofNat 64 (t + n * 2 ^ 48)))

/-- hqpub (R179). -/
def execHqpub (rs1 rs2 : Nat) (s : State) : Out :=
  let va := s.xr rs1
  let w := s.xr rs2
  let n := fld w 48 7
  .next (s.inQueue va fun s qa q => s.release q.scope q.group fun s =>
    let off := Hq.ahead (fld w 0 48) q.pub.toNat
    if n = 0 || fld w 55 9 != 0 || decide (Hq.ahead q.rsv.toNat q.pub.toNat < off + n) || decide (64 < off + n) ||
        bitsOf q.pend.toNat off n != 0 then s.trap 30 va
    else
      let r := Hq.advance 64 (q.pend ||| BitVec.ofNat 64 ((2 ^ n - 1) * 2 ^ off)) (q.pub.toNat % Hq.span)
      let s1 := (s.hqSet qa 5 r.1).hqSet qa 3 (BitVec.ofNat 64 r.2)
      (State.serveQueue qa (s1.poppersOf qa) s1).retire)

/-- hqpop (R180): an entry that the home has handed over ends the instruction with its acquire. -/
def execHqpop (rd rs1 : Nat) (s : State) : Out :=
  let va := s.xr rs1
  .next (match s.me.answer, s.me.op with
    | some (.word v), some (.stage sc) => (s.acquire sc).finish rd v
    | some (.trap c t), some (.stage _) => s.trap c t
    | _, _ => s.inQueue va fun s qa q =>
      if State.Hq.drained q || !((s.poppersOf qa).head?.all fun p => decide (p = (s.who, s.ctx.part))) then s.parkPopper qa q.scope
      else s.popEntry rd qa q.scope (q.entryVa q.pop.toNat))

end Sys2Proof.Machine
end

