-- ==== Sys2Proof/Machine/Solver.lean ====
section
/-!
DEFINITION. The drydown sequencer of a die (R187 to R196).
-/
namespace Sys2Proof.Machine

/-! ### FP32 numbers (R194: RNE) -/

/-- The datum of FP32 bits. -/
def f32 (b : Nat) : Fp := fp32.decode (b % 2 ^ 32)

/-- One rounding to FP32, RNE. -/
def rne32 (v : Fp) : Nat := fp32.round 0 v

/-- A rounded product, sum and quotient of FP32 bits. -/
def mul32 (a b : Nat) : Nat := rne32 (Fp.mul (f32 a) (f32 b))
def add32 (a b : Nat) : Nat := rne32 (Fp.add 0 (f32 a) (f32 b))
def sub32 (a b : Nat) : Nat := rne32 (Fp.add 0 (f32 a) (Fp.neg (f32 b)))

/-- +0.0 or -0.0 (R188). -/
def zero32 (b : Nat) : Bool := b % 2 ^ 31 == 0

/-- A positive normal value. -/
def normal32 (b : Nat) : Bool := bitsOf b 31 1 == 0 && bitsOf b 23 8 != 0 && bitsOf b 23 8 != 255

/-- `a` at most, or at least, `b`; false for a NaN. -/
def le32 (a b : Nat) : Bool := Fp.lt (f32 a) (f32 b) || Fp.eq (f32 a) (f32 b)

/-- The lesser of two steps; a NaN among them makes it a NaN, which fails the sample (R207). -/
def min32 (a b : Nat) : Nat := if f32 a = .nan ∨ f32 b = .nan then fp32.nanCode else if Fp.lt (f32 b) (f32 a) then b else a

/-- The 32-bit entry at a byte offset of an image of 8-byte words. -/
def imageAt (ws : List Word) (off : Nat) : Nat := fld (ws.getD (off / 8) 0) (8 * (off % 8)) 32

/-! ### Tables (R188) -/

/-- Numbers 1 to 8. -/
def stages8 : List Nat := [1, 2, 3, 4, 5, 6, 7, 8]

/-- The table that an image holds. -/
def imageTable (ws : List Word) : SolverTable :=
  let w := imageAt ws 0
  let b := stages8.map fun j => imageAt ws (52 + 4 * j)
  let bh := stages8.map fun j => imageAt ws (84 + 4 * j)
  { s := bitsOf w 0 4, p := bitsOf w 4 4, phat := bitsOf w 8 4, fsal := bitsOf w 12 1 == 1
    tau := (List.range 5).map fun k => imageAt ws (4 + 4 * k)
    c := stages8.map fun j => imageAt ws (20 + 4 * j), b := b, bhat := bh
    d := (b.zip bh).map fun p => sub32 p.1 p.2
    a := stages8.flatMap fun j => stages8.map fun l => imageAt ws (128 + 32 * (j - 1) + 4 * (l - 1)) }

/-- a_jl of a table. -/
def SolverTable.at (t : SolverTable) (j l : Nat) : Nat := t.a.getD (8 * (j - 1) + (l - 1)) 0

/-- An image that is refused with TABLE_BAD. -/
def tableBad (ws : List Word) : Bool :=
  let t := imageTable ws
  t.s == 0 || decide (8 < t.s) || bitsOf (imageAt ws 0) 13 19 != 0 || ws.getD 15 0 != 0 ||
    (t.tau.any fun b => decide (f32 b = .nan)) ||
    (stages8.any fun j => stages8.any fun l => !zero32 (SolverTable.at t j l) && (decide (j ≤ l) || decide (t.s < j))) ||
    (stages8.any fun j => decide (t.s < j) &&
      !(zero32 (t.c.getD (j - 1) 0) && zero32 (t.b.getD (j - 1) 0) && zero32 (t.bhat.getD (j - 1) 0)))

/-! ### Sample sets (R189) -/

/-- FP32 bits as they are passed on: a NaN is the canonical one (R204). -/
def clean32 (b : Nat) : Nat := if f32 b = .nan then fp32.nanCode else b

/-- A sample of an image, at word `o`. -/
def imageSample (ws : List Word) (o : Nat) : Sample :=
  let w := fun i => ws.getD (o + i) 0
  { st := if le32 (fld (w 1) 0 32) (fld (w 0) 0 32) then .done else .collecting
    t := clean32 (fld (w 0) 0 32), h := fld (w 0) 32 32, tend := fld (w 1) 0 32, atol := clean32 (fld (w 1) 32 32)
    rtol := clean32 (fld (w 2) 0 32)
    hdl := (List.range 10).map fun r => BitVec.ofNat 256 ((List.range 4).foldr (fun i n => (w (8 + 4 * r + i)).toNat + 2 ^ 64 * n) 0)
    parts := [], stage0 := 1 }

/-- A handle that a sample of a table with `n` stages may hold in a role. A handle in the role of a stage that the table does not have is not checked
(DESIGN CHOICE, log 35: the manual does not say that it must pass R15). -/
def roleOk (n role : Nat) (h : BitVec 256) : Bool :=
  if role = 0 ∨ role = 9 ∨ role ≤ n then hKind h == kindBlk && !handleBad h && !hRpkg h else true

/-- A sample of an image breaks the image's rules. -/
def sampleBad (t : SolverTable) (ws : List Word) (o : Nat) : Bool :=
  let x := imageSample ws o
  fld (ws.getD (o + 2) 0) 32 32 != 0 || ([3, 4, 5, 6, 7].any fun i => ws.getD (o + i) 0 != 0) || !normal32 x.h ||
    !((List.range 10).all fun r => roleOk t.s r (x.hdl.getD r 0))

/-- The header of an image breaks the image's rules (R189). That non-zero bits [15:12] at DGEN, and [11:0] of DBASE, do so is a DESIGN CHOICE,
log 36. -/
def setBad (ws : List Word) : Bool :=
  decide (256 < fld (ws.getD 0 0) 0 16) || fld (ws.getD 0 0) 16 16 == 0 || fld (ws.getD 0 0) 32 32 == 0 ||
    decide (2 ^ 24 < fld (ws.getD 0 0) 32 32) || fld (ws.getD 1 0) 0 16 == 0 || decide (16 < fld (ws.getD 1 0) 0 16) ||
    fld (ws.getD 1 0) 16 48 != 0 || fld (ws.getD 2 0) 0 12 != 0 || fld (ws.getD 3 0) 12 52 != 0 ||
    ([4, 5, 6, 7].any fun i => ws.getD i 0 != 0)

/-- The set has a partial outstanding. -/
def SampleSet.outstanding (v : SampleSet) : Bool :=
  v.samples.any fun x => decide (x.st = .ready) || (decide (x.st = .collecting) && !x.parts.isEmpty)

/-- No sample is COLLECTING or READY (R193). -/
def SampleSet.finished (v : SampleSet) : Bool := v.samples.all fun x => !(decide (x.st = .collecting) || decide (x.st = .ready))

/-! ### A decision (R191, R194, R195) -/

/-- Swap two handles. -/
def swapRoles (l : List (BitVec 256)) (i j : Nat) : List (BitVec 256) := (l.set i (l.getD j 0)).set j (l.getD i 0)

/-- The generation of a handle rises by one. -/
def stepGen (l : List (BitVec 256)) (i : Nat) : List (BitVec 256) :=
  let h := l.getD i 0
  l.set i (hPut h 64 12 ((hGen h + 1) % 4096))

/-- The handles after a decision with which the sample goes on, and the first stage to compute next (R191). -/
def nextRoles (t : SolverTable) (accepted : Bool) (l : List (BitVec 256)) : List (BitVec 256) × Nat :=
  let l1 := if accepted then swapRoles l 0 9 else l
  let l2 := if accepted && t.fsal then swapRoles l1 1 t.s else l1
  let st0 := if accepted && !t.fsal then 1 else 2
  let l3 := (stages8.filter fun j => decide (st0 ≤ j) && decide (j ≤ t.s)).foldl stepGen l2
  (stepGen l3 9, st0)

/-- What R194 finds for a READY sample: failed, accepted, k, the sum over NELEM. -/
structure Verdict where
  failed : Bool
  acc : Bool
  k : Int
  err : Nat
  deriving DecidableEq, Repr

/-- τ²[k]. -/
def SolverTable.tauAt (t : SolverTable) (k : Int) : Nat := t.tau.getD (k + 2).toNat 0

/-- The sum of the partials in slice order. -/
def sumParts (v : SampleSet) (x : Sample) : Nat :=
  (List.range v.slices).foldl (fun a q => add32 a ((lookup q x.parts).getD 0)) 0

/-- The verdict on a READY sample (R194). -/
def verdict (t : SolverTable) (v : SampleSet) (x : Sample) : Verdict :=
  let sum := sumParts v x
  let n : Fp := .fin false v.nelem 0
  let r := rne32 (Fp.div (f32 sum) n)
  if f32 r = .nan || Fp.lt (f32 (SolverTable.tauAt t (-2))) (f32 r) then ⟨true, false, 0, r⟩
  else if Fp.lt n (f32 sum) then ⟨false, false, if le32 r (SolverTable.tauAt t (-1)) then -1 else -2, r⟩
  else ⟨false, true, ([2, 1, 0] : List Int).find? (fun k => le32 r (SolverTable.tauAt t k)) |>.getD (-1), r⟩

/-- The 16 bytes of an entry as a number. -/
def entryBits (flags t h err : Nat) : Nat := flags + t * 2 ^ 32 + h * 2 ^ 64 + err * 2 ^ 96

/-- The flag word of an entry (R195). -/
def entryFlags (att st0 kcode : Nat) (active failed done acc : Bool) : Nat :=
  att % 2 ^ 16 * 2 ^ 16 + st0 * 2 ^ 8 + kcode * 16 + (if active then 8 else 0) + (if failed then 4 else 0) +
    (if done then 2 else 0) + if acc then 1 else 0

/-- A READY sample after its decision, and its entry. -/
def decideSample (t : SolverTable) (v : SampleSet) (x : Sample) : Sample × Nat :=
  let d := verdict t v x
  let kc := (d.k + 2).toNat
  let fail := fun (y : Sample) (acc : Bool) =>
    ({ y with st := .failed, parts := [] }, entryBits (entryFlags v.attempt 0 kc true true false acc) y.t y.h d.err)
  if d.failed then fail x false
  else
    let hn := rne32 (Fp.scale d.k (f32 x.h))
    let t' := if d.acc then add32 x.t x.h else x.t
    let x1 := { x with t := t' }
    if d.acc && le32 x.tend t' then
      ({ x1 with st := .done, parts := [] }, entryBits (entryFlags v.attempt 0 kc true false true true) t' x.h d.err)
    else
      let hn' := if d.acc then min32 hn (sub32 x.tend t') else hn
      if !normal32 hn' then fail x1 d.acc
      else
        let r := nextRoles t d.acc x.hdl
        ({ x1 with st := .collecting, parts := [], h := hn', hdl := r.1, stage0 := r.2 },
          entryBits (entryFlags v.attempt r.2 kc true false false d.acc) t' hn' d.err)

/-- The entry of a sample that is DONE or FAILED already. -/
def heldEntry (v : SampleSet) (x : Sample) : Nat :=
  entryBits (entryFlags v.attempt 0 0 false (decide (x.st = .failed)) (decide (x.st = .done)) false) x.t x.h 0

/-- A sample and its entry at a decision. -/
def decideOne (t : SolverTable) (v : SampleSet) (x : Sample) : Sample × Nat :=
  if x.st = .ready then decideSample t v x else (x, heldEntry v x)

/-- A decision is due (R193). -/
def SampleSet.due (v : SampleSet) : Bool :=
  v.err == 0 && !(v.samples.any fun x => decide (x.st = .collecting)) && v.samples.any fun x => decide (x.st = .ready)

/-- The block of decision `n` (R195): address and generation. -/
def SampleSet.place (v : SampleSet) (n : Nat) : Nat × Nat :=
  (v.dbase + 4096 * (n % v.dcount), (v.dgen + n / v.dcount) % 4096)

namespace State

/-! ### The sequencer's state -/

/-- The die that a selector names. -/
def solverDie (s : State) (w : Word) : DieId := ⟨s.cur.pkg, fld w 32 4⟩

/-- An armed set. -/
def getSet (s : State) (d : DieId) (i : Nat) : Option SampleSet := lookup i (s.getDie d).sets

/-- Replace an armed set. -/
def setSet (s : State) (d : DieId) (i : Nat) (v : SampleSet) : State := s.updDie d fun x => { x with sets := store i v x.sets }

/-- SOLVER with a sub-code. -/
def solverTrap (s : State) (sub : Nat) : State := s.trap 36 (BitVec.ofNat 64 sub)

/-- The table of a set. -/
def tableOf (s : State) (d : DieId) (v : SampleSet) : SolverTable :=
  (lookup v.table (s.getDie d).tables).getD ⟨0, 0, 0, false, [], [], [], [], [], []⟩

/-- The sample that a selector names, with its set and the table: NOT_ARMED otherwise. -/
def withSample (s : State) (w : Word) (k : SampleSet → Sample → SolverTable → State) : State :=
  let d := s.solverDie w
  match s.getSet d (fld w 8 2) with
  | none => s.solverTrap 1
  | some v => match v.samples[fld w 0 8]? with
    | none => s.solverTrap 1
    | some x => k v x (s.tableOf d v)

/-! ### Arming (R189) -/

/-- `sqarm` once the whole image is loaded. -/
def armWith (s : State) (d : DieId) (set tab : Nat) (ws : List Word) (n : Nat) : State :=
  match lookup tab (s.getDie d).tables with
  | none => s.solverTrap 3
  | some t =>
    if (List.range n).any fun i => sampleBad t ws (8 + 48 * i) then s.solverTrap 3
    else
      let v : SampleSet :=
        { table := tab, slices := fld (ws.getD 0 0) 16 16, nelem := fld (ws.getD 0 0) 32 32, dcount := fld (ws.getD 1 0) 0 16
          dbase := (ws.getD 2 0).toNat, dgen := fld (ws.getD 3 0) 0 12, part := s.ctx.part, armer := s.who, attempt := 0, err := 0
          samples := (List.range n).map fun i => imageSample ws (8 + 48 * i), arm := s.nextId }
      (({ s with nextId := s.nextId + 1 }).setSet d set v).retire

/-- `sqarm` once NSAMP is loaded. -/
def armGo (s : State) (va : Word) (d : DieId) (set tab n : Nat) (vs : List Word) : State :=
  if n = 0 then (s.updDie d fun x => { x with sets := erase set x.sets }).retire
  else if (s.getSet d set).any SampleSet.outstanding then s.solverTrap 8
  else loadMore (8 - vs.length) s va vs fun s vs =>
    if setBad vs || (lookup tab (s.getDie d).tables).isNone then s.solverTrap 3
    else loadMore (8 + 48 * n - vs.length) s va vs fun s ws => s.armWith d set tab ws n

/-! ### Coefficients (R190) -/

/-- The value of `sqcoef`; none where the code is out of range. -/
def coef (t : SolverTable) (x : Sample) (j l : Nat) : Option Nat :=
  let inS := fun n => decide (1 ≤ n) && decide (n ≤ t.s)
  let m := fun v => some (mul32 x.h v)
  if j = 13 then some x.atol
  else if j = 14 then some x.rtol
  else if j = 15 then some x.t
  else if j = 0 || !inS l then none
  else if j ≤ 8 then (if inS j then m (SolverTable.at t j l) else none)
  else if j = 9 then m (t.b.getD (l - 1) 0)
  else if j = 10 then m (t.bhat.getD (l - 1) 0)
  else if j = 11 then m (t.d.getD (l - 1) 0)
  else m (t.c.getD (l - 1) 0)

/-! ### The writing of decisions (R195) -/

/-- A set stops with DECISION_WRITE: it writes no further decision, those that wait to be sent again among them, and an entry that names its armer
and partition is logged (R195, R321). An answer to an earlier arming stops the set as it stands not. -/
def stopSet (s : State) (d : DieId) (i arm : Nat) : State :=
  let s1 := s.updDie d fun x => { x with decisions := x.decisions.filter fun k => !(k.set == i && k.arm == arm) }
  match s1.getSet d i with
  | some v => if v.arm = arm then (s1.setSet d i { v with err := 7 }).logDie d false 53 i 0 v.part (v.armer.hart % 32) else s1
  | none => s1

/-- Send the write of a decision, or stop its set where its block does not translate or is on no BLOCK page. -/
def sendDecision (s : State) (d : DieId) (k : Decision) : State :=
  match s.translateFor d k.part d.pkg (BitVec.ofNat 64 k.va) with
  | none => s.stopSet d k.set k.arm
  | some e =>
    let qa := e.phys k.va
    if e.kind ≠ kBlock || physFault e qa then s.stopSet d k.set k.arm
    else
      let s1 := s.updDie d fun x => { x with decisions := x.decisions ++ [{ k with op := some s.nextId }] }
      s1.sendBlock d.pkg .write (.solver d k.set) k.part qa k.gen 0 0 k.data (BitVec.ofNat 512 (packElems 8 (List.replicate 64 0x7F)))

/-- The answer to the write of a decision. -/
def decisionAnswer (s : State) (d : DieId) (id : Nat) (ans : BlockAns) : State :=
  let hit := fun k : Decision => decide (k.op = some id)
  match (s.getDie d).decisions.find? hit with
  | none => s.dropOp id
  | some k =>
    match ans with
    | .ahead =>
      ((s.updDie d fun x => { x with decisions := x.decisions.map fun y => if hit y then { y with op := none } else y }).dropOp id).push
        (.decisionWriteRetry d k.set)
    | .written => (s.updDie d fun x => { x with decisions := x.decisions.filter fun y => !hit y }).dropOp id
    | _ => ((s.updDie d fun x => { x with decisions := x.decisions.filter fun y => !hit y }).dropOp id).stopSet d k.set k.arm

/-- A decision is made (R194): every sample moves on, and the decision's block is written. -/
def decideSet (s : State) (d : DieId) (i : Nat) (v : SampleSet) : State :=
  let rs := v.samples.map (decideOne (s.tableOf d v) v)
  let p := v.place v.attempt
  let s1 := s.setSet d i { v with samples := rs.map fun r => r.1, attempt := v.attempt + 1 }
  s1.sendDecision d ⟨i, v.arm, v.part, p.1, p.2, BitVec.ofNat 32768 (packElems 128 (rs.map fun r => r.2)), none⟩

/-- `sqpart` of a sample (R192). -/
def postPart (s : State) (d : DieId) (set n : Nat) (v : SampleSet) (x : Sample) (slice val : Nat) : State :=
  if v.err = 7 then s.solverTrap 7
  else if x.st = .done ∨ x.st = .failed then s.solverTrap 6
  else if v.slices ≤ slice || (lookup slice x.parts).isSome then s.solverTrap 5
  else
    let ps := store slice val x.parts
    let v' := { v with samples := v.samples.set n { x with parts := ps, st := if ps.length = v.slices then .ready else .collecting } }
    let s1 := s.setSet d set v'
    (if v'.due then s1.push (.solverDecision d set) else s1).retire

end State

/-! ### The instructions -/

/-- sqltab (R188). -/
def execSqltab (rs1 rs2 : Nat) (s : State) : Out :=
  let va := s.xr rs1
  let w := s.xr rs2
  .next (if va.toNat % 64 ≠ 0 then s.trap 4 va
    else s.loadMany va 48 fun s ws =>
      let d := s.solverDie w
      if tableBad ws || (s.getDie d).sets.any fun p => p.2.table == fld w 0 2 then s.solverTrap 2
      else (s.updDie d fun x => { x with tables := store (fld w 0 2) (imageTable ws) x.tables }).retire)

/-- The wait of an instruction that an interrupt abandons, for whatever it waits (R161). -/
def Hart.abandonable (h : Hart) : Hart :=
  match h.wait with
  | some w => { h with wait := some { w with abandon := true }, stalled := false, parked := true }
  | none => h

/-- sqarm (R189): the hart parks while the image is read, and an allowed interrupt abandons it (R161). -/
def execSqarm (rs1 rs2 : Nat) (s : State) : Out :=
  let va := s.xr rs1
  let w := s.xr rs2
  .next (if va.toNat % 64 ≠ 0 then s.trap 4 va
    else State.updMe (f := Hart.abandonable) <| State.loadMore (1 - s.doneWords.length) s va s.doneWords fun s vs =>
      s.armGo va (s.solverDie w) (fld w 0 2) (fld w 2 2) (fld (vs.getD 0 0) 0 16) vs)

/-- sqcoef (R190). -/
def execSqcoef (rd rs1 rs2 : Nat) (s : State) : Out :=
  .next (s.withSample (s.xr rs1) fun _ x t =>
    match State.coef t x (fld (s.xr rs2) 4 4) (fld (s.xr rs2) 0 4) with
    | some v => s.finish rd (BitVec.ofNat 64 v)
    | none => s.solverTrap 4)

/-- sqhdl (R191). -/
def execSqhdl (hd rs1 : Nat) (s : State) : Out :=
  let role := fld (s.xr rs1) 10 4
  .next (s.withSample (s.xr rs1) fun _ x _ =>
    if 10 ≤ role then s.solverTrap 4 else (s.setH hd (x.hdl.getD role 0)).retire)

/-- sqpart (R192). -/
def execSqpart (rs1 rs2 : Nat) (s : State) : Out :=
  let w := s.xr rs1
  .next (s.withSample w fun v x _ => s.postPart (s.solverDie w) (fld w 8 2) (fld w 0 8) v x (fld w 16 16) (fld (s.xr rs2) 0 32))

/-- The code of a sample's state (R196). -/
def SampleState.code : SampleState → Nat
  | .collecting => 1
  | .ready => 2
  | .done => 3
  | .failed => 4

/-- sqstat (R196). ERR, ATT and FIN of a set that is not armed read 0 (DESIGN CHOICE, log 36). -/
def execSqstat (rd rs1 : Nat) (s : State) : Out :=
  let w := s.xr rs1
  .next (s.finish rd (match s.getSet (s.solverDie w) (fld w 8 2) with
    | none => 0
    | some v =>
      let x := v.samples[fld w 0 8]?
      BitVec.ofNat 64 ((x.map fun y => y.st.code).getD 0 + (if v.finished then 8 else 0) +
        (x.map fun y => y.parts.length).getD 0 * 2 ^ 16 + v.attempt % 2 ^ 16 * 2 ^ 32 + v.err * 2 ^ 56)))

/-- sqdec (R196). SAMPLE is a field that it does not use: one of NSAMP or more raises nothing (DESIGN CHOICE, log 35: NOT_ARMED names that cause and
the entry does not say whether it holds here). -/
def execSqdec (hd rs1 : Nat) (s : State) : Out :=
  let w := s.xr rs1
  .next (match s.getSet (s.solverDie w) (fld w 8 2) with
    | none => s.solverTrap 1
    | some v =>
      let p := v.place (fld w 48 16)
      (s.setH hd (BitVec.ofNat 256 (p.1 % 2 ^ 64 + p.2 * 2 ^ 64 + 1 * 2 ^ 76 + 0x05 * 2 ^ 80 + 0x05 * 2 ^ 88 + 1 * 2 ^ 96 + 1 * 2 ^ 128))).retire)

/-! ### The events -/

/-- SOLVER_DECISION (R194). -/
def execSolverDecision (d : DieId) (set : Nat) (s : State) : Out :=
  .next (match s.getSet d set with
    | some v => if v.due then s.decideSet d set v else s
    | none => s)

/-- DECISION_WRITE_RETRY (R195): the writes of a set that came ahead of their blocks are sent again, in order, while the set has not stopped. -/
def execDecisionWriteRetry (d : DieId) (set : Nat) (s : State) : Out :=
  let again := fun k : Decision => k.set == set && k.op.isNone
  .next (((s.getDie d).decisions.filter again).foldl (fun (t : State) k =>
    if (t.getDie d).decisions.contains k then (t.updDie d fun x => { x with decisions := x.decisions.filter fun y => y != k }).sendDecision d k
    else t) s)

end Sys2Proof.Machine
end

