-- ==== Sys2Proof/Machine/Chains.lean ====
section
/-!
DEFINITION. Copy channels and transfer records (R162 to R174): the fetching of a chain, the checks of a record, the moving of its
bytes, its completion, and the instructions on channels.
-/
namespace Sys2Proof.Machine

/-! ### The fields of a record (R162, R166) -/

namespace Rec

/-- The 64-bit word at byte 8 i. -/
def word (b : BitVec 2048) (i : Nat) : Nat := bitsOf b.toNat (64 * i) 64

def own (b : BitVec 2048) : Bool := word b 0 % 2 == 1
def link (b : BitVec 2048) : Nat := word b 0 / 64 * 64
def kind (b : BitVec 2048) : Nat := bitsOf (word b 1) 0 4
def dims (b : BitVec 2048) : Nat := bitsOf (word b 1) 4 4 + 1
def sform (b : BitVec 2048) : Nat := bitsOf (word b 1) 8 2
def dform (b : BitVec 2048) : Nat := bitsOf (word b 1) 10 2
def scope (b : BitVec 2048) : Nat := bitsOf (word b 1) 12 3
def group (b : BitVec 2048) : Nat := bitsOf (word b 1) 16 8
def fset (b : BitVec 2048) : Bool := bitsOf (word b 1) 24 1 == 1
def tdec (b : BitVec 2048) : Bool := bitsOf (word b 1) 25 1 == 1
def intr (b : BitVec 2048) : Bool := bitsOf (word b 1) 26 1 == 1
def saddr (b : BitVec 2048) : Nat := word b 2
def daddr (b : BitVec 2048) : Nat := word b 3
def sgen (b : BitVec 2048) : Nat := bitsOf (word b 4) 0 12
def dgen (b : BitVec 2048) : Nat := bitsOf (word b 4) 20 12
def flag (b : BitVec 2048) : Nat := bitsOf (word b 5) 0 10
def frem (b : BitVec 2048) : Bool := bitsOf (word b 5) 10 1 == 1
def fcell (b : BitVec 2048) : Nat := bitsOf (word b 5) 11 18
def task (b : BitVec 2048) : Nat := bitsOf (word b 5) 32 32

/-- The package whose window a BLK side is walked by, on package `pkg`: SPKG or DPKG (R164, R298). -/
def spkg (b : BitVec 2048) (pkg : Nat) : Nat := if bitsOf (word b 4) 18 1 = 1 then bitsOf (word b 4) 12 6 else pkg
def dpkg (b : BitVec 2048) (pkg : Nat) : Nat := if bitsOf (word b 4) 38 1 = 1 then bitsOf (word b 4) 32 6 else pkg

/-- An entry DIM[d]. -/
def dim (b : BitVec 2048) (d : Nat) : Nat := bitsOf b.toNat (8 * (64 + 16 * d)) 128

/-- COUNT of a dimension, and its stride on the source or destination side. -/
def count (b : BitVec 2048) (d : Nat) : Nat := bitsOf (dim b d) 0 24
def stride (b : BitVec 2048) (dst : Bool) (d : Nat) : Int := signedOf 48 (bitsOf (dim b d) (if dst then 80 else 32) 48)

/-- T, the bytes a COPY moves (R163). -/
def total (b : BitVec 2048) : Nat := (List.range (dims b)).foldl (fun n d => n * count b d) 1

/-- A side is dense. -/
def dense (b : BitVec 2048) : Bool := sform b != 0 || dform b != 0

/-- The bytes [lo, hi) of a record are zero. -/
def zeroBytes (b : BitVec 2048) (lo hi : Nat) : Bool := bitsOf b.toNat (8 * lo) (8 * (hi - lo)) == 0

/-- The counts and strides of a side, dimension 0 first. -/
def axes (b : BitVec 2048) (dst : Bool) : List (Nat × Int) := (List.range (dims b)).map fun d => (count b d, stride b dst d)

/-- The offset of byte `u` along the dimensions from 1 up (R163). -/
def strided : List (Nat × Int) → Nat → Int
  | [], _ => 0
  | (n, st) :: l, u => (u % n : Nat) * st + strided l (u / n)

/-- The VA of byte `u` of a WORD side at `addr` (R163). -/
def byteVa (b : BitVec 2048) (dst : Bool) (addr u : Nat) : Nat :=
  let n0 := count b 0
  ((addr + (u % n0 : Nat) + strided ((axes b dst).tail) (u / n0) : Int) % 2 ^ 64).toNat

/-- The bounding range of a WORD side, within the 64-bit addresses (R165). -/
def bounds (b : BitVec 2048) (dst : Bool) (addr : Nat) : Nat × Nat :=
  let ext := (axes b dst).tail.map fun p => ((p.1 : Int) - 1) * p.2
  let lo : Int := addr + ext.foldl (fun a e => a + min 0 e) 0
  let hi : Int := addr + ((count b 0 : Int) - 1) + ext.foldl (fun a e => a + max 0 e) 0
  ((max 0 lo).toNat, (min hi (2 ^ 64 - 1)).toNat)

/-- DECODE: bitstream address and bytes, width, height, 10-bit, stream. -/
def bsLen (b : BitVec 2048) : Nat := bitsOf (word b 3) 0 32
def width (b : BitVec 2048) : Nat := bitsOf (word b 3) 32 16
def height (b : BitVec 2048) : Nat := bitsOf (word b 3) 48 16
def deep (b : BitVec 2048) : Bool := bitsOf (word b 4) 0 1 == 1
def stream (b : BitVec 2048) : Nat := bitsOf (word b 4) 4 4
def lbase (b : BitVec 2048) : Nat := word b 6
def cbase (b : BitVec 2048) : Nat := word b 7
def lgen (b : BitVec 2048) : Nat := bitsOf (word b 8) 0 12
def cgen (b : BitVec 2048) : Nat := bitsOf (word b 8) 12 12

/-- Tiles across, and tiles of a frame (R166). -/
def across (b : BitVec 2048) : Nat := (width b + 63) / 64
def tiles (b : BitVec 2048) : Nat := across b * ((height b + 63) / 64)

/-- Luma blocks of a frame. -/
def lumaBlocks (b : BitVec 2048) : Nat := if deep b then 2 * tiles b else tiles b

/-! ### Checks (R163, R166) -/

/-- Checks of every record, but for FCELL. -/
def headBad (b : BitVec 2048) : Bool :=
  bitsOf (word b 0) 1 5 != 0 || bitsOf (word b 1) 27 37 != 0 || bitsOf (word b 1) 15 1 != 0 || decide (3 < kind b) ||
    decide (12 < dims b) || sform b == 3 || dform b == 3 || decide (4 < scope b) || bitsOf (word b 5) 29 3 != 0

/-- Checks of a BLK or SPAD side: its address, and a package number that nothing uses. -/
def sideBad (form addr pkg rpkg : Nat) : Bool :=
  form != 0 && addr % 4096 != 0 || form == 1 && rpkg == 0 && pkg != 0

/-- Checks of a COPY, in a cell with a share of `spad` blocks. -/
def copyBad (b : BitVec 2048) (spad : Nat) : Bool :=
  let g := word b 4
  let n := total b / 4096
  !zeroBytes b 48 64 || bitsOf g 19 1 != 0 || bitsOf g 39 25 != 0 ||
    ((List.range (dims b)).any fun d => bitsOf (dim b d) 24 8 != 0 || count b d == 0) ||
    bitsOf (dim b 0) 32 96 != 0 || decide (2 ^ 48 ≤ total b) || (dense b && (total b % 4096 != 0 || decide (65535 < n))) ||
    sideBad (sform b) (saddr b) (bitsOf g 12 6) (bitsOf g 18 1) || sideBad (dform b) (daddr b) (bitsOf g 32 6) (bitsOf g 38 1) ||
    (sform b == 2 && decide (spad < saddr b / 4096 + n)) || (dform b == 2 && decide (spad < daddr b / 4096 + n))

/-- Checks of a DECODE but for its channel (R166). An LBASE or CBASE that is not a multiple of 4,096 fails them (DESIGN CHOICE, log 36). -/
def decodeBad (b : BitVec 2048) : Bool :=
  dims b != 1 || sform b != 0 || dform b != 0 || bsLen b == 0 || decide (width b < 16) || decide (3840 < width b) ||
    decide (height b < 16) || decide (2160 < height b) || bitsOf (word b 4) 1 3 != 0 || bitsOf (word b 4) 8 56 != 0 ||
    lbase b % 4096 != 0 || cbase b % 4096 != 0 || bitsOf (word b 8) 24 40 != 0 || !zeroBytes b 72 256

/-- SET_FLAG and DEC_TASK: the bytes that are reserved (R167). -/
def bareBad (b : BitVec 2048) : Bool := !zeroBytes b 16 40 || !zeroBytes b 48 256

end Rec

/-- Bytes at ascending addresses, as runs that are contiguous within one 4 KiB page: first address and length. -/
def runsOf : List Nat → List (Nat × Nat)
  | [] => []
  | v :: l =>
    match runsOf l with
    | (v', n) :: r => if v' = v + 1 ∧ v' % 4096 ≠ 0 then (v, n + 1) :: r else (v, 1) :: (v', n) :: r
    | [] => [(v, 1)]

/-- A sideband of 0x7F throughout (R163). -/
def plainSide : BitVec 512 := BitVec.ofNat 512 (packElems 8 (List.replicate 64 0x7F))

/-! ### Decoded frames as blocks (R166) -/

/-- A sample of a plane `w` wide and `h` high; zero past its edge. -/
def planeAt (p : List Nat) (w h x y : Nat) : Nat := if x < w ∧ y < h then p.getD (y * w + x) 0 else 0

/-- Luma block `u` of a frame. -/
def lumaBlock (b : BitVec 2048) (p : List Nat) (u : Nat) : BitVec 32768 :=
  let at' := fun t r c => planeAt p (Rec.width b) (Rec.height b) (t % Rec.across b * 64 + c) (t / Rec.across b * 64 + r)
  if Rec.deep b then
    blockOf 16 ((List.range 2048).map fun i => at' (u / 2) (u % 2 * 32 + i / 64) (i % 64) % 1024)
  else blockOf 8 ((List.range 4096).map fun i => at' u (i / 64) (i % 64))

/-- Chroma block `u` of a frame whose U samples are followed by its V samples. -/
def chromaBlock (b : BitVec 2048) (p : List Nat) (u : Nat) : BitVec 32768 :=
  let w := (Rec.width b + 1) / 2
  let h := (Rec.height b + 1) / 2
  let at' := fun i =>
    let c := i % 64
    planeAt (if c < 32 then p else p.drop (w * h)) w h (u % Rec.across b * 32 + c % 32) (u / Rec.across b * 32 + i / 64)
  let l := (List.range 2048).map at'
  if Rec.deep b then blockOf 16 (l.map fun v => v % 1024) else blockOf 8 l

namespace State

/-! ### Channels -/

/-- Replace a copy channel of a partition at a cell. -/
def setChanFor (s : State) (c : CellId) (part ch : Nat) (v : Channel) : State :=
  s.updCtxFor c part fun x => { x with chans := store ch v x.chans }

/-- Change the record in flight of a channel. -/
def updRun (s : State) (c : CellId) (part ch : Nat) (f : RecRun → RecRun) : State :=
  let v := s.getChanFor c part ch
  s.setChanFor c part ch { v with cur := v.cur.map f }

/-- The unit is a front end, not a cell (R250). -/
def isFront (c : CellId) : Bool := c.cell == 255

/-- The channel goes on. -/
def kick (s : State) (c : CellId) (ch : Nat) : State := s.pushOnce (.recordStart c ch)

/-- The channel's completion goes on. -/
def kickDone (s : State) (c : CellId) (ch : Nat) : State := s.pushOnce (.recordComplete c ch)

/-- Range locks of a chain are removed: those of its record in flight and of its cached records (R172, R173). -/
def freeLocks (s : State) (ids : List Nat) : State := ids.foldl (fun t id => (t.unlock id).dropOp id) s

/-- The range-lock operations of a chain. -/
def chainLocks (v : Channel) : List Nat :=
  (v.cache.map fun e => e.2.2) ++ match v.cur with
    | some r => r.lock :: r.sides
    | none => []

/-- Harts parked on a channel are told that it is idle (R170, R172). -/
def wakeIdle (s : State) (c : CellId) (part ch : Nat) : State :=
  (List.range 64).foldl (fun t n =>
    let h := c.hart n
    if ((t.getWho h part).wait.any fun w => decide (w.kind = .channel ch)) then t.answer h part .done else t) s

/-- A chain ends (R168): the channel is idle, with a code and the sub-code of a fault. -/
def endChain (s : State) (c : CellId) (part ch code sub : Nat) : State :=
  let v := s.getChanFor c part ch
  let s1 := (s.freeLocks (chainLocks v)).setChanFor c part ch { v with
    busy := false, ended := code, fetch := 0, cache := [], unowned := false, failed := none, cur := none, stopping := false, sub := sub }
  let s2 := s1.wakeIdle c part ch
  match v.owner with
  | some h => s2.settleTracked h part
  | none => s2

/-- Scratch blocks that a record left FILLING are poisoned (R164). -/
def poisonRest (s : State) (c : CellId) (part : Nat) (r : RecRun) : State :=
  if r.stage = 0 ∨ Rec.kind r.bytes ≠ 0 ∨ Rec.dform r.bytes ≠ 2 then s
  else
    let n := Rec.total r.bytes / 4096
    (List.range (n - r.next)).foldl (fun t i =>
      let k := Rec.daddr r.bytes / 4096 + r.next + i
      if (t.tileFor c part k).st = .filling then t.changeTile c part k (Tile.poisoned (t.tick + k)) else t) s

/-- The scratch block that a record reads is FULL again. -/
def undrain (s : State) (c : CellId) (part : Nat) (r : RecRun) : State :=
  match r.draining with
  | some i => s.endDrain c part i
  | none => s

/-- A chain fault (R173): the record at `addr` faults, and CHAIN is raised at the owner. -/
def chainFault (s : State) (c : CellId) (part ch addr sub : Nat) : State :=
  let v := s.getChanFor c part ch
  let s1 := match v.cur with
    | some r => (s.poisonRest c part r).undrain c part r
    | none => s
  let s2 := match v.owner with
    | some h => s1.postImprecise h part ⟨37, sub, 3 + 8 * ch, 0, v.seq, BitVec.ofNat 64 addr, 0, 0⟩
    | none => s1
  s2.endChain c part ch 4 sub

/-- The record in flight faults. -/
def runFault (s : State) (c : CellId) (part ch : Nat) (r : RecRun) (sub : Nat) : State := s.chainFault c part ch r.addr sub

/-- A chain starts on an idle channel (R170). -/
def startChain (s : State) (c : CellId) (part ch head : Nat) (owner : Option HartId) (mode : Mode) (seq : Nat) : State :=
  (s.setChanFor c part ch { Channel.reset with
    busy := true, owner := owner, mode := mode, seq := seq, fetch := head, recAddr := (s.getChanFor c part ch).recAddr }).pushOnce
      (.recordFetch c ch)

/-! ### Word space as a channel meets it (R165, R168) -/

/-- The piece at a virtual address, as a channel's access of a mode finds it; a sub-code otherwise. -/
def chanPiece (s : State) (c : CellId) (part : Nat) (mode : Mode) (acc : Acc) (va len : Nat) : Except Nat Seg :=
  match s.translateFor c.dieId part c.pkg (BitVec.ofNat 64 va) with
  | none => .error 6
  | some e =>
    let qa := e.phys va
    let k := s.kindAt e qa
    let home := s.homeOf k qa
    if !leafAllows acc mode e || physFault e qa || e.kind == kBlock then .error 6
    else if home.pkg ≠ c.pkg && s.unreachable c.pkg home.pkg then .error 8
    else .ok ⟨qa, len, k, home, e.kind⟩

/-- The bytes of a piece at their homes. -/
def pieceBytes (s : State) (d : DieId) (g : Seg) : List Byte :=
  (List.range g.len).map fun i =>
    let a := g.qa + i
    BitVec.ofNat 8 (fld (s.servedValue d g.kind (wordOf a)) (8 * (a % 8)) 8)

/-- Read runs of bytes at their homes: a sub-code, or none while a home holds a word back. A word of host memory whose link is down is sub-code
8 (R174; DESIGN CHOICE, log 36). -/
def readRuns (s : State) (c : CellId) (part : Nat) (mode : Mode) : List (Nat × Nat) → Except Nat (Option (List Byte))
  | [] => .ok (some [])
  | (va, n) :: l =>
    match s.chanPiece c part mode .load va n with
    | .error e => .error e
    | .ok g =>
      if s.hostGone g.qa then .error 8
      else if (g.kind == kTracked && s.lostIn g) || s.badIn g then .error 7
      else if s.readHeld g then .ok none
      else match readRuns s c part mode l with
        | .ok (some bs) => .ok (some (s.pieceBytes c.dieId g ++ bs))
        | r => r

/-- The pieces of runs of bytes that a channel writes: a sub-code where one cannot be. -/
def writePieces (s : State) (c : CellId) (part : Nat) (mode : Mode) : List (Nat × Nat) → Except Nat (List (Nat × Seg))
  | [] => .ok []
  | (va, n) :: l =>
    match s.chanPiece c part mode .store va n with
    | .error e => .error e
    | .ok g => match writePieces s c part mode l with
      | .ok gs => .ok ((va, g) :: gs)
      | .error e => .error e

/-- Send the bytes of pieces to their homes as posted stores of the channel (R165). -/
def sendPieces (c : CellId) (part ch : Nat) : List (Nat × Seg) → List Byte → State → List Nat → State × List Nat
  | [], _, s, ids => (s, ids)
  | (va, g) :: l, bs, s, ids =>
    let id := s.nextId
    let s1 := (s.newOp (.copyWrite c ch part (BitVec.ofNat 64 va) g (bs.take g.len))).send c.pkg g.home.pkg 2 (.postPerform id)
    sendPieces c part ch l (bs.drop g.len) s1 (ids ++ [id])

/-- The pieces of a virtual range that lie on word pages; a page of it that does not translate has no home. -/
def rangePieces (s : State) (c : CellId) (part lo hi : Nat) : List Seg :=
  (List.range (hi / 4096 + 1 - lo / 4096)).filterMap fun i =>
    let a := max lo ((lo / 4096 + i) * 4096)
    let b := min (hi + 1) ((lo / 4096 + i + 1) * 4096)
    match s.translateFor c.dieId part c.pkg (BitVec.ofNat 64 a) with
    | none => none
    | some e =>
      let qa := e.phys a
      let k := s.kindAt e qa
      if physFault e qa || e.kind == kBlock then none else some ⟨qa, b - a, k, s.homeOf k qa, e.kind⟩

/-! ### Fetching (R168) -/

/-- The fetch of a record failed; the fault waits until the chain reaches it. -/
def fetchFailed (s : State) (c : CellId) (ch : Nat) (v : Channel) (sub : Nat) : State :=
  (s.setChan c ch { v with fetch := 0, failed := some (v.fetch, sub) }).kick c ch

/-- The pieces of a record, which lies on WORD_TRACKED pages. -/
def recordPieces (s : State) (c : CellId) (part : Nat) (mode : Mode) (va : Nat) : Except Nat (List Seg) :=
  ((runsOf ((List.range 256).map fun i => va + i)).mapM fun (r : Nat × Nat) => s.chanPiece c part mode .load r.1 r.2) >>= fun gs =>
    if gs.all fun g => g.kind == kTracked then .ok gs else .error 6

/-- Fetch the next record of a chain: lock it, then read it at its home; a word of it with an uncorrectable error is an OWNER_LOST (R317). -/
def fetchRecord (s : State) (c : CellId) (ch : Nat) (v : Channel) : State :=
  let part := (s.getCell c).ctx.part
  match s.recordPieces c part v.mode v.fetch with
  | .error e => s.fetchFailed c ch v e
  | .ok gs =>
    match s.tryLock [] s.nextId c part v.fetch (v.fetch + 255) gs with
    | .wait => s.push (.recordFetch c ch)
    | .refused => s.fetchFailed c ch v 7
    | .held s1 =>
      let bytes := BitVec.ofNat 2048 (bytesToNat (gs.flatMap fun g => s1.pieceBytes c.dieId g))
      if gs.any s1.badIn then (s1.unlock s.nextId).fetchFailed c ch v 7
      else if Rec.own bytes then
        (((s1.newOp (.lock c ch part v.fetch (v.fetch + 255) gs 1)).setChan c ch { v with
          fetch := Rec.link bytes, cache := v.cache ++ [(v.fetch, bytes, s.nextId)] }).pushOnce (.recordFetch c ch)).kick c ch
      else ((s1.unlock s.nextId).setChan c ch { v with fetch := 0, unowned := true }).kick c ch

/-! ### The start of a record (R163 to R166) -/

/-- The AV1 engine that the cell feeds, if it is designated (R260). -/
def decodeEngine (s : State) (c : CellId) : Option Nat :=
  let w := (lookup 0x1010 (s.getDie c.dieId).regs).getD 0
  if wbit w 16 ∧ fld w 0 8 = c.cell then some 0
  else if wbit w 17 ∧ fld w 8 8 = c.cell then some 1
  else none

/-- A cell that a flag of a record may be set in (R163); for a front end, which is of no gang, a cell that holds its partition. -/
def flagCellOk (s : State) (c : CellId) (part : Nat) (t : CellId) : Bool :=
  if isFront c then t.cell < 144 && (s.ctxFor t part).isSome
  else match s.gangOf c with
    | some g => g.cells.contains t
    | none => false

/-- The cell that FCELL names. -/
def flagCell (b : BitVec 2048) : CellId :=
  let n := Rec.fcell b
  ⟨bitsOf n 12 6, bitsOf n 8 4, bitsOf n 0 8⟩

/-- A check of R163, R166 or R250 fails. -/
def recordBadFor (s : State) (c : CellId) (ch : Nat) (b : BitVec 2048) : Bool :=
  let x := (s.getCell c).ctx
  Rec.headBad b || (Rec.frem b && !s.flagCellOk c x.part (flagCell b)) ||
    (isFront c && (Rec.sform b == 2 || Rec.dform b == 2 || ((Rec.fset b || Rec.kind b == 2) && !Rec.frem b))) ||
    (match Rec.kind b with
      | 0 => Rec.copyBad b x.spad
      | 1 => Rec.decodeBad b || ch != 3 || (s.decodeEngine c).isNone
      | _ => Rec.bareBad b)

/-- The scratch blocks a record fills. -/
def filledTiles (b : BitVec 2048) : List Nat :=
  if Rec.kind b = 0 ∧ Rec.dform b = 2 then (List.range (Rec.total b / 4096)).map fun i => Rec.daddr b / 4096 + i else []

/-- A record starts: its checks, and its scratch destinations become FILLING. -/
def beginRecord (s : State) (c : CellId) (ch : Nat) (r : RecRun) : State :=
  let part := (s.getCell c).ctx.part
  if s.recordBadFor c ch r.bytes then s.runFault c part ch r 1
  else if 2 ≤ Rec.kind r.bytes then (s.updRun c part ch fun r => { r with stage := 3 }).kickDone c ch
  else
    let ts := filledTiles r.bytes
    if ts.any fun i => (s.getTile c i).st != .empty then s.runFault c part ch r 5
    else ((ts.foldl (fun t i => t.setTile c i { Tile.reset with st := .filling }) s).updRun c part ch fun r =>
      { r with stage := 1, engine := (s.decodeEngine c).getD 0 }).kick c ch

/-- The bounding ranges of the WORD sides of a record. -/
def wordSides (b : BitVec 2048) : List (Nat × Nat) :=
  if Rec.kind b = 1 then [(Rec.saddr b, min (Rec.saddr b + Rec.bsLen b - 1) (2 ^ 64 - 1))]
  else (if Rec.sform b = 0 then [Rec.bounds b false (Rec.saddr b)] else []) ++
    if Rec.dform b = 0 then [Rec.bounds b true (Rec.daddr b)] else []

/-- A record locks its WORD sides, all or none (R165). -/
def lockSides (s : State) (c : CellId) (ch : Nat) (r : RecRun) : State :=
  let part := (s.getCell c).ctx.part
  let rs := wordSides r.bytes
  let ids := (List.range rs.length).map fun i => s.nextId + i
  let sides : List Side := (rs.zip ids).map fun p => ⟨p.2, p.1.1, p.1.2, s.rangePieces c part p.1.1 p.1.2⟩
  match s.tryLockAll (r.lock :: ids) c part sides with
  | .wait => s.kick c ch
  | .refused => s.runFault c part ch r 7
  | .held s1 =>
    ((sides.foldl (fun t x => t.newOp (.lock c ch part x.lo x.hi x.segs 1)) s1).updRun c part ch fun r =>
      { r with sides := ids, stage := 2 }).kick c ch

/-! ### The moving of a record (R163 to R166) -/

/-- Units of a record: blocks, or 64 bytes where both sides are in word space. -/
def unitSize (b : BitVec 2048) : Nat := if Rec.dense b then 4096 else 64

/-- Number of units of a record. -/
def units (b : BitVec 2048) : Nat :=
  if Rec.kind b = 1 then Rec.lumaBlocks b + Rec.tiles b else (Rec.total b + unitSize b - 1) / unitSize b

/-- The runs of a unit of a WORD side. -/
def unitRuns (b : BitVec 2048) (dst : Bool) (addr u : Nat) : List (Nat × Nat) :=
  let lo := u * unitSize b
  runsOf ((List.range (min (unitSize b) (Rec.total b - lo))).map fun i => Rec.byteVa b dst addr (lo + i))

/-- A block of a BLK side, on its page: the qualified address, or a sub-code (R164). -/
def chanBlock (s : State) (c : CellId) (part : Nat) (mode : Mode) (acc : Acc) (win va : Nat) : Except Nat Nat :=
  match s.translateFor c.dieId part win (BitVec.ofNat 64 va) with
  | none => .error 6
  | some e =>
    let qa := e.phys va
    if !leafAllows acc mode e || physFault e qa || e.kind != kBlock then .error 6
    else if pkgOfQa qa ≠ c.pkg && s.unreachable c.pkg (pkgOfQa qa) then .error 8
    else .ok qa

/-- Read the next unit of a record. -/
def readUnit (s : State) (c : CellId) (ch : Nat) (v : Channel) (r : RecRun) : State :=
  let part := (s.getCell c).ctx.part
  let b := r.bytes
  let got := fun (t : State) (m : Moved) (dr : Option Nat) =>
    (t.updRun c part ch fun r => { r with ready := some m, draining := dr }).kick c ch
  match Rec.sform b with
  | 0 =>
    match s.readRuns c part v.mode (unitRuns b false (Rec.saddr b) r.next) with
    | .error e => s.runFault c part ch r e
    | .ok none => s.kick c ch
    | .ok (some bs) => got s ⟨bytesData bs, plainSide, false⟩ none
  | 1 =>
    match s.chanBlock c part v.mode .load (Rec.spkg b c.pkg) ((Rec.saddr b + 4096 * r.next) % 2 ^ 64) with
    | .error e => s.runFault c part ch r e
    | .ok qa =>
      (s.updRun c part ch fun r => { r with reading := some s.nextId }).sendBlock c.pkg (.read false) (.chan c ch) part qa (Rec.sgen b)
        0 0 0 0
  | _ =>
    let i := Rec.saddr b / 4096 + r.next
    let t := s.getTile c i
    match t.st with
    | .full => got (s.setTile c i { t with st := .draining }) ⟨t.data, t.side, false⟩ (some i)
    | .draining => got s ⟨t.data, t.side, false⟩ none
    | .poison => got s ⟨0, 0, true⟩ none
    | .refused => s.runFault c part ch r 2
    | _ => s.kick c ch

/-- The unit read is written; the record goes on with the next. -/
def nextUnit (s : State) (c : CellId) (part ch : Nat) : State :=
  (s.updRun c part ch fun r => { r with ready := none, writing := none, draining := none, next := r.next + 1 }).kick c ch

/-- Request the writing, or the poisoning, of a destination block. -/
def writeBlock (s : State) (c : CellId) (ch : Nat) (v : Channel) (r : RecRun) (win va gen : Nat) (m : Moved) : State :=
  let part := (s.getCell c).ctx.part
  match s.chanBlock c part v.mode .store win va with
  | .error e => s.runFault c part ch r e
  | .ok qa =>
    ((s.undrain c part r).updRun c part ch fun r => { r with writing := some s.nextId, draining := none }).sendBlock c.pkg
      (if m.poison then .poison else .write) (.chan c ch) part qa gen 0 0 m.data m.side

/-- Write the unit that a record has read. -/
def writeUnit (s : State) (c : CellId) (ch : Nat) (v : Channel) (r : RecRun) (m : Moved) : State :=
  let part := (s.getCell c).ctx.part
  let b := r.bytes
  match Rec.dform b with
  | 0 =>
    if m.poison then s.runFault c part ch r 3
    else
      let rs := unitRuns b true (Rec.daddr b) r.next
      match s.writePieces c part v.mode rs with
      | .error e => s.runFault c part ch r e
      | .ok gs =>
        if 65535 < r.posts.length + gs.length then s.kick c ch
        else
          let p := sendPieces c part ch gs (dataBytes m.data) (s.undrain c part r) []
          (p.1.updRun c part ch fun r => { r with posts := r.posts ++ p.2 }).nextUnit c part ch
  | 1 => s.writeBlock c ch v r (Rec.dpkg b c.pkg) ((Rec.daddr b + 4096 * r.next) % 2 ^ 64) (Rec.dgen b) m
  | _ =>
    let i := Rec.daddr b / 4096 + r.next
    let s1 := s.undrain c part r
    (s1.changeTile c part i (if m.poison then Tile.poisoned (s.tick + i) else ⟨.full, m.data, m.side, none, none⟩)).nextUnit c part ch

/-- The decoding of a frame (R166) by the engine on which the record started: its planes, or none for a poisoned frame, which is noted in
the reference store. -/
def decodeFrame (s : State) (c : CellId) (ch e : Nat) (b : BitVec 2048) (bs : List Byte) : State :=
  let part := (s.getCell c).ctx.part
  let die := s.getDie c.dieId
  let key := 16 * e + Rec.stream b
  let held := die.av1Frames.filter fun f => f.1 == key
  let names := held.map fun f => f.2.1
  let refs := Config.av1References bs
  let lost := refs.any fun k => (held[k]?).all fun f => f.2.2
  let room := ((lookup (0x1050 + 8 * e) die.regs).getD 0).toNat
  let crowded := !refs.isEmpty && Config.unstated 43 room refs.length % 2 == 1
  let luma := if lost || crowded then none else Config.av1Luma bs names (if Rec.deep b then 10 else 8) (Rec.width b) (Rec.height b)
  let planes := luma.map fun y => (y, Config.av1Chroma bs names (if Rec.deep b then 10 else 8) (Rec.width b) (Rec.height b))
  let s1 := s.updDie c.dieId fun d => { d with av1Frames := (key, s.nextId, planes.isNone) :: d.av1Frames }
  (({ s1 with nextId := s1.nextId + 1 }).updRun c part ch fun r => { r with frame := some planes }).kick c ch

/-- Write the next block of a decoded frame. -/
def frameUnit (s : State) (c : CellId) (ch : Nat) (v : Channel) (r : RecRun) (planes : Option (List Nat × List Nat)) : State :=
  let b := r.bytes
  let u := r.next
  let k := Rec.lumaBlocks b
  let luma := decide (u < k)
  let m : Moved := match planes with
    | none => ⟨0, 0, true⟩
    | some p => ⟨if luma then lumaBlock b p.1 u else chromaBlock b p.2 (u - k), plainSide, false⟩
  s.writeBlock c ch v r c.pkg (((if luma then Rec.lbase b + 4096 * u else Rec.cbase b + 4096 * (u - k))) % 2 ^ 64)
    (if luma then Rec.lgen b else Rec.cgen b) m

/-- A record moves on by one step. -/
def moveRecord (s : State) (c : CellId) (ch : Nat) (v : Channel) (r : RecRun) : State :=
  let part := (s.getCell c).ctx.part
  if r.reading.isSome || r.writing.isSome then s
  else if units r.bytes ≤ r.next then (s.updRun c part ch fun r => { r with stage := 3 }).kickDone c ch
  else if Rec.kind r.bytes = 1 then
    match r.frame with
    | some p => s.frameUnit c ch v r p
    | none =>
      match s.readRuns c part v.mode (runsOf ((List.range (Rec.bsLen r.bytes)).map fun i => Rec.saddr r.bytes + i)) with
      | .error e => s.runFault c part ch r e
      | .ok none => s.kick c ch
      | .ok (some bs) => s.decodeFrame c ch r.engine r.bytes bs
  else match r.ready with
    | none => s.readUnit c ch v r
    | some m => s.writeUnit c ch v r m

/-- The chain takes its next record, or ends (R168). -/
def takeRecord (s : State) (c : CellId) (ch : Nat) (v : Channel) : State :=
  let part := (s.getCell c).ctx.part
  if v.stopping then s.endChain c part ch 3 0
  else match v.cache with
    | (a, b, l) :: rest =>
      let r : RecRun := ⟨a, b, l, [], 0, 0, none, none, none, [], none, none, none, 0⟩
      ((s.setChan c ch { v with cache := rest, recAddr := a, cur := some r }).pushOnce (.recordFetch c ch)).kick c ch
    | [] =>
      if v.unowned then s.endChain c part ch 2 0
      else match v.failed with
        | some (a, sub) => s.chainFault c part ch a sub
        | none => if v.fetch = 0 then s.endChain c part ch 1 0 else s

/-- One step of a channel up to the moving of its last unit. -/
def channelStep (s : State) (c : CellId) (ch : Nat) (v : Channel) : State :=
  match v.cur with
  | none => s.takeRecord c ch v
  | some r =>
    match r.stage with
    | 0 => s.beginRecord c ch r
    | 1 => s.lockSides c ch r
    | 2 => s.moveRecord c ch v r
    | _ => s.kickDone c ch

/-! ### The completion of a record (R167) -/

/-- A data write of the record that a release at a scope covers is not acknowledged. -/
def postsOut (s : State) (c : CellId) (r : RecRun) (scope grp : Nat) : Bool :=
  let cover := s.coversAt c scope grp
  r.posts.any fun id => match s.getOp id with
    | some (.copyWrite _ _ _ _ g _) => cover.contains (classFrom c.dieId g.kind g.qa g.home)
    | _ => false

/-- Writes of a channel in the post classes that a scope covers are not acknowledged, be they of the record or of one before it: the channel's post
counts (R165). -/
def channelPosts (s : State) (c : CellId) (ch part scope grp : Nat) : Bool :=
  let cover := s.coversAt c scope grp
  s.ops.any fun o => match o.2 with
    | .copyWrite x n pt _ g _ => decide (x = c) && n == ch && pt == part && cover.contains (classFrom c.dieId g.kind g.qa g.home)
    | _ => false

/-- The record's completion goes on with the next step. -/
def nextStage (s : State) (c : CellId) (part ch n : Nat) : State :=
  (s.updRun c part ch fun r => { r with stage := n }).kickDone c ch

/-- OWN is cleared at the record's home, and the record's locks are removed (step 2). -/
def disown (s : State) (c : CellId) (ch : Nat) (r : RecRun) : State :=
  let part := (s.getCell c).ctx.part
  match s.getOp r.lock with
  | some (.lock _ _ _ _ _ (g :: _) _) =>
    if s.readHeld { g with len := 8 } then s.kickDone c ch
    else
      let w := s.mem.word g.qa &&& ~~~(1 : Word)
      let s1 := s.storeBytes (c.hart (64 + ch)) part (BitVec.ofNat 64 r.addr) { g with len := 8 } (natToBytes 8 w.toNat)
      (s1.freeLocks (r.lock :: r.sides)).nextStage c part ch 5
  | _ => s.nextStage c part ch 5

/-- The flag of a completion (step 3). -/
def completionFlag (s : State) (c : CellId) (ch : Nat) (r : RecRun) : State :=
  let part := (s.getCell c).ctx.part
  let b := r.bytes
  let t := flagCell b
  if !(Rec.fset b || Rec.kind b == 2) then s.nextStage c part ch 6
  else if !Rec.frem b then (s.setFlag c part (Rec.flag b)).nextStage c part ch 6
  else if r.flagOp.isSome then s
  else if t.pkg ≠ c.pkg && s.unreachable c.pkg t.pkg then s.runFault c part ch r 8
  else
    ((s.updRun c part ch fun r => { r with flagOp := some s.nextId }).newOp (.flag (c.hart (64 + ch)) part t (Rec.flag b) true)).send
      c.pkg t.pkg 3 (.remoteFlagOp s.nextId)

/-- The task decrement of a completion (step 4), after a release at the task's scope as `tdep` makes it, over the posts of the channel (R183).
A fault at this step or the step before leaves OWN 0 and the earlier steps performed (R167, R173; DESIGN CHOICE, log 36). -/
def completionTask (s : State) (c : CellId) (ch : Nat) (r : RecRun) : State :=
  let part := (s.getCell c).ctx.part
  let b := r.bytes
  if !(Rec.tdec b || Rec.kind b == 3) then s.nextStage c part ch 7
  else match s.getTask c.pkg (Rec.task b) with
    | none => s.runFault c part ch r 9
    | some t =>
      if s.channelPosts c ch part t.scope t.group then s.kickDone c ch
      else match s.addTask c.pkg (Rec.task b) (-1) (c.hart (64 + ch)) with
        | none => s.runFault c part ch r 9
        | some s1 => s1.nextStage c part ch 7

/-- The interrupt of a completion (step 5), with which the record has completed: a poisoned frame sets CORRUPT (R171). The chain then goes
on. -/
def completionEnd (s : State) (c : CellId) (ch : Nat) (v : Channel) (r : RecRun) : State :=
  let part := (s.getCell c).ctx.part
  let s1 := match v.owner with
    | some h => if Rec.intr r.bytes then
        s.updWho h part fun x => { x with csr := { x.csr with mip := x.csr.mip ||| BitVec.ofNat 64 (2 ^ 17) } }
      else s
    | none => s
  ((s1.setChan c ch { v with cur := none, corrupt := v.corrupt || decide (r.frame = some none) }).pushOnce (.recordFetch c ch)).kick c ch

/-- One step of the completion of a record. -/
def completeStep (s : State) (c : CellId) (ch : Nat) (v : Channel) (r : RecRun) : State :=
  match r.stage with
  | 3 =>
    if s.postsOut c r (Rec.scope r.bytes) (Rec.group r.bytes) then s.kickDone c ch
    else s.nextStage c (s.getCell c).ctx.part ch 4
  | 4 => s.disown c ch r
  | 5 => s.completionFlag c ch r
  | 6 => s.completionTask c ch r
  | 7 => s.completionEnd c ch v r
  | _ => s

/-! ### What reaches a channel -/

/-- The answer of a Read request of a record. -/
def chanRead (s : State) (c : CellId) (ch part id : Nat) (ans : BlockAns) : State :=
  let s1 := s.dropOp id
  match (s.getChanFor c part ch).cur with
  | none => s1
  | some r =>
    if r.reading ≠ some id then s1
    else
      let got := fun m : Moved => (s1.updRun c part ch fun r => { r with reading := none, ready := some m }).kick c ch
      match ans with
      | .data d sd => got ⟨d, sd, false⟩
      | .poison => got ⟨0, 0, true⟩
      | .unreachable => s1.runFault c part ch r 8
      | _ => s1.runFault c part ch r 2

/-- The answer of a Write or Poison request of a record. -/
def chanWrite (s : State) (c : CellId) (ch part id : Nat) (ans : BlockAns) : State :=
  let s1 := s.dropOp id
  match (s.getChanFor c part ch).cur with
  | none => s1
  | some r =>
    if r.writing ≠ some id then s1
    else match ans with
      | .written => s1.nextUnit c part ch
      | .unreachable => s1.runFault c part ch r 8
      | .coded w => if fld w 0 8 = 0 then s1.nextUnit c part ch else s1.runFault c part ch r 4
      | _ => s1.runFault c part ch r 4

/-- A posted write of a record is acknowledged, or will never be. -/
def chanAcked (s : State) (c : CellId) (ch part id : Nat) : State :=
  ((s.dropOp id).updRun c part ch fun r => { r with posts := r.posts.filter fun n => n != id }).kickDone c ch

/-- A posted write of the record in flight fails at its home. -/
def chanPostFails (s : State) (c : CellId) (ch part id sub : Nat) : State :=
  let s1 := s.dropOp id
  match (s.getChanFor c part ch).cur with
  | some r => if r.posts.contains id then s1.runFault c part ch r sub else s1
  | none => s1

/-- The entry of a discarded host write goes to the log of the cell that made it; a front end has the log of its die. -/
def logDiscard (s : State) (c : CellId) (part hart : Nat) : State :=
  if isFront c then s.logDie c.dieId true 52 0 0 0 0 else s.logCell c true 52 0 0 part hart

/-- A LOST word that a write of a piece covers only in part (R214). -/
def lostPartly (s : State) (g : Seg) (bytes : List Byte) : Bool :=
  (pieceWords g.qa bytes.length).any fun w =>
    decide (lookup w s.words = some .lost) && decide ((pieceWord g.qa bytes w).1 ≠ BitVec.allOnes 64)

/-- A posted write of a record performs at its home (R165); inside a range that another operation has locked it waits (R168). -/
def performCopy (s : State) (id : Nat) (c : CellId) (ch part : Nat) (va : Word) (g : Seg) (bytes : List Byte) : State :=
  let ack := fun t : State => t.send g.home.pkg c.pkg 1 (.postAck id)
  if s.pieceHeld g || s.lockedElse (s.writeLocks c ch part id) part va g then s.push (.postPerform id)
  else if s.hostGone g.qa then ack (s.logDiscard c part ((((s.getChanFor c part ch).owner).map fun h => h.hart % 32).getD 0))
  else if g.kind == kTracked && s.lostPartly g bytes then s.chanPostFails c ch part id 7
  else
    let s1 := (s.ownedWords g).foldl (fun t p => t.recallWord p.2 p.1) s
    ack (s1.storeBytes (c.hart (64 + ch)) part va g bytes)

/-- A replica has still to apply a word of a piece that a unit wrote (R219). -/
def replicasOut (s : State) (h : HartId) (g : Seg) : Bool :=
  g.kind == kReplicated && s.ops.any fun o => match o.2 with
    | .post a none _ _ _ _ _ => decide (a.hart = h) && (pieceWords g.qa g.len).contains (wordOf a.qa)
    | _ => false

end State

/-! ### The instructions -/

/-- cpgo (R170), a hand-off (R71). -/
def execCpgo (rs1 rs2 : Nat) (s : State) : Out :=
  let ch := fld (s.xr rs1) 0 2
  let head := s.xr rs2
  .next (if head.toNat % 64 ≠ 0 then s.trap 4 head
    else s.handOff fun s =>
      let v := s.getChan s.myCell ch
      if v.busy then s.await (.channel ch) true
      else if head = 0 then (s.setChan s.myCell ch { v with ended := 1 }).retire
      else (s.startChain s.myCell s.ctx.part ch head.toNat (some s.who) s.me.mode ((s.me.csr.minstret.toNat + 1) % 2 ^ 32)).retire)

/-- cpstat (R171): while a chain runs, which END it shows, of those of the table, no rule states (log 12). -/
def execCpstat (rd rs1 : Nat) (s : State) : Out :=
  let v := s.getChan s.myCell (fld (s.xr rs1) 0 2)
  let ended := if v.busy then Config.unstated 41 s.tick 0 % 5 else v.ended
  .next (s.finish rd (BitVec.ofNat 64 (v.recAddr / 64 * 64 + (if v.busy then 32 else 0) + ended * 4 + if v.corrupt then 2 else 0)))

/-- cpstop (R172). -/
def execCpstop (rs1 : Nat) (s : State) : Out :=
  let ch := fld (s.xr rs1) 0 2
  let v := s.getChan s.myCell ch
  .next (if !v.busy then s.retire
    else
      let s1 := (s.freeLocks (v.cache.map fun e => e.2.2)).setChan s.myCell ch { v with
        fetch := 0, cache := [], unowned := false, failed := none, stopping := true }
      (if v.cur.isNone then s1.endChain s.myCell s.ctx.part ch 3 0 else s1).retire)

/-- cpwait (R172). -/
def execCpwait (rs1 : Nat) (s : State) : Out :=
  let ch := fld (s.xr rs1) 0 2
  .next (if s.me.answer = some .done ∨ !(s.getChan s.myCell ch).busy then s.retire else s.await (.channel ch) true)

/-! ### The events of a channel -/

/-- RECORD_FETCH (R168): at most 8 records ahead of the record in flight. -/
def execRecordFetch (c : CellId) (ch : Nat) (s : State) : Out :=
  let v := s.getChan c ch
  .next (if !v.busy || v.stopping || v.fetch == 0 || decide (8 ≤ v.cache.length) then s
    else if s.enginesPaused c then s.push (.recordFetch c ch)
    else s.fetchRecord c ch v)

/-- RECORD_START (R163, R168): a record starts, locks its sides, and moves unit by unit. A unit already read lands before the
channel pauses (R283, R287). -/
def execRecordStart (c : CellId) (ch : Nat) (s : State) : Out :=
  let v := s.getChan c ch
  .next (if !v.busy then s
    else if s.enginesPaused c && !(v.cur.any fun r => r.ready.isSome) then s.push (.recordStart c ch)
    else s.channelStep c ch v)

/-- RECORD_COMPLETE (R167): one step of the completion. -/
def execRecordComplete (c : CellId) (ch : Nat) (s : State) : Out :=
  let v := s.getChan c ch
  .next (match v.cur with
    | none => s
    | some r => if s.enginesPaused c then s.push (.recordComplete c ch) else s.completeStep c ch v r)

/-! ### Events that channels share with harts -/

/-- RANGE_LOCK (R123): a row of a drain asks for its lock. -/
def execRangeLock (id : Nat) (s : State) : Out := .next (s.lockRow id)

/-- POST_PERFORM (R114, R165): a posted store performs at its home, or at one more replica. -/
def execPostPerform (id : Nat) (s : State) : Out :=
  .next (match s.getOp id with
    | some (.post a (some c) mask val add _ false) => s.performPost id a c mask val add
    | some (.post a (some c) mask val _ left true) =>
      s.replicaStep id a (some c) mask val left (left.getD (s.draw % left.length) 0) (.postPerform id)
    | some (.copyWrite c ch part va g bytes) => s.performCopy id c ch part va g bytes
    | _ => s)

/-- POST_ACK (R114): a posted store, row or copy write is acknowledged to its unit. -/
def execPostAck (id : Nat) (s : State) : Out :=
  .next (match s.getOp id with
    | some (.post a cls _ _ _ [] true) => (s.landed a cls).acked id a.hart a.part cls
    | some (.row h part cls _ _ g _ _ true) =>
      if s.replicasOut h g then s.push (.postAck id) else (s.unlock id).acked id h part (some cls)
    | some (.copyWrite c ch part _ g _) =>
      if s.replicasOut (c.hart (64 + ch)) g then s.push (.postAck id) else s.chanAcked c ch part id
    | _ => s)

/-- BLOCK_ANSWER_LANDS (R103): the answer of a Read request lands. -/
def execBlockAnswerLands (id : Nat) (s : State) : Out :=
  .next (match s.getOp id with
    | some (.block (.read q) who part blk _ tile idx _ _ _ _ (some ans)) =>
      match who with
      | .hart h => s.landRead h part id (pkgOfQa blk) tile idx q ans
      | .chan c ch => s.chanRead c ch part id ans
      | .solver _ _ => s.dropOp id
    | _ => s)

/-- BLOCK_WRITE_ANSWER (R104 to R106): the answer of any other presence request reaches its unit. -/
def execBlockWriteAnswer (id : Nat) (s : State) : Out :=
  .next (match s.getOp id with
    | some (.block (.read _) _ _ _ _ _ _ _ _ _ _ _) => s
    | some (.block req who part _ _ tile idx _ _ _ _ (some ans)) =>
      match who with
      | .hart h => s.landWrite h part id tile idx req ans
      | .chan c ch => s.chanWrite c ch part id ans
      | .solver d _ => s.decisionAnswer d id ans
    | _ => s)

/-- A presence request reaches the block's home, in the order its unit sent its requests there (R99, R102). -/
def State.presenceTurn (s : State) (id : Nat) (mine : BlockReq → Bool) (again : Event) : State :=
  match s.getOp id with
  | some (.block req _ _ _ _ _ _ _ _ _ false _) =>
    if !mine req then s else if s.inTurn id then s.homeApply id else s.push again
  | _ => s

/-- READ_REQUEST (R99). -/
def execReadRequest (id : Nat) (s : State) : Out :=
  .next (s.presenceTurn id (fun r => decide (r = .read false) || decide (r = .read true)) (.readRequest id))

/-- WRITE_REQUEST (R99). -/
def execWriteRequest (id : Nat) (s : State) : Out := .next (s.presenceTurn id (fun r => decide (r = .write)) (.writeRequest id))

/-- POISON_REQUEST (R99). -/
def execPoisonRequest (id : Nat) (s : State) : Out := .next (s.presenceTurn id (fun r => decide (r = .poison)) (.poisonRequest id))

/-- CLEAR_REQUEST (R99). -/
def execClearRequest (id : Nat) (s : State) : Out := .next (s.presenceTurn id (fun r => decide (r = .clear)) (.clearRequest id))

/-- PRESENCE_STATUS_READ (R106). -/
def execPresenceStatusRead (id : Nat) (s : State) : Out :=
  .next (s.presenceTurn id (fun r => decide (r = .status)) (.presenceStatusRead id))

/-- DEFER_RETRY (R101): a reader that found no room in the list asks again. -/
def execDeferRetry (id : Nat) (s : State) : Out :=
  .next (match s.getOp id with
    | some (.block (.read q) _ _ blk gen _ _ _ _ retries true none) =>
      if retries = 0 || (s.getBlock blk).list.any fun e => e.op == id then s else s.homeRead id blk gen q
    | _ => s)

/-- An older flag operation of the same unit to the same cell is still under way (R74). -/
def State.flagAhead (s : State) (id : Nat) (src : HartId) (dst : CellId) : Bool :=
  s.ops.any fun o => decide (o.1 < id) && (match o.2 with
    | .flag src' _ dst' _ _ => decide (src' = src) && decide (dst' = dst)
    | _ => false)

/-- REMOTE_FLAG_OP (R74, R285): applied to the flags of the partition's context in the target cell, in the order in which its unit
issued its operations there. -/
def execRemoteFlagOp (id : Nat) (s : State) : Out :=
  .next (match s.getOp id with
    | some (.flag src part dst n v) =>
      if s.flagAhead id src dst then s.push (.remoteFlagOp id)
      else
        let s1 := (s.putFlag dst part n v).dropOp id
        if 64 ≤ src.hart then
          let ch := src.hart - 64
          match (s1.getChanFor src.cellId part ch).cur with
          | some r => if r.flagOp = some id then s1.nextStage src.cellId part ch 6 else s1
          | none => s1
        else s1
    | _ => s)

end Sys2Proof.Machine
end

