-- ==== Sys2Proof/Machine/Swap.lean ====
section
/-!
DEFINITION. The berth swap (R91, R282 to R285), and the going back of a predicted path to its branch, which a swap shares with a
debug halt.
-/
namespace Sys2Proof.Machine

namespace State

/-! ### A hart goes back to its branch (R287) -/

/-- A hart on a predicted path goes back to its unresolved branch: an instruction boundary at which its branches have resolved (R287). -/
def rollBack (s : State) (h : HartId) : State :=
  match (s.getHart h).spec with
  | none => s
  | some sp => s.goBack (s.nameOf h) (s.getCell h.cellId).ctx.part sp

/-- The hart slots of a cell. -/
def slots (c : CellId) : List HartId := (List.range 24).map c.hart

/-- Every hart of a cell goes back to its branch. -/
def rollBackAll (s : State) (c : CellId) : State := (slots c).foldl rollBack s

/-- A hart of the cell is on a predicted path and waits for an answer. -/
def pathWaits (s : State) (c : CellId) : Bool :=
  (slots c).any fun h => (s.getHart h).spec.isSome && (s.getHart h).wait.any fun w => decide (w.kind = .answer)

/-- An instruction of the hart is past its issue, so that it completes in a cell whose issue has stopped (R283, R287): it has parked, or
part of it is done, or something that it asked for is on its way. -/
def midway (v : Hart) : Bool :=
  v.parked || v.answer.isSome || (v.wait.any fun w => decide (w.kind = .answer) || decide (w.kind = .admission)) || (match v.op with
    | none => false
    | some (.rows _ _) => false
    | some _ => true)

/-- A hart of the cell is in the middle of an instruction that is not parked: it completes before the cell stands still. -/
def unfinished (s : State) (c : CellId) : Bool :=
  (slots c).any fun h =>
    let v := s.getHart h
    midway v && v.spec.isNone && !(v.parked && v.wait.isSome)

/-- A command or copy record of the cell is between two suspend points: a result that is still to be written, or a unit that is
read and not written (R283). -/
def betweenPoints (s : State) (c : CellId) : Bool :=
  let x := (s.getCell c).ctx
  (x.mq ++ x.vq ++ x.cq).any (fun k => k.result.isSome) || x.chans.any fun p => p.2.cur.any fun r => r.ready.isSome

/-! ### Islands (R314) -/

/-- An island of a die: request, FLOOR, GATE (R314); GATE is 1 at reset. -/
def island (s : State) (d : DieId) (n : Nat) : Nat × Nat × Bool := (lookup n (s.getDie d).islands).getD (0, 0, true)

/-- Replace it. -/
def setIsland (s : State) (d : DieId) (n : Nat) (v : Nat × Nat × Bool) : State :=
  s.updDie d fun x => { x with islands := store n v x.islands }

/-- The island of a cell: its quadrant (R314). -/
def quadrant (c : CellId) : Nat := c.cell / 12 / 6 * 3 + c.cell % 12 / 4

/-- An island's occupancy counters request a level. -/
def requestLevel (s : State) (d : DieId) (n level : Nat) : State :=
  if n < 8 ∧ level ≤ 7 then s.setIsland d n (level, (s.island d n).2) else s

/-! ### The swap (R283) -/

/-- A swap of a cell is asked for, unless one is under way. -/
def askSwap (s : State) (c : CellId) (waiter : Option (HartId × Nat)) : State :=
  if (s.getCell c).swap != 0 then s
  else (s.updCell c fun v => { v with swap := 1, swapWaiter := waiter }).push (.swapGraceExpiry c)

/-- A swap waits: the cell is in debug halt, a service context stands on it or is to start (R283), or a launch has reserved it. -/
def swapWaits (s : State) (c : CellId) : Bool :=
  let v := s.getCell c
  wbit v.dbg 17 || v.haltCause != 0 || !v.preempted.isEmpty || (match v.ctx.use with
    | .reserved .. => true
    | _ => false)

/-- Registration quiesce (R283, R284): the L1 is dropped whole, and the homes of its OWNED words enter LOST; reservations of the
cell's harts are lost. -/
def dropL1 (s : State) (c : CellId) : State :=
  let owned := (s.getCell c).l1.filter fun e => e.2.owned
  let s1 := owned.foldl (fun t e => t.loseWord e.1 (t.homeOf kTracked e.1)) s
  let s2 := (s1.updCell c fun v => { v with l1 := [] }).spoilLoads c fun _ => true
  { s2 with resvs := s2.resvs.filter fun r => !decide (r.1.cellId = c) }

/-- Retention ends unclaimed: the blocks are powered down (R261). -/
def endRetention (s : State) (c : CellId) : State :=
  match (s.getCell c).ctx.use with
  | .retained _ => s.updCtx c fun x => { x with use := .idle, tiles := [] }
  | _ => s

/-- The harts of a cell leave the state. -/
def withoutHarts (s : State) (c : CellId) : List (HartId × Hart) := s.harts.filter fun p => !decide (p.1.cellId = c)

/-- The exchange (R283, R284): context and harts go to the berth, those of the berth become active; a cell whose berth is empty
is left holding no partition (R282). -/
def exchange (s : State) (c : CellId) : State :=
  let v := s.getCell c
  let image := (s.harts.filter fun p => decide (p.1.cellId = c)).map fun p => (p.1.hart, p.2)
  let (ctx, hs) := v.berth.getD (CellCtx.reset, [])
  let berth := if v.ctx.part = 0xFF then none else some (v.ctx, image)
  let back : List (HartId × Hart) := hs.map fun p => (c.hart p.1, p.2)
  let now := { v with ctx := ctx, berth := berth, istore := [], istoreBad := [], swap := 0, swapWaiter := none }
  ({ s with harts := s.withoutHarts c ++ back }).setCell c now

/-- Restart (R283): what is queued in the image goes on, each command and each committed entry of the commit buffer, and harts test their
waits. -/
def restart (s : State) (c : CellId) : State :=
  let x := (s.getCell c).ctx
  let queued := [0, 1, 2].flatMap fun e => (x.queue e).map fun _ => Event.engineCommandStart c e
  let chans := (x.chans.filter fun p => p.2.busy).map fun p => p.1
  let late := ((x.commit.filter fun b => b.tag == 0).map fun b => b.cmd.src).eraseDups
  let es : List Event := queued ++ chans.flatMap (fun ch => [.recordFetch c ch, .recordStart c ch,
    .recordComplete c ch]) ++ late.map .commitBufferCommit ++ (if x.lastHalted then [.cellDone c] else [])
  s.pushAll es

/-- Issue has stopped, and the engines stand at suspend points: the swap takes place, with level 0
requested for the cell's island, and whoever waits for it is told (R91). -/
def swapNow (s : State) (c : CellId) : State :=
  let w := (s.getCell c).swapWaiter
  let s0 := s.requestLevel c.dieId (quadrant c) 0
  let s1 := ((((s0.rollBackAll c).endRetention c).dropL1 c).exchange c).restart c
  match w with
  | some (h, part) => s1.answer h part .done
  | none => s1

/-- The next step of a swap. -/
def swapStep (s : State) (c : CellId) : State :=
  let again := fun (t : State) (n : Nat) => (t.updCell c fun v => { v with swap := n }).push (.swapGraceExpiry c)
  match (s.getCell c).swap with
  | 0 => s
  | 1 => if s.swapWaits c then again s 1
    else again ((slots c).foldl (fun t h => if liveHart (t.getHart h) then t.raiseMip h 18 else t) s) 2
  | 2 => if s.swapWaits c then again s 2 else again s 3
  | _ => if s.swapWaits c || s.unfinished c || s.betweenPoints c || s.pathWaits c then again s 3 else s.swapNow c

/-- The cell of this package that a `pswap` names (R91). -/
def swapTarget (s : State) (v : Word) : Option CellId :=
  let n := fld v 0 12
  let c : CellId := ⟨s.cur.pkg, n / 144, n % 144⟩
  if 2303 < n ∨ c = s.myCell then none else some c

end State

/-! ### The instruction and the event -/

/-- pswap (R91): the hart parks until the target has swapped. A target that is swapping already is waited for first. -/
def execPswap (rs1 : Nat) (s : State) : Out :=
  .next (s.machineOnly (.pswap rs1) fun s =>
    match s.swapTarget (s.xr rs1) with
    | none => s.trap 38 (s.xr rs1)
    | some c =>
      if s.me.answer = some .done then s.retire
      else if (s.getCell c).swap != 0 then s.await .retry true
      else (s.askSwap c (some (s.who, s.ctx.part))).await .answer true)

/-- SWAP_GRACE_EXPIRY (R283): a swap that was asked for takes its next step: the notice, the end of GRACE, the exchange. -/
def execSwapGraceExpiry (c : CellId) (s : State) : Out := .next (s.swapStep c)

end Sys2Proof.Machine
end

