-- ==== Sys2Proof/Machine/Service.lean ====
section
/-!
DEFINITION. Pre-emption within a partition: the start of a service context, the eviction of a bank, and the filling of the
granules of an evicted context (R278 to R281).
-/
namespace Sys2Proof.Machine

/-- The register granule that holds xn: 0 to 3 (R280). -/
def granuleX (n : Nat) : Nat := n / 8

/-- The register granule that holds hn: 4 or 5 (R280). -/
def granuleH (n : Nat) : Nat := 4 + n / 8

namespace State

/-! ### Filling an absent granule (R280) -/

/-- The registers of a context after granule `g` is filled from its bytes. -/
def withGranule (v : Hart) (g : Nat) (bs : List Byte) : Hart :=
  let n := bytesToNat bs
  if g < 4 then
    { v with x := (List.range 8).foldl (fun x i => x.setIfInBounds (8 * g + i) (BitVec.ofNat 64 (bitsOf n (64 * i) 64))) v.x
             absent := v.absent.filter fun k => k != g }
  else
    { v with h := (List.range 8).foldl (fun x i => x.setIfInBounds (8 * (g - 4) + i) (BitVec.ofNat 256 (bitsOf n (256 * i) 256))) v.h
             absent := v.absent.filter fun k => k != g }

/-- The place of a granule in the save area, and its size. -/
def granulePlace (s : State) (h : HartId) (g : Nat) : Nat × Nat :=
  if g < 4 then (s.saveBase h + 64 * g, 64) else (s.saveBase h + 256 + 256 * (g - 4), 256)

/-- Fill granules that are absent, in order; the save address of the first that meets OWNER_LOST otherwise. -/
def fillGranules (h : HartId) : List Nat → State → Except Nat State
  | [], s => .ok s
  | g :: l, s =>
    if !(s.getHart h).absent.contains g then fillGranules h l s
    else
      let p := s.granulePlace h g
      match s.physRead p.1 p.2 with
      | none => .error (paOf p.1)
      | some bs => fillGranules h l (s.updHart h fun v => withGranule v g bs)

/-! ### Banks (R279) -/

/-- Banks in use of a processor of a cell: those of its contexts that exist and are resident, and of pre-empted ones that are not
evicted. -/
def banksUsed (s : State) (c : CellId) (proc : Nat) : Nat :=
  ((slots c).filter fun h => procOf h.hart == proc && decide ((s.getHart h).status = .running)).length +
    ((s.getCell c).preempted.filter fun p => procOf p.1 == proc && decide (p.2.status = .running) && !p.2.evicted).length

/-- A hart is bound by a named pipe (R231). -/
def pipeBound (s : State) (h : HartId) : Bool :=
  (s.getCell h.cellId).ctx.queues.any fun q => q.2.pipe.any fun p => p.1 == h.hart || p.2 == h.hart

/-- The pre-empted context that is evicted next: the one pre-empted longest ago of those that may be. -/
def evictee (s : State) (c : CellId) (proc : Nat) : Option Nat :=
  ((s.getCell c).preempted.find? fun p =>
    procOf p.1 == proc && decide (p.2.status = .running) && !p.2.evicted && !s.pipeBound (c.hart p.1)).map fun p => p.1

/-- A hart has a load, registration, atomic or presence request outstanding. A read that its home has put on the block's list is
outstanding no more: its entry names no register bank (R230). -/
def requestsOut (s : State) (h : HartId) : Bool :=
  s.ops.any fun o => match o.2 with
    | .block (.read _) (.hart k) _ blk _ _ _ _ _ _ _ none => decide (k = h) && !((s.getBlock blk).list.any fun e => e.op == o.1)
    | .load a _ _ => decide (a.hart = h)
    | .register a _ _ _ => decide (a.hart = h)
    | .atomic a _ _ _ => decide (a.hart = h)
    | .block _ (.hart k) _ _ _ _ _ _ _ _ _ _ => decide (k = h)
    | _ => false

/-- The bytes of a register granule of a context. -/
def granuleBytes (v : Hart) (g : Nat) : List Byte :=
  if g < 4 then (List.range 8).flatMap fun i => natToBytes 8 ((v.x[8 * g + i]?).getD 0).toNat
  else (List.range 8).flatMap fun i => natToBytes 32 ((v.h[8 * (g - 4) + i]?).getD 0).toNat

/-- A context's bank is written to its save area (R280); a granule that is absent from the bank stands there already. All six are absent
then. -/
def evict (s : State) (h : HartId) (v : Hart) : State :=
  let held := (List.range 6).filter fun g => !v.absent.contains g
  let s1 := held.foldl (fun t g => t.physWrite (s.granulePlace h g).1 (granuleBytes v g)) s
  let s3 := (s1.physWrite (s.saveBase h + 768) (controlBytes v)).dropResv h
  s3.updCell h.cellId fun c => { c with preempted := store h.hart { v with evicted := true, absent := [0, 1, 2, 3, 4, 5] } c.preempted }

/-- A context's post counts are zero, and nothing that it asked for is outstanding (R279). -/
def bankQuiet (s : State) (h : HartId) (v : Hart) : Bool := v.postDie == 0 && v.postPkg == 0 && v.postSys == 0 && !s.requestsOut h

/-- A bank of a processor is free, or becomes free by the eviction of the context pre-empted longest ago; none while that has to wait (R279). -/
def freeBank (s : State) (c : CellId) (proc : Nat) : Option State :=
  if s.banksUsed c proc < 12 then some s
  else (s.evictee c proc).bind fun n => (lookup n (s.getCell c).preempted).bind fun v =>
    if s.bankQuiet (c.hart n) v then some (s.evict (c.hart n) v) else none

/-! ### The start of a service context (R278, R281) -/

/-- CTXCTL.BUSY for a slot: a service context stands on it or is to start. -/
def slotBusy (s : State) (c : CellId) (slot : Nat) : Bool :=
  let v := s.getCell c
  (v.preempted.any fun p => p.1 == slot) || v.starting.any fun t => t.slot == slot

/-- CTXCTL as it reads (R278). -/
def ctxCtlRead (s : State) (c : CellId) : Word :=
  let v := (s.getCell c).ctxCtl
  setFld v 62 1 (if s.slotBusy c (fld v 0 5) then 1 else 0)

/-- A write of CTXCTL (R278): TILES, PRIO and SLOT are stored; GO starts a service context, unless BUSY is 1. -/
def writeCtxCtl (s : State) (c : CellId) (v : Word) : State :=
  let old := (s.getCell c).ctxCtl
  let slot := if fld v 0 5 < 24 then fld v 0 5 else fld old 0 5
  let new := BitVec.ofNat 64 (fld v 32 16 * 2 ^ 32 + fld v 5 2 * 32 + slot)
  let s1 := s.updCell c fun x => { x with ctxCtl := new }
  if wbit v 63 && !s.slotBusy c slot then
    (s1.updCell c fun x => { x with starting := x.starting ++ [⟨slot, ctlTiles new, fld v 5 2, x.ctxPc⟩] }).push
      (.serviceContextStart c 17 0)
  else s1

/-- A service context that is to start has to wait: a debug halt, a swap past its notice, a gang context on a predicted path, in
the middle of an instruction or with a message that it has begun to store (R84), or a matrix command that names one of its tiles (R281). -/
def startWaits (s : State) (c : CellId) (t : Starting) : Bool :=
  let v := s.getCell c
  let g := s.getHart (c.hart t.slot)
  s.enginesPaused c || decide (2 ≤ v.swap) || g.spec.isSome || (g.wait.isNone && (g.op.isSome || g.answer.isSome)) ||
    (match g.op with
      | some (.receiving _ _) => true
      | _ => false) ||
    v.ctx.mq.any fun k => t.tiles.contains (accOf k.instr)

/-- The service context on its slot (R278). -/
def serviceHart (s : State) (c : CellId) (t : Starting) : Hart :=
  { Hart.reset with
    status := .running, pc := t.pc, mode := .m, service := true, prio := t.prio
    x := (Hart.reset.x).setIfInBounds 10 (s.getCell c).csave }

/-- A service context starts: its tiles are saved, and the gang context is pre-empted. -/
def startService (s : State) (c : CellId) (t : Starting) : State :=
  let h := c.hart t.slot
  let s1 := s.saveTiles c t.tiles
  (s1.updCell c fun v => { v with
    starting := v.starting.filter fun u => u.slot != t.slot
    preempted := store t.slot (s1.getHart h) v.preempted
    savedTiles := store t.slot t.tiles v.savedTiles }).setHart h (s1.serviceHart c t)

/-- The first service context that is to start does so, or waits for a bank or for what else it has to wait for. -/
def goOnStarting (s : State) (c : CellId) : State :=
  match (s.getCell c).starting with
  | [] => s
  | t :: l =>
    let again := fun u : State => u.push (.serviceContextStart c 17 0)
    let proc := procOf t.slot
    if s.startWaits c t then again (s.updCell c fun v => { v with starting := l ++ [t] })
    else if 12 ≤ s.banksUsed c proc then
      match s.evictee c proc with
      | some n => again (s.pushOnce (.bankEviction (c.hart n)))
      | none => again s
    else s.startService c t

end State

/-! ### The events -/

/-- SERVICE_CONTEXT_START (R278): a write of CTXCTL by the die's firmware core; agent 17 is the cell itself, which goes on with a
start that had to wait. -/
def execServiceContextStart (c : CellId) (agent value : Nat) (s : State) : Out :=
  .next (if agent = 17 then s.goOnStarting c
    else if agent = c.die ∧ s.dieRuns c.dieId then s.writeCtxCtl c (BitVec.ofNat 64 value)
    else s)

/-- BANK_EVICTION (R279): the bank of the context pre-empted longest ago is evicted while a start needs a bank, once its counts
are zero and nothing it asked for is outstanding. -/
def execBankEviction (h : HartId) (s : State) : Out :=
  let c := h.cellId
  let proc := procOf h.hart
  .next (if !((s.getCell c).starting.any fun t => procOf t.slot == proc) || s.banksUsed c proc < 12 || s.evictee c proc != some h.hart then s
    else match lookup h.hart (s.getCell c).preempted with
      | none => s
      | some v =>
        if s.bankQuiet h v then s.evict h v else s.push (.bankEviction h))

end Sys2Proof.Machine
end

