-- ==== Sys2Proof/Machine/Debug.lean ====
section
/-!
DEFINITION. Debug halt, resume and step, and a debugger's access to registers (R286 to R288).
-/
namespace Sys2Proof.Machine

namespace State

/-- The host, which writes die registers as agent 16; agents 0 to 15 are the firmware cores of the dies of the package (R246). -/
abbrev host : Nat := 16

/-- The Writers column "H, F" (R246). -/
def hostOrOwn (d : DieId) (agent : Nat) : Bool := agent == host || agent == d.die

/-- A write of DBG.CTL in the die's register space (R286). -/
def writeDbgCtl (s : State) (c : CellId) (v : Word) : State := s.dbgStore c v

/-- A write of DBG.CTL by an agent. -/
def agentDbgCtl (s : State) (c : CellId) (agent value : Nat) : State :=
  if hostOrOwn c.dieId agent && s.dieRuns c.dieId then s.writeDbgCtl c (BitVec.ofNat 64 value) else s

/-- Every hart of the cell stands at a boundary, and engines and channels at suspend points; in a quiesce halt nothing is on its
way to the cell either (R287). -/
def haltReady (s : State) (c : CellId) : Bool :=
  !s.pathWaits c && !s.unfinished c && !s.betweenPoints c && (wbit (s.getCell c).dbg 1 || s.inbound c == 0)

/-- The cell is in debug halt. -/
def haltCell (s : State) (c : CellId) : State :=
  (s.rollBackAll c).updCell c fun v => { v with dbg := setFld (setFld v.dbg 17 1 1) 20 3 v.haltCause, haltCause := 0 }

/-! ### Registers (R288) -/

/-- What a mispredict restores is changed in every open branch of a hart, so that a debugger's write outlives it (R288). -/
def Hart.resaved (v : Hart) (f : Spec → Spec) : Hart := { v with spec := v.spec.map f, younger := v.younger.map f }

/-- Read or write a scalar register; x0 ignores writes. Every open branch keeps a copy of the value (R288). -/
def debugX (s : State) (h : HartId) (n : Nat) (w : Option Word) : Word × State :=
  let v := s.getHart h
  match w with
  | some d => (d, if n = 0 then s else s.setHart h
      (Hart.resaved { v with x := v.x.setIfInBounds n d } fun sp => { sp with savedX := sp.savedX.setIfInBounds n d }))
  | none => (if n = 0 then 0 else (v.x[n]?).getD 0, s)

/-- Read or write word `k` of a handle register. -/
def debugH (s : State) (h : HartId) (n k : Nat) (w : Option Word) : Word × State :=
  let v := s.getHart h
  let old := (v.h[n]?).getD 0
  match w with
  | some d => (d, s.setHart h { v with h := v.h.setIfInBounds n (hPut old (64 * k) 64 d.toNat) })
  | none => (BitVec.ofNat 64 (hField old (64 * k) 64), s)

/-- The access that NUM names (R288); none when it names nothing. -/
def debugAccess (s : State) (h : HartId) (num : Nat) (w : Option Word) : Option (Word × State) :=
  let filled := fun (g : Nat) (k : State → Word × State) => match fillGranules h [g] s with
    | .ok t => some (k t)
    | .error _ => none
  if num < 32 then filled (granuleX num) fun t => t.debugX h num w
  else if 0x100 ≤ num ∧ num < 0x140 then filled (granuleH ((num - 0x100) / 4)) fun t => t.debugH h ((num - 0x100) / 4) (num % 4) w
  else if num = 0x2000 then
    match w with
    | some d => some (d, s.updHart h fun v => { v with pc := d, insn := none })
    | none => some ((s.getHart h).pc, s)
  else if 0x1000 ≤ num ∧ num < 0x2000 then
    match lookup (num - 0x1000) csrTable, w with
    | none, _ => none
    | some _, none => some (s.csrGet h (num - 0x1000), s)
    | some (_, ro), some d =>
      let t := if ro then s else s.csrSet h (num - 0x1000) d
      some (d, if num = 0x1B02 then t.updHart h fun v => Hart.resaved v fun sp => { sp with savedMinstret := d } else t)
  else none

/-- An access to the gang context of a slot, also where a service context pre-empts it; for an evicted one the granules of its registers are
absent, and a write of what its control granule holds reaches the save area (R278, R280; DEDUCED, log 30). -/
def gangAccess (s : State) (h : HartId) (num : Nat) (w : Option Word) : Option (Word × State) :=
  match lookup h.hart (s.getCell h.cellId).preempted with
  | none => s.debugAccess h num w
  | some g =>
    let s0 := s.setHart h g
    if g.evicted && decide (0x1000 ≤ num) && s.physRead (s0.saveBase h + 768) 256 != some (controlBytes g) then none
    else (s0.debugAccess h num w).map fun r =>
      let g1 := r.2.getHart h
      let s1 := if g.evicted then r.2.physWrite (s0.saveBase h + 768) (controlBytes g1) else r.2
      (r.1, (s1.updCell h.cellId fun v => { v with preempted := store h.hart g1 v.preempted }).setHart h (s.getHart h))

/-- The gang context of a slot exists. -/
def gangThere (s : State) (h : HartId) : Bool :=
  decide (((lookup h.hart (s.getCell h.cellId).preempted).getD (s.getHart h)).status ≠ .absent)

/-- A write of DBGCMD (R288). -/
def writeDbgCmd (s : State) (c : CellId) (v : Word) : State :=
  let keep := fun (t : State) (err : Nat) => t.updCell c fun x => { x with
    dbgCmd := setFld (v &&& BitVec.ofNat 64 (2 ^ 62 + 0x1FFFFF)) 61 1 err }
  if !wbit v 63 then keep s (fld (s.getCell c).dbgCmd 61 1)
  else
    let h := c.hart (fld v 16 5)
    if !wbit (s.getCell c).dbg 17 || decide (24 ≤ h.hart) || !s.gangThere h then keep s 1
    else if wbit v 62 then
      match s.gangAccess h (fld v 0 16) (some (s.getCell c).dbgData) with
      | some r => keep r.2 0
      | none => keep s 1
    else match s.gangAccess h (fld v 0 16) none with
      | some r => (keep (r.2.updCell c fun x => { x with dbgData := r.1 }) 0).emit (.debugRead c r.1)
      | none => keep s 1

/-- A write of DBGCMD by an agent. -/
def agentDbgCmd (s : State) (c : CellId) (agent value : Nat) : State :=
  if hostOrOwn c.dieId agent && s.dieRuns c.dieId then s.writeDbgCmd c (BitVec.ofNat 64 value) else s

end State

/-! ### The events -/

/-- DEBUG_HALT_REQUEST (R287): a write of DBG.CTL with HREQ. -/
def execDebugHaltRequest (c : CellId) (agent value : Nat) (s : State) : Out := .next (s.agentDbgCtl c agent value)

/-- DEBUG_HALT_REACHED (R287). -/
def execDebugHaltReached (c : CellId) (s : State) : Out :=
  .next (if (s.getCell c).haltCause = 0 then s
    else if s.haltReady c then s.haltCell c
    else s.push (.debugHaltReached c))

/-- DEBUG_RESUME (R287): a write of DBG.CTL with RESUME. -/
def execDebugResume (c : CellId) (agent value : Nat) (s : State) : Out := .next (s.agentDbgCtl c agent value)

/-- DEBUG_STEP (R287): a write of DBG.CTL with STEP. -/
def execDebugStep (c : CellId) (agent value : Nat) (s : State) : Out := .next (s.agentDbgCtl c agent value)

/-- DEBUG_REG_READ (R288): a write of DBGCMD with WRITE 0. -/
def execDebugRegRead (c : CellId) (agent value : Nat) (s : State) : Out := .next (s.agentDbgCmd c agent value)

/-- DEBUG_REG_WRITE (R288): a write of DBGCMD with WRITE 1. -/
def execDebugRegWrite (c : CellId) (agent value : Nat) (s : State) : Out := .next (s.agentDbgCmd c agent value)

end Sys2Proof.Machine
end

