-- ==== Sys2Proof/Machine/FrontEnd.lean ====
section
/-!
DEFINITION. The front end of a die: its accesses to memory, the mapped queues, the reading of commands and graph nodes, their
completion, and lottery selection (R247 to R249, R252, R253).
-/
namespace Sys2Proof.Machine

/-! ### Queue-table entries (R247) -/

/-- The fields of an entry, by its four words. -/
structure QEntry where
  base : Word
  taila : Word
  heada : Word
  tickets : Nat
  log2n : Nat
  part : Nat
  deriving DecidableEq, Repr

/-- An entry that is in force: mapped, no reserved bit set, TICKETS and LOG2N within range. -/
def qEntryOf (ws : List Word) : Option QEntry :=
  let w := ws.getD 3 0
  if fld w 32 8 = 1 ∧ fld w 40 24 = 0 ∧ fld w 0 16 ≠ 0 ∧ 4 ≤ fld w 16 8 ∧ fld w 16 8 ≤ 16 then
    some ⟨ws.getD 0 0, ws.getD 1 0, ws.getD 2 0, fld w 0 16, fld w 16 8, fld w 24 8⟩
  else none

/-- A queue as it is when it is mapped. -/
def FeQueue.reset : FeQueue := ⟨0, 0, 0, [], [], none, false, false⟩

/-- The cell number under which a die's front end makes its accesses and runs its copy channel. -/
def feCell (d : DieId) : CellId := ⟨d.pkg, d.die, 255⟩

/-! ### Reserved bits of commands and nodes (R249, R252) -/

/-- The bits that an operation of a command or node names in words 1 to 6; none for an operation that is not listed. `node`
selects the types of graph nodes. -/
def operandMasks (node : Bool) (op : Nat) : Option (List Word) :=
  let all : Word := BitVec.allOnes 64
  match op with
  | 1 => some [all]
  | 2 => some [all]
  | 3 => some [all, all, all, 0x3F01]
  | 4 => some [all, all, all, 3]
  | 5 => if node then some [all] else some [all, 0xFF, all]
  | 6 => if node then some [] else none
  | 7 => if node then none else some [all, 0xFFFFFFFF]
  | 8 => if node then none else some [0xFF]
  | 9 => if node then none else some []
  | _ => none

/-- Byte offset of the first word with a reserved bit that is not zero, or 0 for an operation that is not listed. -/
def reservedAt (node : Bool) (ws : List Word) : Option Nat :=
  let w0 := ws.getD 0 0
  let head : Word := if node then 0xFFFFFFFF0F else 0x10F
  match operandMasks node (fld w0 0 4) with
  | none => some 0
  | some ms =>
    let masks := head :: (ms ++ List.replicate (6 - ms.length) 0) ++ (if node then [0] else [])
    (((List.range masks.length).find? fun i => (ws.getD i 0) &&& ~~~(masks.getD i 0) ≠ 0)).map fun i => 8 * i

/-- The event of an operation. -/
def cmdEvent (node : Bool) (op : Nat) (d : DieId) (q k : Nat) : Event :=
  match op with
  | 1 => .launchCommand d q k
  | 2 => .copyCommand d q k
  | 3 => .signalCommand d q k
  | 4 => .waitCommand d q k
  | 5 => if node then .condNode d q k else .loadImage d q k
  | 6 => .endNode d q k
  | 7 => .graphCommand d q k
  | 8 => .swapCommand d q k
  | _ => .fenceCommand d q k

/-- The event of a command or node in progress. -/
def Running.event (r : Running) (d : DieId) (q k : Nat) : Event := cmdEvent r.node.isSome (fld (r.words.getD 0 0) 0 4) d q k

/-- Word `i` of a command or node. -/
def Running.word (r : Running) (i : Nat) : Word := r.words.getD i 0

namespace State

/-! ### The queues of a die -/

/-- The entry of a queue, if it is in force. -/
def qEntry (s : State) (d : DieId) (q : Nat) : Option QEntry := (lookup q (s.getDie d).queueTable).bind qEntryOf

/-- The run-time state of a queue. -/
def getFe (s : State) (d : DieId) (q : Nat) : FeQueue := (lookup q (s.getDie d).queues).getD FeQueue.reset

/-- Replace it. -/
def setFe (s : State) (d : DieId) (q : Nat) (v : FeQueue) : State := s.updDie d fun x => { x with queues := store q v x.queues }

/-- A command or node in progress. -/
def getRun (s : State) (d : DieId) (q k : Nat) : Option Running := lookup k (s.getFe d q).running

/-- Replace it. -/
def setRun (s : State) (d : DieId) (q k : Nat) (r : Running) : State :=
  let v := s.getFe d q
  s.setFe d q { v with running := store k r v.running }

/-- It is no longer in progress. -/
def dropRun (s : State) (d : DieId) (q k : Nat) : State :=
  let v := s.getFe d q
  s.setFe d q { v with running := erase k v.running }

/-- The partition of a queue. -/
def qPart (s : State) (d : DieId) (q : Nat) : Nat := ((s.qEntry d q).map fun e => e.part).getD 0xFF

/-! ### The front end's accesses -/

/-- What an access comes to: it is refused or does not translate, its home holds it back, or it has an effect. -/
inductive FeGot where
  | bytes (l : List Byte)
  | fault
  | held

/-- Bytes of word space of a partition, read at their homes. -/
def feRead (s : State) (d : DieId) (part : Nat) (va : Word) (n : Nat) : FeGot :=
  let runs := runsOf ((List.range n).map fun i => va.toNat + i)
  let locked := runs.any fun r => match s.chanPiece (feCell d) part .m .load r.1 r.2 with
    | .ok g => s.lockHit g.home part r.1 r.2
    | .error _ => false
  match s.readRuns (feCell d) part .m runs with
  | .error _ => .fault
  | .ok none => .held
  | .ok (some l) => if locked then .fault else .bytes l

/-- The eight-byte words of bytes. -/
def wordsOf : Nat → List Byte → List Word
  | 0, _ => []
  | n + 1, l => BitVec.ofNat 64 (bytesToNat (l.take 8)) :: wordsOf n (l.drop 8)

/-- What a store of the front end comes to. -/
inductive FeSent where
  | done (s : State)
  | fault
  | held

/-- A word of a partition is stored at its home, as a posted store that is acknowledged: it waits while a range of it is locked
(R114, R123); a word in host memory is discarded while the link is down (R297). -/
def feStore (s : State) (d : DieId) (part : Nat) (va v : Word) : FeSent :=
  match s.chanPiece (feCell d) part .m .store va.toNat 8 with
  | .error _ => .fault
  | .ok g =>
    if va.toNat % 8 ≠ 0 then .fault
    else if s.readHeld g || s.lockHit g.home part va.toNat 8 then .held
    else if s.hostGone g.qa then .done (s.logDie d true 52 0 0 0 0)
    else
      let s1 := (s.ownedWords g).foldl (fun t p => t.recallWord p.2 p.1) s
      let s2 := { s1 with words := s1.words.filter fun p => !decide (p.1 = g.qa) }
      .done (s2.storeBytes ((feCell d).hart 0) part va g (natToBytes 8 v.toNat))

/-- The front end's posted stores to a word of a partition are acknowledged: on a WORD_REPLICATED page, once every replica has applied
them (R114, R219). -/
def feAcked (s : State) (d : DieId) (part : Nat) (va : Word) : Bool :=
  !(s.ops.any fun o => match o.2 with
    | .post a none _ _ _ _ _ => decide (a.hart = (feCell d).hart 0) && a.part == part && a.va == va
    | _ => false)

/-- A word of a partition read at its home, and not at a replica (R252). -/
def feReadHome (s : State) (d : DieId) (part : Nat) (va : Word) : FeGot :=
  match s.feRead d part va 8, s.chanPiece (feCell d) part .m .load va.toNat 8 with
  | .bytes _, .ok g => .bytes (s.pieceBytes g.home g)
  | r, _ => r

/-! ### Completion (R249, R252) -/

/-- The head after a command has completed: it passes every completed command (R248). -/
def advanceHead : Nat → Nat → List Nat → Nat × List Nat
  | 0, h, l => (h, l)
  | n + 1, h, l => if l.contains h then advanceHead n (h + 1) (l.filter fun i => i != h) else (h, l)

/-- The head of a queue passes every completed command. -/
def passHead (s : State) (d : DieId) (q : Nat) (head : Nat × List Nat) : State :=
  s.setFe d q { s.getFe d q with head := head.1, completed := head.2 }

/-- A command that is done takes itself out of its queue. -/
def closeCommand (s : State) (d : DieId) (q k : Nat) (r : Running) : State :=
  let v := s.getFe d q
  let s1 := s.setFe d q { v with running := erase k v.running, graph := if v.graph.any fun g => g.cmd == k then none else v.graph }
  s1.updDie d fun x => { x with feCopy := if x.feCopy = some (q, k) ∧ r.node.isNone then none else x.feCopy }

/-- A completing command comes up again once what it waits for may have happened; `n` says which of its stores have been made. -/
def tellAgain (s : State) (d : DieId) (q k : Nat) (r : Running) (code detail n : Nat) : State :=
  (s.setRun d q k { r with finish := some (code, detail), told := n }).push (r.event d q k)

/-- HEADA is written once STATUS is acknowledged, and the command is done once HEADA is (R249). A store that does not translate has no
place to go. -/
def tellHead (s : State) (d : DieId) (q k : Nat) (r : Running) (code detail : Nat) : State :=
  let v := s.getFe d q
  let head := advanceHead (v.completed.length + 1) v.head (r.idx :: v.completed)
  let part := s.qPart d q
  match s.qEntry d q with
  | none => (s.passHead d q head).closeCommand d q k r
  | some e =>
    match s.feStore d part e.heada (BitVec.ofNat 64 head.1) with
    | .held => s.tellAgain d q k r code detail 1
    | .fault => (s.passHead d q head).closeCommand d q k r
    | .done s1 =>
      let s2 := s1.passHead d q head
      if s2.feAcked d part e.heada then s2.closeCommand d q k r else s2.tellAgain d q k r code detail 2

/-- A command completes: STATUS is written, and then HEADA, with a release at SYS scope between them and after them. A store that its home
holds back is tried again. -/
def finishCommand (s : State) (d : DieId) (q k : Nat) (r : Running) (code detail : Nat) : State :=
  let part := s.qPart d q
  let va := r.va + 56
  match r.told with
  | 0 =>
    match s.feStore d part va (BitVec.ofNat 64 (detail % 256 * 256 + code)) with
    | .held => s.tellAgain d q k r code detail 0
    | .fault => s.tellHead d q k r code detail
    | .done s1 => if s1.feAcked d part va then s1.tellHead d q k r code detail else s1.tellAgain d q k r code detail 1
  | 1 => if s.feAcked d part va then s.tellHead d q k r code detail else s.tellAgain d q k r code detail 1
  | _ =>
    if ((s.qEntry d q).map fun e => s.feAcked d part e.heada).getD true then s.closeCommand d q k r
    else s.tellAgain d q k r code detail 2

/-- The GRAPH command of a queue completes. -/
def finishGraph (s : State) (d : DieId) (q code detail : Nat) : State :=
  match (s.getFe d q).graph with
  | none => s
  | some g =>
    match s.getRun d q g.cmd with
    | none => s
    | some r => s.finishCommand d q g.cmd r code detail

/-- A node has completed with success and names its successor: counts are kept, and re-armed by a successor that lies behind. -/
def nodePasses (s : State) (d : DieId) (q : Nat) (g : GraphRun) (i succ : Nat) (faulted : Bool) : State :=
  let done := i :: g.done
  if g.n ≤ succ then s.finishGraph d q 5 (Config.unstated 44 g.n succ % 256)
  else
    s.setFe d q { s.getFe d q with graph := some { g with
      next := succ, faulted := g.faulted || faulted, done := if succ ≤ i then done.filter fun j => decide (j < succ) else done } }

/-- A command or node completes with a status; a node passes on, or ends the graph with it. `second` selects SUCCB. -/
def complete (s : State) (d : DieId) (q k : Nat) (r : Running) (code detail : Nat) (second : Bool) : State :=
  match r.node, (s.getFe d q).graph with
  | none, _ => s.finishCommand d q k r code detail
  | some _, none => s.dropRun d q k
  | some i, some g =>
    let s1 := (s.dropRun d q k).updDie d fun x => { x with feCopy := if x.feCopy = some (q, k) then none else x.feCopy }
    if code = 1 ∨ code = 9 then
      s1.nodePasses d q g i (if second then fld (r.word 0) 24 16 else fld (r.word 0) 8 16) (code == 9)
    else s1.finishGraph d q code detail

/-- The status of a failing operand: BAD_COMMAND, or GRAPH_BAD for a misaligned address of a node (R249, R252). -/
def operandBad (s : State) (d : DieId) (q k : Nat) (r : Running) (off : Nat) : State :=
  s.complete d q k r (if r.node.isSome then 5 else 4) off false

/-- ADDR_FAULT. -/
def addrFault (s : State) (d : DieId) (q k : Nat) (r : Running) (off : Nat) : State := s.complete d q k r 7 off false

/-- Go on with a command or node in progress: one that is already completing completes. -/
def withRun (s : State) (d : DieId) (q k : Nat) (go : Running → State) : State :=
  match s.getRun d q k with
  | none => s
  | some r =>
    match r.finish with
    | some (code, detail) => s.complete d q k r code detail false
    | none => go r

/-- The same, for a command of one operation. -/
def withOp (s : State) (d : DieId) (q k op : Nat) (go : Running → State) : State :=
  s.withRun d q k fun r => if fld (r.word 0) 0 4 = op then go r else s

/-! ### Readiness and dispatch (R249, R252, R253) -/

/-- A command that is still seeking cells, or waits for its condition, keeps its queue not ready. -/
def Running.holdsQueue (r : Running) : Bool :=
  r.waiting || match r.launch with
    | some l => (match l.stage with
      | .choosing => true
      | .reserving .. => true
      | .backoff => true
      | _ => false)
    | none => decide (fld (r.words.getD 0 0) 0 4 = 1)

/-- A command stands at the dispatch point of a queue and may start. -/
def commandReady (v : FeQueue) : Bool :=
  v.graph.isNone && !v.outOfRange && decide (v.disp < v.tail) &&
    !(v.running.any fun p => Running.holdsQueue p.2 || decide (fld (p.2.words.getD 0 0) 0 4 = 7)) && (v.running.isEmpty || v.lastNowait
      || !(v.running.any fun p => p.2.idx + 1 == v.disp))

/-- A node of the queue's graph may start: none is in progress, and the graph is not completing already (R252). -/
def nodeReady (v : FeQueue) : Bool :=
  (v.graph.any fun g => (lookup g.cmd v.running).all fun r => r.finish.isNone) && !v.outOfRange && v.running.all fun p => p.2.node.isNone

/-- VA of the command at the dispatch point. -/
def commandVa (e : QEntry) (i : Nat) : Word := e.base + BitVec.ofNat 64 (64 * (i % 2 ^ e.log2n))

/-- A queue is ready (R253). One whose next command cannot be read, as BASE does not translate or its home holds the read back, is not ready and
has no tickets in the draw (DESIGN CHOICE, log 35: the manual does not say what becomes of it). -/
def qReady (s : State) (d : DieId) (q : Nat) : Bool :=
  match s.qEntry d q with
  | none => false
  | some e =>
    let v := s.getFe d q
    nodeReady v || (commandReady v && match s.feRead d e.part (commandVa e v.disp) 64 with
      | .bytes _ => true
      | _ => false)

/-- A new command or node is in progress. -/
def enterRun (s : State) (d : DieId) (q idx : Nat) (va : Word) (ws : List Word) (node : Option Nat) (ferry : Bool) : State :=
  ({ s with nextId := s.nextId + 1 }).setRun d q s.nextId ⟨idx, va, ws, node, none, 0, [], false, ferry, none, 0⟩

/-- The next command of a queue is dispatched with its words. -/
def dispatchCommand (s : State) (d : DieId) (q : Nat) (e : QEntry) (ws : List Word) (ferry : Bool) : State :=
  let v := s.getFe d q
  let k := s.nextId
  let w0 := ws.getD 0 0
  let s1 := (s.setFe d q { v with disp := v.disp + 1, lastNowait := wbit w0 8 && !ferry }).enterRun d q v.disp (commandVa e v.disp) ws none
    ferry
  match reservedAt false ws, s1.getRun d q k with
  | some off, some r => s1.complete d q k r 4 off false
  | _, _ => s1.push (cmdEvent false (fld w0 0 4) d q k)

/-- The next node of a queue's graph is dispatched. -/
def dispatchNode (s : State) (d : DieId) (q : Nat) (e : QEntry) (g : GraphRun) : State :=
  let va := g.nbase + BitVec.ofNat 64 (64 * g.next)
  if g.done.contains g.next then s.finishGraph d q 5 (Config.unstated 44 g.n g.next % 256)
  else match s.feRead d e.part va 64 with
    | .held => s
    | .fault => s.finishGraph d q 7 8
    | .bytes l =>
      let ws := wordsOf 8 l
      match reservedAt true ws with
      | some off => s.finishGraph d q 5 off
      | none => (s.enterRun d q 0 va ws (some g.next) false).push (cmdEvent true (fld (ws.getD 0 0) 0 4) d q s.nextId)

/-- The command or node that a draw has chosen is dispatched; a queue whose command cannot be read keeps it. -/
def dispatch (s : State) (d : DieId) (q : Nat) : State :=
  match s.qEntry d q with
  | none => s
  | some e =>
    match (s.getFe d q).graph with
    | some g => s.dispatchNode d q e g
    | none =>
      match s.feRead d e.part (commandVa e (s.getFe d q).disp) 64 with
      | .bytes l => s.dispatchCommand d q e (wordsOf 8 l) false
      | _ => s

/-! ### The lottery (R253) -/

/-- The generator's next value. -/
def lotteryNext (x : Word) : Word :=
  let a := x ^^^ (x <<< 13)
  let b := a ^^^ (a >>> 7)
  b ^^^ (b <<< 17)

/-- The first queue whose cumulative ticket sum exceeds `idx`. -/
def lotteryPick : List (Nat × Nat) → Nat → Option Nat
  | [], _ => none
  | (q, t) :: l, idx => if idx < t then some q else lotteryPick l (idx - t)

/-- The ready queues of a die in index order, with their tickets. -/
def readyQueues (s : State) (d : DieId) : List (Nat × Nat) :=
  (List.range 64).filterMap fun q =>
    if (lookup q (s.getDie d).queueTable).isNone then none
    else match s.qEntry d q with
      | some e => if s.qReady d q then some (q, e.tickets) else none
      | none => none

/-- A command that the ferry dispatched is still in progress: the front end serves its queues again once it has ended (R267). -/
def ferrying (s : State) (d : DieId) : Bool := (s.getDie d).queues.any fun p => p.2.running.any fun r => r.2.ferry

/-- The queue that a draw with the new generator value chooses. -/
def drawn (x : Word) (ready : List (Nat × Nat)) : Option Nat :=
  lotteryPick ready (fld x 32 32 * (ready.foldl (fun n p => n + p.2) 0) / 2 ^ 32)

/-! ### The tail word (R248) -/

/-- The producer's tail word: in host memory, or on a WORD_TRACKED page. -/
def readTail (s : State) (d : DieId) (e : QEntry) : Option Word :=
  match s.chanPiece (feCell d) e.part .m .load e.taila.toNat 8 with
  | .error _ => none
  | .ok g =>
    if !(g.kind == kTracked || inHost g.qa) then none
    else match s.feRead d e.part e.taila 8 with
      | .bytes l => some (BitVec.ofNat 64 (bytesToNat l))
      | _ => none

/-- The tail word of a queue in device memory is registered at the front end (R214, R248). -/
def tailHeld (s : State) (d : DieId) (e : QEntry) : Bool :=
  match s.chanPiece (feCell d) e.part .m .load e.taila.toNat 8 with
  | .ok g => g.kind != kTracked || lookup g.qa s.words = some (.registered (feCell d))
  | .error _ => true

/-- The front end takes the registration of a tail word in device memory back, from the producer where it has it. -/
def holdTail (s : State) (d : DieId) (e : QEntry) : State :=
  match s.chanPiece (feCell d) e.part .m .load e.taila.toNat 8 with
  | .ok g =>
    if s.tailHeld d e then s
    else
      let s1 := (s.ownedWords g).foldl (fun t p => t.recallWord p.2 p.1) s
      (s1.setWordState g.qa (.registered (feCell d))).l1Set (feCell d) g.qa ⟨true, s1.mem.word g.qa⟩
  | .error _ => s

/-- The front end reads a queue's tail, and takes the tail word back: a tail out of range is recorded, and HEADA is written unchanged. While
the home of HEADA holds that write back, the tail is read again later. -/
def takeTail (s : State) (d : DieId) (q : Nat) (e : QEntry) (t : Word) : State :=
  let v := s.getFe d q
  let ahead := (t - BitVec.ofNat 64 v.head).toNat
  if ahead ≤ 2 ^ e.log2n then (s.setFe d q { v with tail := v.head + ahead, outOfRange := false }).holdTail d e
  else if v.outOfRange then s.holdTail d e
  else
    let s1 := (s.setFe d q { v with outOfRange := true }).logDie d false 50 q 0 0 0
    match s1.feStore d e.part e.heada (BitVec.ofNat 64 v.head) with
    | .done s2 => s2.holdTail d e
    | .fault => s1.holdTail d e
    | .held => s

end State

/-! ### The events -/

/-- LOTTERY_DRAW (R253): while a queue is ready, the generator moves on and the chosen queue is served. -/
def execLotteryDraw (d : DieId) (s : State) : Out :=
  let ready := s.readyQueues d
  .next (if !s.dieRuns d || (s.getDie d).ferry || s.ferrying d || ready.isEmpty then s
    else
      let x := State.lotteryNext (s.getDie d).lottery
      let s1 := s.updDie d fun v => { v with lottery := x }
      match State.drawn x ready with
      | some q => s1.dispatch d q
      | none => s1)

/-- QUEUE_TAIL_SNOOP (R248), by the front end, or by the ferry while its core restarts (R267, R318). -/
def execQueueTailSnoop (d : DieId) (q : Nat) (s : State) : Out :=
  .next (if !s.dieRuns d && !(s.getDie d).ferry then s
    else match s.qEntry d q with
      | none => s
      | some e =>
        match s.readTail d e with
        | some t => s.takeTail d q e t
        | none => s)

end Sys2Proof.Machine
end

