-- ==== Sys2Proof/Machine/Commands.lean ====
section
/-!
DEFINITION. The commands COPY, SIGNAL, WAIT, GRAPH, SWAP and FENCE, the nodes COND and END, and interrupt coalescing (R250, R252,
R262, R282).
-/
namespace Sys2Proof.Machine

namespace State

/-! ### Interrupt coalescing (R262) -/

/-- A coalescing ring of a die; THR is 1 at reset (R246). -/
def feRing (s : State) (d : DieId) (r : Nat) : Ring := (lookup r (s.getDie d).rings).getD ⟨1, 0, 0, 0, 0⟩

/-- Replace it. -/
def setFeRing (s : State) (d : DieId) (r : Nat) (v : Ring) : State := s.updDie d fun x => { x with rings := store r v x.rings }

/-- MSI-X is raised for a ring, and its count returns to 0. -/
def raiseRing (s : State) (d : DieId) (r : Nat) (v : Ring) : State :=
  (s.setFeRing d r { v with count := 0, timer := 0 }).emit (.msix d v.vector)

/-- The coalescing step of a SIGNAL for a value `v` (R262). -/
def coalesce (s : State) (d : DieId) (r v : Nat) : State :=
  if v = 0 then s
  else
    let g := s.feRing d r
    let g1 : Ring := { g with timer := if g.count = 0 then 0 else g.timer, count := min (g.count + v) (2 ^ 32 - 1) }
    if g1.thr ≤ g1.count then s.raiseRing d r g1
    else
      let s1 := s.setFeRing d r g1
      if g1.dl = 0 then s1 else s1.pushOnce (.coalesceDeadline d r)

/-- The deadline of a ring passes: its timer has reached DL. -/
def deadline (s : State) (d : DieId) (r : Nat) : State :=
  let g := s.feRing d r
  if g.count = 0 ∨ g.dl = 0 then s else s.raiseRing d r { g with timer := max g.timer g.dl }

/-- A write of DL: the timer, which has gone on counting, keeps its start (R262). -/
def writeDl (s : State) (d : DieId) (r dl : Nat) : State :=
  let g := s.feRing d r
  let t := if g.count = 0 then g.timer else min (g.timer + Config.cycles s.tick) (2 ^ 32 - 1)
  let g1 : Ring := { g with dl := dl % 2 ^ 32, timer := t }
  if g1.count ≠ 0 ∧ g1.dl ≠ 0 ∧ g1.dl ≤ t then s.raiseRing d r g1
  else
    let s1 := s.setFeRing d r g1
    if g1.count = 0 ∨ g1.dl = 0 then s1 else s1.pushOnce (.coalesceDeadline d r)

/-! ### COPY (R250) -/

/-- A COPY goes on: it takes the front end's channel, starts its chain, and reports how it ended. -/
def copyStep (s : State) (d : DieId) (q k : Nat) (r : Running) : State :=
  let head := r.word 1
  let c := feCell d
  let again := fun t : State => t.push (.copyCommand d q k)
  if r.step = 0 then
    if head.toNat % 64 ≠ 0 then s.complete d q k r 4 8 false
    else if head = 0 then s.complete d q k r 1 0 false
    else if (s.getDie d).feCopy.isSome then again s
    else
      let s1 := (s.updDie d fun x => { x with feCopy := some (q, k) }).setRun d q k { r with step := 1 }
      again ((s1.updCtx c fun x => { x with part := s.qPart d q }).startChain c (s.qPart d q) 0 head.toNat none .m 0)
  else
    let v := s.getChan c 0
    if v.busy then again s
    else if v.sub = 0 then s.complete d q k r 1 0 false
    else s.complete d q k r 6 v.sub false

/-! ### SIGNAL (R250, R262) -/

/-- An address operand of a SIGNAL or word WAIT is misaligned: its offset. -/
def signalBad (r : Running) : Option Nat :=
  if (r.word 1).toNat % 8 ≠ 0 then some 8 else if (r.word 3).toNat % 8 ≠ 0 then some 24 else none

/-- The interrupt of a SIGNAL, once VALUE is acknowledged, counted by the word at CADDR as its home holds it; under the ferry it is raised at once (R267). -/
def signalIrq (s : State) (d : DieId) (q k : Nat) (r : Running) : State :=
  let ring := fld (r.word 4) 8 6
  if !wbit (r.word 4) 0 then s.complete d q k r 1 0 false
  else if r.ferry then (s.emit (.msix d (s.feRing d ring).vector)).complete d q k r 1 0 false
  else if r.word 3 = 0 then (s.coalesce d ring 1).complete d q k r 1 0 false
  else match s.feReadHome d (s.qPart d q) (r.word 3) with
    | .held => s.push (.signalCommand d q k)
    | .fault => s.addrFault d q k r 24
    | .bytes l => (s.coalesce d ring (bytesToNat l)).complete d q k r 1 0 false

/-- A SIGNAL goes on: VALUE is stored at DST and acknowledged, then comes the interrupt. -/
def signalStep (s : State) (d : DieId) (q k : Nat) (r : Running) : State :=
  match signalBad r with
  | some off => s.operandBad d q k r off
  | none =>
    if r.word 1 = 0 then s.signalIrq d q k r
    else if r.step = 1 then
      if s.feAcked d (s.qPart d q) (r.word 1) then s.signalIrq d q k r else s.push (.signalCommand d q k)
    else match s.feStore d (s.qPart d q) (r.word 1) (r.word 2) with
      | .held => s.push (.signalCommand d q k)
      | .fault => s.addrFault d q k r 8
      | .done s1 => (s1.setRun d q k { r with step := 1 }).push (.signalCommand d q k)

/-! ### WAIT (R250) -/

/-- What the condition of a WAIT comes to. -/
inductive Cond where
  | holds
  | not
  | fault

/-- The presence condition: the block at ADDR is FULL or POISON at the generation of VALUE. -/
def presenceCond (s : State) (d : DieId) (part : Nat) (r : Running) : Cond :=
  match s.chanBlock (feCell d) part .m .load d.pkg (r.word 1).toNat with
  | .error _ => .fault
  | .ok qa =>
    let b := s.getBlock qa
    if b.filled ∧ b.gen = fld (r.word 2) 0 12 then .holds else .not

/-- The condition of a WAIT as it is now; a home that holds the word back answers later. -/
def waitCond (s : State) (d : DieId) (part : Nat) (r : Running) : Cond :=
  if fld (r.word 4) 0 2 = 2 then s.presenceCond d part r
  else match s.feRead d part (r.word 1) 8 with
    | .held => .not
    | .fault => .fault
    | .bytes l =>
      if decide ((BitVec.ofNat 64 (bytesToNat l) &&& r.word 3) = r.word 2) = decide (fld (r.word 4) 0 2 = 0) then .holds else .not

/-- The operand of a WAIT that fails its check: ADDR, or MODE 3. -/
def waitBad (r : Running) : Option (Nat × Nat) :=
  let mode := fld (r.word 4) 0 2
  let a := (r.word 1).toNat
  if (if mode = 2 then a % 4096 else if mode = 3 then 0 else a % 8) ≠ 0 then some (if r.node.isSome then 5 else 4, 8)
  else if mode = 3 then some (4, 32) else none

/-- A WAIT tests its condition, and waits on. -/
def waitStep (s : State) (d : DieId) (q k : Nat) (r : Running) : State :=
  match waitBad r with
  | some (code, off) => s.complete d q k r code off false
  | none =>
    match s.waitCond d (s.qPart d q) r with
    | .fault => s.addrFault d q k r 8
    | .holds => s.complete d q k r 1 0 false
    | .not => (s.setRun d q k { r with waiting := true }).push
        (if fld (r.word 4) 0 2 = 2 then .feWaitPoll d q k else .feWaitWake d q k)

/-! ### GRAPH, COND, END, SWAP, FENCE -/

/-- A GRAPH starts at its node START (R252). One that is not below N is reported with DETAIL 16, the offset of the word that holds it (R249;
DESIGN CHOICE, log 36). -/
def graphStart (s : State) (d : DieId) (q k : Nat) (r : Running) : State :=
  let n := fld (r.word 2) 0 16
  let start := fld (r.word 2) 16 16
  if (r.word 1).toNat % 64 ≠ 0 then s.complete d q k r 4 8 false
  else if n = 0 ∨ n ≤ start then s.complete d q k r 4 16 false
  else
    let v := s.getFe d q
    if v.graph.isSome then s else s.setFe d q { v with graph := some ⟨k, r.word 1, n, start, [], false⟩ }

/-- A COND node reads its word at its home and chooses (R252). -/
def condStep (s : State) (d : DieId) (q k : Nat) (r : Running) : State :=
  if (r.word 1).toNat % 8 ≠ 0 then s.complete d q k r 5 8 false
  else match s.feReadHome d (s.qPart d q) (r.word 1) with
    | .held => s.push (.condNode d q k)
    | .fault => s.addrFault d q k r 8
    | .bytes l => s.complete d q k r 1 0 (bytesToNat l == 0)

/-- An END node completes its graph (R252). -/
def endStep (s : State) (d : DieId) (q k : Nat) : State :=
  let s1 := s.dropRun d q k
  s1.finishGraph d q (if (s.getFe d q).graph.any fun g => g.faulted then 9 else 1) 0

/-- The cells of a package whose berth holds a partition (R282). -/
def berthing (s : State) (pkg part : Nat) : List CellId :=
  (s.cells.filter fun p => decide (p.1.pkg = pkg) && p.2.berth.any fun b => b.1.part == part).map fun p => p.1

/-- A SWAP asks every such cell for a swap, and is done when every one has made it (R282). -/
def swapCmdStep (s : State) (d : DieId) (q k : Nat) (r : Running) : State :=
  let again := fun (t : State) (l : List CellId) => (t.setRun d q k { r with step := 1, swaps := l }).push (.swapCommand d q k)
  if r.step = 0 then
    let cs := s.berthing d.pkg (fld (r.word 1) 0 8)
    if cs.isEmpty then s.complete d q k r 8 0 false else again (cs.foldl (fun t c => t.askSwap c none) s) cs
  else
    let left := r.swaps.filter fun c => (s.getCell c).swap != 0
    if left.isEmpty then s.complete d q k r 1 0 false else again s left

/-- A FENCE is done when no earlier command of its queue is in progress (R250). -/
def fenceStep (s : State) (d : DieId) (q k : Nat) (r : Running) : State :=
  if (s.getFe d q).running.any fun p => p.1 != k && decide (p.2.idx < r.idx) then s.push (.fenceCommand d q k)
  else s.complete d q k r 1 0 false

end State

/-! ### The events -/

/-- COPY (R250). -/
def execCopyCommand (d : DieId) (q k : Nat) (s : State) : Out := .next (s.withOp d q k 2 fun r => s.copyStep d q k r)

/-- SIGNAL (R250). -/
def execSignalCommand (d : DieId) (q k : Nat) (s : State) : Out := .next (s.withOp d q k 3 fun r => s.signalStep d q k r)

/-- WAIT (R250). -/
def execWaitCommand (d : DieId) (q k : Nat) (s : State) : Out := .next (s.withOp d q k 4 fun r => s.waitStep d q k r)

/-- FE_WAIT_POLL (R250): a presence WAIT reads the presence word again. -/
def execFeWaitPoll (d : DieId) (q k : Nat) (s : State) : Out :=
  .next (s.withOp d q k 4 fun r => if fld (r.word 4) 0 2 = 2 then s.waitStep d q k r else s)

/-- FE_WAIT_WAKE (R250): a word WAIT is woken, and reads its word again. -/
def execFeWaitWake (d : DieId) (q k : Nat) (s : State) : Out :=
  .next (s.withOp d q k 4 fun r => if fld (r.word 4) 0 2 = 2 then s else s.waitStep d q k r)

/-- GRAPH (R252). -/
def execGraphCommand (d : DieId) (q k : Nat) (s : State) : Out := .next (s.withOp d q k 7 fun r => s.graphStart d q k r)

/-- SWAP (R282). -/
def execSwapCommand (d : DieId) (q k : Nat) (s : State) : Out := .next (s.withOp d q k 8 fun r => s.swapCmdStep d q k r)

/-- FENCE (R250). -/
def execFenceCommand (d : DieId) (q k : Nat) (s : State) : Out := .next (s.withOp d q k 9 fun r => s.fenceStep d q k r)

/-- COND (R252). -/
def execCondNode (d : DieId) (q k : Nat) (s : State) : Out :=
  .next (s.withOp d q k 5 fun r => if r.node.isSome then s.condStep d q k r else s)

/-- END (R252). -/
def execEndNode (d : DieId) (q k : Nat) (s : State) : Out := .next (s.withOp d q k 6 fun _ => s.endStep d q k)

/-- COALESCE_DEADLINE (R262). -/
def execCoalesceDeadline (d : DieId) (ring : Nat) (s : State) : Out := .next (s.deadline d ring)

/-- COALESCE_DL_WRITE (R262): the die's firmware core writes DL of a ring of the map; until the die's STATE is RUN the write is ignored
(R307). -/
def execCoalesceDlWrite (d : DieId) (ring value : Nat) (s : State) : Out :=
  .next (if ring < 64 && s.dieRuns d then s.writeDl d ring value else s)

end Sys2Proof.Machine
end

