-- ==== Sys2Proof/Machine/Load.lean ====
section
/-!
DEFINITION. Placing a Trelson image (R251): its header and tables, the mapping of its pages, its contents and its blocks.
-/
namespace Sys2Proof.Machine

/-- A section of an image: base, bytes, offset of the contents, page kind, EX and WR. -/
structure Section where
  va : Nat
  size : Nat
  foff : Nat
  kind : Nat
  ex : Bool
  wr : Bool
  deriving DecidableEq, Repr

/-- A block entry of an image: first block, blocks, generation. -/
structure BlockEntry where
  va : Nat
  count : Nat
  gen : Nat
  deriving DecidableEq, Repr

namespace Image

/-- The little-endian number in bytes [lo, lo + n). -/
def num (l : List Byte) (lo n : Nat) : Nat := bytesToNat ((l.drop lo).take n)

/-- The header field that fails its check, by its byte offset (R251 step 1). -/
def headerBad (h : List Byte) : Option Nat :=
  if num h 0 4 ≠ 0x534C5254 then some 0
  else if num h 4 2 ≠ 1 then some 4
  else if num h 6 2 = 0 ∨ 6 < num h 6 2 then some 6
  else if num h 48 16 ≠ 0 then some 48
  else none

/-- The entries of a table of `n` entries of `w` bytes. -/
def entries (w : Nat) : Nat → List Byte → List (List Byte)
  | 0, _ => []
  | n + 1, l => l.take w :: entries w n (l.drop w)

/-- A section entry; none when a check of it fails. -/
def sectionOf (e : List Byte) : Option Section :=
  let attr := num e 24 1
  if num e 0 8 % 4096 ≠ 0 ∨ attr / 16 ≠ 0 ∨ num e 25 7 ≠ 0 then none
  else some ⟨num e 0 8, num e 8 8, num e 16 8, attr % 4, bitsOf attr 2 1 == 1, bitsOf attr 3 1 == 1⟩

/-- A block entry; none when a check of it fails. -/
def blockOf (e : List Byte) : Option BlockEntry :=
  let c := num e 8 4
  if c = 0 ∨ 65535 < c ∨ num e 14 2 ≠ 0 ∨ bitsOf (num e 12 2) 12 4 ≠ 0 ∨ num e 0 8 % 4096 ≠ 0 then none
  else some ⟨num e 0 8, c, bitsOf (num e 12 2) 0 12⟩

/-- The virtual pages a section touches. -/
def pagesOf (x : Section) : List Nat := (List.range ((x.size + 4095) / 4096)).map fun i => x.va / 4096 + i

/-- The section that maps a page: the first that touches it. -/
def pageSection (l : List Section) (vpn : Nat) : Option Section := l.find? fun x => (pagesOf x).contains vpn

/-- Byte `i` of a page of an image: the content of the section that covers it, or zero. -/
def pageByte (l : List (Section × List Byte)) (vpn i : Nat) : Byte :=
  let va := vpn * 4096 + i
  match l.find? fun p => decide (p.1.va ≤ va) && decide (va < p.1.va + p.1.size) with
  | some p => p.2.getD (va - p.1.va) 0
  | none => 0

/-- A block entry lies on block pages of the image. -/
def blocksPlaced (l : List Section) (b : BlockEntry) : Bool :=
  (List.range b.count).all fun i => (pageSection l (b.va / 4096 + i)).any fun x => x.kind == kBlock

end Image

namespace State

/-! ### Mapping a page (R251 step 3, R268 to R270) -/

/-- Write the leaf of a page into the tables below a table, which are made where they are missing. -/
def mapFrom (d : DieId) (part vpn leaf : Nat) : Nat → Nat → State → State
  | 0, t, s => s.physWrite (d.pkg * pkgSpan + t + 8 * bitsOf vpn 0 9) (natToBytes 8 leaf)
  | lvl + 1, t, s =>
    let a := d.pkg * pkgSpan + t + 8 * bitsOf vpn (9 * (lvl + 1)) 9
    let e := (s.pte a).getD 0
    if fld e 0 1 = 1 then mapFrom d part vpn leaf lvl (fld e 12 40 * 4096) s
    else
      let t' := Config.loadPage part vpn s.nextId % 2 ^ 28 * 4096
      let s1 := (({ s with nextId := s.nextId + 1 }).physWrite (d.pkg * pkgSpan + t') (List.replicate 4096 0)).physWrite a
        (natToBytes 8 (t' + 1))
      mapFrom d part vpn leaf lvl t' s1

/-- A page table entry that maps a page of a section to a physical page: a 4 KiB leaf with RD and US. -/
def leafOf (x : Section) (pa : Nat) : Nat :=
  1 + 2 + 8 + (if x.wr then 16 else 0) + (if x.ex then 32 else 0) + 64 + x.kind * 128 + pa

/-- A page of an image takes a physical page of the stack of the front end's die, which keeps it on its package (R242; log 35), is mapped, and gets
its contents; a block page starts EMPTY. -/
def placePage (s : State) (d : DieId) (part : Nat) (l : List (Section × List Byte)) (vpn : Nat) : State :=
  match Image.pageSection (l.map fun p => p.1) vpn with
  | none => s
  | some x =>
    let pa := Config.loadPage part vpn s.nextId % 2 ^ 28 * 4096
    let qa := d.pkg * pkgSpan + pa
    let root := (lookup part (s.getDie d).ptroot).getD 0
    let s1 := mapFrom d part vpn (leafOf x pa) 4 (fld root 12 40 * 4096) { s with nextId := s.nextId + 1 }
    let s2 := { s1.physWrite qa ((List.range 4096).map fun i => Image.pageByte l vpn i) with homes := erase (qa / 4096) s1.homes }
    if x.kind = kBlock then s2.setBlock qa Block.reset else s2

/-- The blocks of a block entry are EMPTY at its generation. -/
def placeBlocks (s : State) (d : DieId) (part : Nat) (b : BlockEntry) : State :=
  (List.range b.count).foldl (fun t i =>
    match t.walk d part d.pkg (b.va + 4096 * i) with
    | some e => t.setBlock (e.phys (b.va + 4096 * i)) { Block.reset with gen := b.gen }
    | none => t) s

/-! ### The checks (R251) -/

/-- A range of an image, by its offset: it cannot lie within the image when it passes the end of the address space (R251). -/
def imageRead (s : State) (d : DieId) (qp : Nat) (img : Word) (off n : Nat) : FeGot :=
  if 2 ^ 64 < img.toNat + off + n then .fault else s.feRead d qp (img + BitVec.ofNat 64 off) n

/-- The contents of sections; none for one that cannot be read. A BLOCK section has none. -/
def sectionBytes (s : State) (d : DieId) (qp : Nat) (img : Word) : List Section → FeGot ⊕ List (Section × List Byte)
  | [] => .inr []
  | x :: l =>
    match if x.kind = kBlock then FeGot.bytes [] else s.imageRead d qp img x.foff x.size with
    | .bytes bs => match sectionBytes s d qp img l with
      | .inr r => .inr ((x, bs) :: r)
      | e => e
    | e => .inl e

/-- A page can be mapped for a partition: it lies below 2^57 outside the window, and no leaf maps it. -/
def pageFree (s : State) (d : DieId) (part vpn : Nat) : Bool :=
  decide (vpn * 4096 < 2 ^ 57) && !inWindow (BitVec.ofNat 64 (vpn * 4096)) && (s.walk d part d.pkg (vpn * 4096)).isNone

/-- Place the checked sections and blocks, and write LPBVA to RES, which may lie on a page of the image; the command is done once that store is
acknowledged. Nothing is placed when RES cannot be written. -/
def placeImage (s : State) (d : DieId) (q k : Nat) (r : Running) (part : Nat) (l : List (Section × List Byte)) (bs : List BlockEntry)
    (lpbva : Nat) : State :=
  let pages := (l.flatMap fun p => Image.pagesOf p.1).eraseDups
  let root := (lookup part (s.getDie d).ptroot).getD 0
  if pages.any fun p => !s.pageFree d part p then s.complete d q k r 10 0xFF false
  else if !Config.shareSupplies part pages.length || fld root 0 1 = 0 then s.complete d q k r 10 0xFE false
  else
    let s1 := bs.foldl (fun t b => t.placeBlocks d part b) (pages.foldl (fun t p => t.placePage d part l p) s)
    match s1.feStore d (s1.qPart d q) (r.word 3) (BitVec.ofNat 64 lpbva) with
    | .fault => s.addrFault d q k r 24
    | .held => s.push (.loadImage d q k)
    | .done s2 =>
      if s2.feAcked d (s2.qPart d q) (r.word 3) then s2.complete d q k r 1 0 false
      else (s2.setRun d q k { r with step := 1 }).push (.loadImage d q k)

/-- LOAD with its header read: its tables, its sections, its contents. -/
def loadTables (s : State) (d : DieId) (q k : Nat) (r : Running) (h : List Byte) : State :=
  let img := r.word 1
  let qp := s.qPart d q
  let bad := fun off : Nat => s.complete d q k r 10 off false
  let again := s.push (.loadImage d q k)
  let table := fun (off n : Nat) => s.imageRead d qp img (Image.num h off 8) n
  match table 16 (32 * Image.num h 6 2), table 24 (16 * Image.num h 8 4), table 32 (16 * Image.num h 12 4) with
  | .bytes ss, .bytes bb, .bytes _ =>
    match (Image.entries 32 (Image.num h 6 2) ss).mapM Image.sectionOf, (Image.entries 16 (Image.num h 8 4) bb).mapM Image.blockOf with
    | some xs, some bs =>
      if bs.any fun b => !Image.blocksPlaced xs b then bad 0xFF
      else match s.sectionBytes d qp img xs with
        | .inr l => s.placeImage d q k r (fld (r.word 2) 0 8) l bs (Image.num h 40 8)
        | .inl .held => again
        | .inl _ => bad 0xFF
    | _, _ => bad 0xFF
  | .held, _, _ => again
  | _, .held, _ => again
  | _, _, .held => again
  | .fault, _, _ => bad 16
  | _, .fault, _ => bad 24
  | _, _, _ => bad 32

/-- LOAD (R251). -/
def loadStep (s : State) (d : DieId) (q k : Nat) (r : Running) : State :=
  if (r.word 3).toNat % 8 ≠ 0 then s.complete d q k r 4 24 false
  else if r.step = 1 then
    if s.feAcked d (s.qPart d q) (r.word 3) then s.complete d q k r 1 0 false else s.push (.loadImage d q k)
  else match s.feRead d (s.qPart d q) (r.word 1) 64 with
    | .held => s.push (.loadImage d q k)
    | .fault => s.addrFault d q k r 8
    | .bytes h =>
      match Image.headerBad h with
      | some off => s.complete d q k r 10 off false
      | none => s.loadTables d q k r h

end State

/-! ### The event -/

/-- LOAD (R251). -/
def execLoadImage (d : DieId) (q k : Nat) (s : State) : Out :=
  .next (s.withOp d q k 5 fun r => if r.node.isNone then s.loadStep d q k r else s)

end Sys2Proof.Machine
end

