-- ==== Sys2Proof/Machine/Launch.lean ====
section
/-!
DEFINITION. Launches: the checks of the launch parameter block, placement, the setup and release of a gang, the reports of its
cells, and retention (R85, R234, R235, R255 to R261).
-/
namespace Sys2Proof.Machine

/-! ### The grid (R8, R258) -/

/-- The cell at a row and column of a package's 48 x 48 grid (R8). -/
def gridCell (pkg y x : Nat) : CellId := ⟨pkg, y / 12 * 4 + x / 12, y % 12 * 12 + x % 12⟩

/-- Row and column of a cell. -/
def gridPos (c : CellId) : Nat × Nat := (12 * (c.die / 4) + c.cell / 12, 12 * (c.die % 4) + c.cell % 12)

/-- The grid points, row-major. -/
def gridPoints : List (Nat × Nat) := (List.range 48).flatMap fun y => (List.range 48).map fun x => (y, x)

/-- The distance along the Hilbert curve of R258, from side `s` down, of the point (x, y). -/
def hilbert : Nat → Nat → Nat → Nat → Nat
  | 0, _, _, d => d
  | n + 1, x, y, d =>
    let s := 2 ^ n
    let rx := if bitsOf x n 1 = 1 then 1 else 0
    let ry := if bitsOf y n 1 = 1 then 1 else 0
    let d' := d + s * s * Nat.xor (3 * rx) ry
    if ry = 0 then
      if rx = 1 then hilbert n (63 - y) (63 - x) d' else hilbert n y x d'
    else hilbert n x y d'

/-- The key of a grid point in a traversal order (R258): 0 row, 1 column, 2 Morton, 3 Hilbert. -/
def orderKey (order swz y x : Nat) : Nat :=
  let b := 2 ^ swz
  match order with
  | 0 => (y / b * 48 + x) * b + y % b
  | 1 => (x / b * 48 + y) * b + x % b
  | 2 => (List.range 6).foldl (fun k i => k + bitsOf x i 1 * 2 ^ (2 * i) + bitsOf y i 1 * 2 ^ (2 * i + 1)) 0
  | _ => hilbert 6 x y 0

/-- Insert a point by its key. -/
def insertKey (k : Nat) (p : Nat × Nat) : List (Nat × (Nat × Nat)) → List (Nat × (Nat × Nat))
  | [] => [(k, p)]
  | (k', p') :: l => if k < k' then (k, p) :: (k', p') :: l else (k', p') :: insertKey k p l

/-- Points in a traversal order. -/
def inOrder (order swz : Nat) (l : List (Nat × Nat)) : List (Nat × Nat) :=
  (l.foldl (fun acc p => insertKey (orderKey order swz p.1 p.2) p acc) []).map fun e => e.2

/-! ### The launch parameter block (R255, R256) -/

namespace Blk

/-- The little-endian number in bytes [lo, lo + n) of the block. -/
def num (l : List Byte) (lo n : Nat) : Nat := Image.num l lo n

/-- A hart exists under the block's masks. -/
def exists' (l : List Byte) (h : Nat) : Bool := decide (h < 24) && bitsOf (num l (24 + h / 8) 1) (h % 8) 1 == 1

/-- PIPE[i]. -/
def pipe (l : List Byte) (i : Nat) : Nat := num l (64 + 2 * i) 2

/-- Byte offsets of the fields that fail the third check of R256. -/
def fieldsBad (l : List Byte) : List Nat :=
  let at' := fun (off : Nat) (bad : Bool) => if bad then [off] else []
  let flags := num l 34 2
  ([0, 1, 2].flatMap fun p => at' (8 * p) (num l (24 + p) 1 != 0 && num l (8 * p) 8 % 4 != 0)) ++
    at' 24 (num l 24 3 == 0) ++ at' 27 (num l 27 1 != 0) ++
    at' 28 (num l 28 1 == 0 || decide (48 < num l 28 1)) ++ at' 29 (num l 29 1 == 0 || decide (48 < num l 29 1)) ++
    at' 32 (num l 32 2 == 0) ++ at' 34 (flags / 256 != 0 || decide (4 < bitsOf flags 5 3)) ++
    ((List.range 16).flatMap fun i => at' (64 + 2 * i) (bitsOf (pipe l i) 10 5 != 0)) ++
    at' 108 (num l 108 8 != 0 && (bitsOf flags 0 1 == 0 || num l 108 8 % 4 != 0)) ++ at' 116 (bytesToNat (l.drop 116) != 0)

/-- Byte offsets of the valid pipes that do not name two different existing harts. -/
def pipesBad (l : List Byte) : List Nat :=
  (List.range 16).flatMap fun i =>
    let p := pipe l i
    let a := bitsOf p 0 5
    let b := bitsOf p 5 5
    if bitsOf p 15 1 = 1 ∧ !(a != b && exists' l a && exists' l b) then [64 + 2 * i] else []

/-- Entry `g` of the group table: OFF, N, and whether its reserved bits are zero. -/
def groupEntry (t : List Byte) (g : Nat) : Nat × Nat × Bool :=
  let e := num t (8 * g) 8
  (bitsOf e 0 32, bitsOf e 32 16, bitsOf e 48 16 == 0)

/-- The bound barriers of a barrier table: number, group, mask. -/
def barriers (t : List Byte) : List (Nat × Nat × Nat) :=
  (List.range 48).filterMap fun b =>
    let e := num t (4 * b) 4
    if bitsOf e 0 24 = 0 then none else some (b, bitsOf e 24 8, bitsOf e 0 24)

/-- The valid pipes: queue register, producer, consumer. -/
def pipes (l : List Byte) : List (Nat × Nat × Nat) :=
  (List.range 16).filterMap fun i =>
    let p := pipe l i
    if bitsOf p 15 1 = 1 then some (i, bitsOf p 0 5, bitsOf p 5 5) else none

/-- The fifth check: members below the gang's size, a rank in at most three entries, barriers of groups that have members and of
existing harts. -/
def tablesBad (l : List Byte) (gs : List (Nat × List Nat)) (bs : List (Nat × Nat × Nat)) : Bool :=
  let size := num l 28 1 * num l 29 1
  (gs.any fun g => g.2.any fun r => decide (size ≤ r)) ||
    ((gs.flatMap fun g => g.2.eraseDups).any fun r => decide (3 < (gs.filter fun g => g.2.contains r).length)) ||
    bs.any fun b => (b.2.1 != 0 && !(gs.any fun g => g.1 == b.2.1)) ||
      (List.range 24).any fun h => bitsOf b.2.2 h 1 == 1 && !exists' l h

/-- The block as the launch uses it. -/
def lpb (l : List Byte) (va : Word) (gs : List (Nat × List Nat)) (bs : List (Nat × Nat × Nat)) : Lpb :=
  let flags := num l 34 2
  { va := va, pcs := [0, 1, 2].map fun p => BitVec.ofNat 64 (num l (8 * p) 8), masks := [0, 1, 2].map fun p => num l (24 + p) 1
    width := num l 28 1, height := num l 29 1, spadKib := num l 30 2, slices := num l 32 2
    test := bitsOf flags 0 1 == 1, scatter := bitsOf flags 1 1 == 1, retain := bitsOf flags 2 1 == 1
    order := bitsOf flags 3 2, swz := bitsOf flags 5 3, cap := num l 36 4, kid := num l 40 4, succ := num l 44 4
    groups := gs, barriers := bs, pipes := pipes l
    textBase := BitVec.ofNat 64 (num l 96 8), textLen := num l 104 4, hook := BitVec.ofNat 64 (num l 108 8) }

end Blk

namespace State

/-! ### Reading the block and its tables -/

/-- What the check of a block comes to. -/
inductive Checked where
  | held
  | bad (code detail : Nat)
  | ok (l : Lpb)

/-- The member lists of the group table's entries; a sum with what a read that fails came to. -/
def readGroups (s : State) (d : DieId) (part : Nat) (gtab : Word) (t : List Byte) : List Nat → FeGot ⊕ List (Nat × List Nat)
  | [] => .inr []
  | g :: l =>
    let e := Blk.groupEntry t g
    if e.2.1 = 0 then readGroups s d part gtab t l
    else match s.feRead d part (gtab + BitVec.ofNat 64 e.1) (2 * e.2.1) with
      | .bytes b =>
        match readGroups s d part gtab t l with
        | .inr r => .inr ((g, (List.range e.2.1).map fun i => Image.num b (2 * i) 2) :: r)
        | x => x
      | x => .inl x

/-- A cell belongs to a partition: it holds it, or firmware has assigned it to it (R282). -/
def inPart (s : State) (part : Nat) (c : CellId) : Bool :=
  let p := (s.getCell c).ctx.part
  p == part || (p == 0xFF && Config.assigned part c)

/-- The checks of R256 after the tables have been read: the first row that fails, with the lowest offset that fails it. -/
def checkFields (s : State) (d : DieId) (part : Nat) (va : Word) (l : List Byte) (gt : List Byte) (gs : List (Nat × List Nat))
    (bs : List (Nat × Nat × Nat)) : Checked :=
  let kib := Blk.num l 30 2
  let low := fun (xs : List Nat) => xs.foldl min 0xFF
  let reserved := (List.range 255).any fun i => !(Blk.groupEntry gt (i + 1)).2.2
  let row3 := Blk.fieldsBad l ++ if reserved then [0xFF] else []
  if kib % 16 ≠ 0 ∨ 304 < kib then .bad 2 30
  else if !row3.isEmpty then .bad 3 (low row3)
  else if !(Blk.pipesBad l).isEmpty then .bad 3 (low (Blk.pipesBad l))
  else if Blk.tablesBad l gs bs then .bad 3 0xFF
  else if (gridPoints.filter fun p => s.inPart part (gridCell d.pkg p.1 p.2)).length < Blk.num l 28 1 * Blk.num l 29 1 then .bad 3 28
  else .ok (Blk.lpb l va gs bs)

/-- The check of a launch parameter block (R256). -/
def checkLpb (s : State) (d : DieId) (part : Nat) (va : Word) : Checked :=
  if va.toNat % 64 ≠ 0 then .bad 7 8
  else match s.feRead d part va 256 with
    | .held => .held
    | .fault => .bad 7 8
    | .bytes l =>
      let gtab := BitVec.ofNat 64 (Blk.num l 48 8)
      let btab := BitVec.ofNat 64 (Blk.num l 56 8)
      match (if gtab = 0 then FeGot.bytes [] else s.feRead d part gtab 2048), (if btab = 0 then FeGot.bytes [] else s.feRead d part btab 192) with
      | .held, _ => .held
      | .fault, _ => .bad 7 48
      | _, .held => .held
      | _, .fault => .bad 7 56
      | .bytes gt, .bytes bt =>
        match s.readGroups d part gtab gt ((List.range 255).map fun i => i + 1) with
        | .inl .held => .held
        | .inl _ => .bad 7 0xFF
        | .inr gs => s.checkFields d part va l gt gs (Blk.barriers bt)

/-! ### Placement (R257, R258, R261) -/

/-- A cell grants a reservation to a launch: it is idle, or retained for it, and no swap is exchanging its partition. -/
def grants (s : State) (c : CellId) (part kid : Nat) : Bool :=
  let v := s.getCell c
  v.swap != 3 && v.ctx.gang.isNone && (match v.ctx.use with
    | .idle => true
    | .retained r => r.part == part && r.succ == kid
    | _ => false)

/-- The cells of a rectangle, in rank order (R259). -/
def rect (pkg y x h w : Nat) : List CellId := (List.range (h * w)).map fun i => gridCell pkg (y + i / w) (x + i % w)

/-- The cells of a rectangle are retained for a launch of their shape, in their ranks. -/
def retainedRect (s : State) (part : Nat) (l : Lpb) (cs : List CellId) : Bool :=
  (List.range cs.length).all fun i => match cs[i]? with
    | some c => decide ((s.getCell c).ctx.use = .retained ⟨part, l.kid, l.width, l.height⟩) && (s.getCell c).ctx.rank == i
    | none => false

/-- The origins of a launch's rectangles, row-major. -/
def origins (l : Lpb) : List (Nat × Nat) := gridPoints.filter fun p => decide (p.1 + l.height ≤ 48) && decide (p.2 + l.width ≤ 48)

/-- The choice of a rectangle: the retained one of the launch, else the first that is free. The occupancy map shows the cells as
they are. -/
def chooseRect (s : State) (d : DieId) (part : Nat) (l : Lpb) : Option (List CellId) :=
  let rs := (origins l).map fun p => rect d.pkg p.1 p.2 l.height l.width
  match rs.find? (s.retainedRect part l) with
  | some r => some r
  | none => rs.find? fun r => r.all fun c => s.inPart part c && s.grants c part l.kid

/-- The launch is placed cell by cell (R258): not a pipeline gang (R231), nor under the ferry (R267). -/
def scatters (r : Running) (l : LaunchRun) : Bool := decide (16 ≤ l.attempts) && l.lpb.scatter && l.lpb.pipes.isEmpty && !r.ferry

/-- The partition's cells in the launch's traversal order. -/
def walkCells (s : State) (d : DieId) (part : Nat) (l : Lpb) : List CellId :=
  ((inOrder l.order l.swz gridPoints).map fun p => gridCell d.pkg p.1 p.2).filter (s.inPart part)

/-- A launch is at a stage. -/
def setStage (s : State) (d : DieId) (q k : Nat) (r : Running) (l : LaunchRun) (st : LaunchStage) : State :=
  s.setRun d q k { r with launch := some { l with stage := st } }

/-- A granted reservation is released: the cell is idle again, or retained as before. -/
def releaseGrant (s : State) (c : CellId) : State :=
  s.updCtx c fun x => { x with use := match x.use with
    | .reserved _ _ _ (some t) => .retained t
    | .reserved _ _ _ none => .idle
    | u => u }

/-- An attempt fails: every grant is released, and the launch backs off (R257). -/
def attemptFails (s : State) (d : DieId) (q k : Nat) (r : Running) (l : LaunchRun) (granted : List CellId) : State :=
  ((granted.foldl releaseGrant s).setStage d q k r { l with attempts := l.attempts + 1 } .backoff).push (.placementBackoffExpiry d q k)

/-- A launch chooses, and sends its reserve requests. -/
def choosePlace (s : State) (d : DieId) (q k : Nat) (r : Running) (l : LaunchRun) : State :=
  let part := s.qPart d q
  if scatters r l then
    match s.walkCells d part l.lpb with
    | [] => s.attemptFails d q k r l []
    | c :: cs => (s.setStage d q k r l (.reserving (c :: cs) [] [c] false true)).push (.reserveRequest c d q k)
  else match s.chooseRect d part l.lpb with
    | none => s.push (.placementAttempt d q k)
    | some cs => (s.setStage d q k r l (.reserving cs [] cs false false)).pushAll (cs.map (.reserveRequest · d q k))

/-! ### Setup (R234, R235, R259) -/

/-- The words of an L1 that lie in the banks which become scratch as the share grows from `old` to `spad` blocks. Which ones they are the
implementation chooses, but each bank has 16 KiB: no more than those banks hold, and so many that the banks which stay hold the rest
(R233, R234; DESIGN CHOICE, log 9). -/
def splitWords (s : State) (c : CellId) (old spad : Nat) : List Nat :=
  let bank := fun w : Nat => Config.l1Bank (w / 64) s.tick % 20
  let hit := fun w : Nat => decide (old / 4 ≤ bank w) && decide (bank w < spad / 4)
  let words := (s.getCell c).l1.map fun e => e.1
  let go := (words.filter hit).take ((spad / 4 - old / 4) * 2048)
  if spad / 4 ≤ old / 4 then [] else go ++ (words.filter fun w => !go.contains w).drop ((20 - spad / 4) * 2048)

/-- The split of a cell changes (R234): words of L1 banks that become scratch are yielded, as by `yld`, or dropped. -/
def changeSplit (s : State) (c : CellId) (spad : Nat) : State :=
  (s.splitWords c (s.getCell c).ctx.spad spad).foldl (fun t w => t.evictWord c w) s

/-- The tiles a new gang starts with: the FULL blocks of a claimed retention within its share (R235). -/
def keptTiles (x : CellCtx) (spad : Nat) : List (Nat × Tile) :=
  match x.use with
  | .reserved _ _ _ (some _) => x.tiles.filter fun p => decide (p.2.st = .full) && decide (p.1 < spad)
  | _ => []

/-- The instruction words preloaded from TEXTBASE, by physical address: the bytes `text` that are multicast (R259). -/
def preload (s : State) (c : CellId) (part : Nat) (l : Lpb) (text : List Byte) : List (Nat × Nat) :=
  (List.range (min l.textLen 65536 / 4)).filterMap fun i =>
    let va := l.textBase + BitVec.ofNat 64 (4 * i)
    match s.translateFor c.dieId part c.pkg va with
    | none => none
    | some e =>
      let qa := e.phys va.toNat
      if physFault e qa || e.kind = kBlock then none
      else (s.homeValue c.dieId (s.kindAt e qa) (wordOf qa)).map fun _ => (qa, bytesToNat ((text.drop (4 * i)).take 4))

/-- A cell is set up for rank `rank` of a gang (R259 step 1). -/
def setupCell (s : State) (g : Nat) (part : Nat) (l : Lpb) (text : List Byte) (c : CellId) (rank : Nat) : State :=
  let spad := l.spadKib / 4
  let s1 := s.changeSplit c spad
  let x := (s1.getCell c).ctx
  let ctx : CellCtx := { CellCtx.reset with
    part := part, gang := some g, rank := rank, use := .busy, tiles := keptTiles x spad, capin := l.cap, spad := spad
    queues := l.pipes.map fun p => (p.1, ⟨[], some (p.2.1, p.2.2), [], []⟩) }
  let insns := s1.preload c part l text
  let s2 := s1.updCell c fun v => { v with
    ctx := ctx, istore := insns, istoreBad := [], rr := [], preempted := v.preempted.map fun p => (p.1, Hart.reset) }
  { s2 with harts := s2.harts.filter fun p => !decide (p.1.cellId = c) || p.2.service }

/-- A byte of the text that a launch multicasts, as the front end reads it; what stands for one that it cannot read, no rule states
(log 12). -/
def textByte (s : State) (d : DieId) (part : Nat) (va : Word) : Byte :=
  let open' := fun e : TlbEntry => !(physFault e (e.phys va.toNat)) && e.kind != kBlock
  let v := ((s.translateFor d part d.pkg va).filter open').bind fun e =>
    (s.homeValue d (s.kindAt e (e.phys va.toNat)) (wordOf (e.phys va.toNat))).map fun w => fld w (8 * (va.toNat % 8)) 8
  BitVec.ofNat 8 (v.getD (Config.unstated 66 va.toNat s.tick))

/-- The min(TEXTLEN, 65,536) bytes of the text, which are multicast (R259). That they are read when the LAUNCH is accepted, and not after its
place was found, is a DESIGN CHOICE, log 35. -/
def launchText (s : State) (d : DieId) (part : Nat) (l : Lpb) : List Byte :=
  (List.range (min l.textLen 65536)).map fun i => s.textByte d part (l.textBase + BitVec.ofNat 64 i)

/-- The digest of a launch: over its parameter block and the bytes that are multicast (R310). -/
def launchDigest (block text : List Byte) : List Byte := shake256 32 (block ++ text)

/-- Append an entry to a partition's launch log of 256 entries, newest first. -/
def logLaunch (s : State) (d : DieId) (part kid : Nat) (digest : List Byte) : State :=
  s.updDie d fun v =>
    let mine := v.launchLog.filter fun e => e.1 == part
    let others := v.launchLog.filter fun e => e.1 != part
    { v with launchLog := ((part, kid, digest) :: mine).take 256 ++ others }

/-- The gang's cells are set up, with ranks in the order of the list. -/
def setupCells (g part : Nat) (l : Lpb) (text : List Byte) : List CellId → Nat → State → State
  | [], _, s => s
  | c :: cs, i, s => setupCells g part l text cs (i + 1) (s.setupCell g part l text c i)

/-- The front end commits: the gang exists, and its cells are set up. -/
def commitLaunch (s : State) (d : DieId) (q k : Nat) (r : Running) (l : LaunchRun) (cells : List CellId) : State :=
  let g := s.nextId
  let part := s.qPart d q
  let gang : Gang := ⟨part, d.pkg, l.lpb, cells, d, q, k, [], [], false, [], []⟩
  let s1 := { s with nextId := g + 1, gangs := store g gang s.gangs }
  ((setupCells g part l.lpb l.text cells 0 s1).setStage d q k r l (.setup g)).push (.gangRelease d q k)

/-- A cell answers a reserve request (R257). -/
def answerReserve (s : State) (c : CellId) (d : DieId) (q k : Nat) (r : Running) (l : LaunchRun) : State :=
  match l.stage with
  | .reserving wanted granted waiting refused scatter =>
    if !waiting.contains c then s
    else
      let ok := s.grants c (s.qPart d q) l.lpb.kid
      let s1 := if ok then s.updCtx c fun x => { x with use := .reserved d q k (match x.use with
          | .retained t => some t
          | _ => none) } else s
      let granted' := if ok then granted ++ [c] else granted
      let waiting' := waiting.filter fun e => e != c
      if scatter then
        if granted'.length = l.lpb.width * l.lpb.height then s1.commitLaunch d q k r l granted'
        else match wanted.tail with
          | [] => s1.attemptFails d q k r l granted'
          | e :: es => (s1.setStage d q k r l (.reserving (e :: es) granted' [e] false true)).push (.reserveRequest e d q k)
      else if !waiting'.isEmpty then s1.setStage d q k r l (.reserving wanted granted' waiting' (refused || !ok) false)
      else if refused || !ok then s1.attemptFails d q k r l granted'
      else s1.commitLaunch d q k r l wanted
  | _ => s

/-! ### Release (R10, R259) -/

/-- A hart at its start (R10). -/
def startedHart (l : Lpb) (n : Nat) : Hart :=
  { Hart.reset with
    status := .running, pc := l.pcs.getD (n / 8) 0, mode := .u
    csr := if l.hook = 0 then HartCsrs.reset else { HartCsrs.reset with mtvec := l.hook &&& ~~~(3 : Word) }
    x := ((Hart.reset.x).setIfInBounds 10 l.va).setIfInBounds 11 (BitVec.ofNat 64 n) }

/-- A hart of a gang starts; one whose slot a service context has taken starts pre-empted. -/
def startHart (s : State) (l : Lpb) (c : CellId) (n : Nat) : State :=
  if (s.getHart (c.hart n)).service then s.updCell c fun v => { v with preempted := store n (startedHart l n) v.preempted }
  else s.setHart (c.hart n) (startedHart l n)

/-- The existing harts of a cell start, each with a bank; none while one of them finds no bank and has to wait (R225, R279). -/
def startCell (s : State) (l : Lpb) (c : CellId) : Option State :=
  (List.range 24).foldl (fun t n =>
    if bitsOf (l.masks.getD (n / 8) 0) (n % 8) 1 = 1 then (t.bind fun u => u.freeBank c (n / 8)).map fun u => u.startHart l c n else t) (some s)

/-- The release reaches one more cell of the gang. -/
def releaseNext (s : State) (d : DieId) (q k : Nat) (r : Running) (l : LaunchRun) (i : Nat) (g : Gang) : State :=
  let left := g.cells.filter fun c => !g.started.contains c
  let here := left.filter fun c => decide ((s.getCell c).ctx.gang = some i)
  match here[s.draw % here.length]? with
  | none => if left.isEmpty then s.setStage d q k r l (.running i) else s.push (.gangRelease d q k)
  | some c =>
    match s.startCell l.lpb c with
    | none => s.push (.gangRelease d q k)
    | some t =>
      let s1 := { t with gangs := store i { g with started := c :: g.started } t.gangs }
      if left.length = 1 then s1.setStage d q k r l (.running i) else s1.push (.gangRelease d q k)

/-! ### Completion and retention (R85, R261) -/

/-- A cell's engines, channels, commit buffers and retirement tracker are idle. -/
def cellIdle (s : State) (c : CellId) : Bool :=
  let x := (s.getCell c).ctx
  x.mq.isEmpty && x.vq.isEmpty && x.cq.isEmpty && x.commit.isEmpty && !(x.chans.any fun p => p.2.busy) &&
    ([0, 1, 2].all fun p => s.tracked c p == 0)

/-- A gang's cells form the rectangle of its launch. -/
def isRect (g : Gang) : Bool :=
  match g.cells with
  | [] => false
  | c :: _ => decide (g.cells = rect g.pkg (gridPos c).1 (gridPos c).2 g.lpb.height g.lpb.width)

/-- A cell of a completed launch becomes idle, or is retained. -/
def retireCell (s : State) (g : Gang) (c : CellId) : State :=
  let keep := (s.ctxFor c g.part).any fun x => x.retainBit
  let shape := if isRect g then (g.lpb.width, g.lpb.height) else (0, 0)
  let s1 := s.updCtxFor c g.part fun x =>
    if x.retainBit then { x with gang := none, use := .retained ⟨g.part, x.succ, shape.1, shape.2⟩ }
    else { x with gang := none, use := .idle, tiles := [] }
  if keep then s1.pushOnce (.retentionExpiry c) else s1

/-- The last cell of a gang has reported: the LAUNCH completes (R250, R261). -/
def finishLaunch (s : State) (i : Nat) (g : Gang) : State :=
  let s1 := g.cells.foldl (fun t c => t.retireCell g c) { s with gangs := erase i s.gangs }
  s1.withRun g.die g.queue g.cmd fun r => s1.complete g.die g.queue g.cmd r (if g.faulted then 9 else 1) 0 false

/-- A cell reports done. -/
def reportDone (s : State) (c : CellId) (i : Nat) (g : Gang) : State :=
  let g' := { g with doneCells := c :: g.doneCells }
  let s1 := { s.updCtx c fun x => { x with lastHalted := false } with gangs := store i g' s.gangs }
  if g'.doneCells.length = g.cells.length then s1.finishLaunch i g' else s1

/-- An accepted LAUNCH enters the launch log of its die (R310). -/
def logAccepted (s : State) (d : DieId) (part : Nat) (va : Word) (l : Lpb) (text : List Byte) : State :=
  match s.feRead d part va 256 with
  | .bytes b => s.logLaunch d part l.kid (launchDigest b text)
  | _ => s

end State

/-! ### The events -/

/-- LAUNCH (R256, R310): the block is checked before any cell is reserved. -/
def execLaunchCommand (d : DieId) (q k : Nat) (s : State) : Out :=
  .next (s.withOp d q k 1 fun r =>
    if r.launch.isSome then s
    else match s.checkLpb d (s.qPart d q) (r.word 1) with
      | .held => s.push (.launchCommand d q k)
      | .bad code detail => s.complete d q k r code detail false
      | .ok l =>
        let text := s.launchText d (s.qPart d q) l
        ((s.logAccepted d (s.qPart d q) (r.word 1) l text).setRun d q k { r with launch := some ⟨l, 0, .choosing, text⟩ }).push
          (.placementAttempt d q k))

/-- PLACEMENT_ATTEMPT (R257): a launch that finds no place waits and chooses again. -/
def execPlacementAttempt (d : DieId) (q k : Nat) (s : State) : Out :=
  .next (s.withRun d q k fun r => match r.launch with
    | some l => if l.stage = .choosing then s.choosePlace d q k r l else s
    | none => s)

/-- RESERVE_REQUEST (R257): the cell grants it when it is idle, and refuses it otherwise. -/
def execReserveRequest (c : CellId) (d : DieId) (q k : Nat) (s : State) : Out :=
  .next (s.withRun d q k fun r => match r.launch with
    | some l => s.answerReserve c d q k r l
    | none => s)

/-- PLACEMENT_BACKOFF_EXPIRY (R257). -/
def execPlacementBackoffExpiry (d : DieId) (q k : Nat) (s : State) : Out :=
  .next (s.withRun d q k fun r => match r.launch with
    | some l => if l.stage = .backoff then (s.setStage d q k r l .choosing).push (.placementAttempt d q k) else s
    | none => s)

/-- GANG_RELEASE (R259): cells start at different times. -/
def execGangRelease (d : DieId) (q k : Nat) (s : State) : Out :=
  .next (s.withRun d q k fun r => match r.launch with
    | some l =>
      match l.stage with
      | .setup i =>
        match lookup i s.gangs with
        | some g => s.releaseNext d q k r l i g
        | none => s
      | _ => s
    | none => s)

/-- CELL_DONE (R85): the cell reports done once every hart has halted and its engines, channels and tracker are idle. -/
def execCellDone (c : CellId) (s : State) : Out :=
  let x := (s.getCell c).ctx
  .next (if !x.lastHalted then s
    else if !(s.allHalted c && s.cellIdle c) then s.push (.cellDone c)
    else match x.gang with
      | none => s
      | some i =>
        match lookup i s.gangs with
        | some g => s.reportDone c i g
        | none => s)

/-- RETENTION_EXPIRY (R261): a retention that no launch has committed to ends, and its blocks are powered down. -/
def execRetentionExpiry (c : CellId) (s : State) : Out :=
  .next (s.updCtx c fun x => match x.use with
    | .retained _ => { x with use := .idle, tiles := [] }
    | .reserved d q k (some _) => { x with use := .reserved d q k none, tiles := [] }
    | _ => x)

end Sys2Proof.Machine
end

