-- ==== Sys2Proof/Machine/HostLink.lean ====
section
/-!
DEFINITION. The host link: host accesses to HBM, bias flips, and the link going down and up (R292 to R297, R307).
-/
namespace Sys2Proof.Machine

namespace State

/-! ### Host accesses (R293, R294, R307) -/

/-- The home of a word of HBM as a host access finds it. -/
def hbmHome (s : State) (w : Nat) : DieId := s.homeOf kTracked w

/-- A page of HBM is mapped under a kind by some partition of its package. -/
def mappedAs (s : State) (kind page : Nat) : Bool :=
  s.dies.any fun d => decide (d.1.pkg = page * 4096 / pkgSpan) && d.2.ptroot.any fun r =>
    fld r.2 0 1 == 1 && (s.leaves d.1 r.1 0 (2 ^ 57) 4 (fld r.2 12 40 * 4096) 0).any fun e =>
      e.kind == kind && decide (e.pa ≤ page * 4096) && decide (page * 4096 < e.pa + e.size)

/-- A host access of bytes: one piece of HBM. A page that a partition maps WORD_REPLICATED is one for the host too (R293; log 32). -/
def hostPiece (s : State) (qa n : Nat) : Seg :=
  if s.mappedAs kReplicated (qa / 4096) then ⟨qa, n, kReplicated, stackDie qa, kReplicated⟩ else ⟨qa, n, kTracked, s.hbmHome qa, kTracked⟩

/-- The bytes the host reads: none (poisoned) where a word of them is LOST or holds an uncorrectable error. The home's own replica of a
WORD_REPLICATED page is the memory that it sequences. -/
def hostBytes (s : State) (g : Seg) : Option (List Byte) :=
  if s.lostIn g || s.badIn g then none else some (s.pieceBytes g.home { g with kind := kTracked })

/-- The LOST words of a piece are logged at their homes, as a host request met them (R293, R321). -/
def logLost (s : State) (g : Seg) : State :=
  (pieceWords g.qa g.len).foldl (fun t w =>
    if lookup w s.words = some .lost then t.logDie (s.hbmHome w) true 49 (paOf w / 8) 0 0 0 else t) s

/-- A host write performs as a posted store (R293): words are taken back from their owners; a LOST word is written only whole. On a
WORD_REPLICATED page it is sequenced, and the other replicas follow (R114, R219). It goes by a context of the front end that no store of the
front end goes by. -/
def hostStore (s : State) (g : Seg) (bs : List Byte) : State :=
  let s1 := ((s.ownedWords g).foldl (fun t p => t.recallWord p.2 p.1) s).logLost g
  if g.kind = kReplicated then s1.storeBytes ((feCell g.home).hart 1) 256 (BitVec.ofNat 64 g.qa) g bs
  else (pieceWords g.qa bs.length).foldl (fun t w =>
    let m := pieceWord g.qa bs w
    if lookup w t.words = some .lost then
      if m.1 = BitVec.allOnes 64 then { (t.applyStore w kTracked m.1 m.2) with words := erase w t.words } else t
    else (t.applyStore w kTracked m.1 m.2).loseResv w none) s1

/-- The host changes its own memory: a device's later access finds the new bytes (R290). -/
def hostOwnStore (s : State) (qa : Nat) (bs : List Byte) : State :=
  (pieceWords qa bs.length).foldl (fun t w =>
    let m := pieceWord qa bs w
    (t.applyStore w kUntracked m.1 m.2).loseResv w none) s

/-! ### Bias (R295, R296) -/

/-- The page that BIAS.CMD of a die names, qualified page number. -/
def biasPage (d : DieId) (cmd : Word) : Nat := d.pkg * (pkgSpan / 4096) + fld cmd 12 40

/-- A write of BIAS.CMD (R295): TOHOST and PPN are stored, and a GO starts a flip; while a flip is in progress a GO is ignored. -/
def writeBias (s : State) (d : DieId) (v : Word) : State :=
  let old := (s.getDie d).biasCmd
  let kept := v &&& BitVec.ofNat 64 (2 ^ 52 + (2 ^ 40 - 1) * 2 ^ 12)
  let put := fun w : Word => s.updDie d fun x => { x with biasCmd := w }
  if fld old 62 1 = 1 ∨ wbit v 63 = false then put (setFld (setFld kept 61 1 (fld old 61 1)) 62 1 (fld old 62 1))
  else
    let page := biasPage d kept
    if !(inHbm (page * 4096) && decide (stackDie (page * 4096) = d)) then put (setFld kept 61 1 1)
    else if s.hostBias.contains page = wbit v 52 then put kept
    else ((put (setFld kept 62 1 1)).updDie d fun x => { x with flip := some (page, wbit v 52) }).push (.biasFlipComplete d)

/-- The registered words of a page return to HOME, and their owners keep them VALID (R296). -/
def yieldPage (s : State) (page : Nat) : State :=
  (s.ownedWords ⟨page * 4096, 4096, kTracked, stackDie (page * 4096), kTracked⟩).foldl (fun t p =>
    match t.l1Get p.2 p.1 with
    | some e => (t.homeWord p.1 e.data).l1Set p.2 p.1 ⟨false, e.data⟩
    | none => t) s

/-- A request for a word of the page is still under way between its home and an owner. -/
def pageBusy (s : State) (page : Nat) : Bool :=
  let g : Seg := ⟨page * 4096, 4096, kTracked, stackDie (page * 4096), kTracked⟩
  (s.busy.any fun p => p.1 / 4096 == page) || (s.ownedWords g).any fun p => !(match s.l1Get p.2 p.1 with
    | some e => e.owned
    | none => false)

/-- The kind that a page of a leaf is served under once its bias is `toHost` (R294). -/
def biasKind (toHost : Bool) (leaf : Nat) : Nat := if toHost && leaf != kBlock then kUntracked else leaf

/-- An access to the page, under its new bias. -/
def Access.flipped (page : Nat) (b : Bool) (a : Access) : Access := if a.qa / 4096 = page then { a with kind := biasKind b a.leaf } else a

/-- A piece of the page, under its new bias. -/
def Seg.flipped (page : Nat) (b : Bool) (g : Seg) : Seg := if g.qa / 4096 = page then { g with kind := biasKind b g.leaf } else g

/-- A request that its home has not served yet is served under the new bias (R292, R296). -/
def Op.flipped (page : Nat) (b : Bool) : Op → Op
  | .load a i none => .load (Access.flipped page b a) i none
  | .register a v none r => .register (Access.flipped page b a) v none r
  | .atomic a k v none => .atomic (Access.flipped page b a) k v none
  | .post a c m v ad l false => .post (Access.flipped page b a) c m v ad l false
  | .row h p c cell va g lock bs false => .row h p c cell va (Seg.flipped page b g) lock bs false
  | .copyWrite c ch p va g bs => .copyWrite c ch p va (Seg.flipped page b g) bs
  | .lock c ch p lo hi gs l => .lock c ch p lo hi (gs.map (Seg.flipped page b)) l
  | o => o

/-- The flip of a page that a die carries out performs. -/
def flipBias (s : State) (d : DieId) (page : Nat) (toHost : Bool) : State :=
  let s1 := s.updDie d fun x => { x with biasCmd := setFld x.biasCmd 62 1 0, flip := none }
  let s2 := if toHost then { s1.yieldPage page with hostBias := page :: s1.hostBias }
    else { s1 with hostBias := s1.hostBias.filter fun p => p != page }
  { s2 with ops := s2.ops.map fun o => (o.1, Op.flipped page toHost o.2) }

/-! ### The link (R297) -/

/-- The unit that an unperformed write to host memory of a package belongs to: its cell, partition and hart. -/
def hostWriter (pkg : Nat) (o : Op) : Option (CellId × Nat × Nat) :=
  let gone := fun qa : Nat => inHost qa && pkgOfQa qa == pkg
  match o with
  | .post a _ _ _ _ _ false => if gone a.qa then some (a.hart.cellId, a.part, a.hart.hart % 32) else none
  | .row h part _ cell _ g _ (some _) false => if gone g.qa then some (cell, part, h.hart % 32) else none
  | .copyWrite c _ part _ g _ => if gone g.qa then some (c, part, 0) else none
  | _ => none

/-- An outstanding write to host memory is discarded: its unit counts it no longer. -/
def discardWrite (s : State) (id : Nat) (o : Op) : State :=
  match o with
  | .post a cls _ _ _ _ _ => (s.landed a cls).acked id a.hart a.part cls
  | .row h part cls _ _ _ _ _ _ => (s.unlock id).acked id h part (some cls)
  | .copyWrite c ch part _ _ _ => s.chanAcked c ch part id
  | _ => s

/-- Entries of the discarded writes: one for each unit's cell (R297). -/
def logDiscards (s : State) : List (CellId × Nat × Nat) → List CellId → State
  | [], _ => s
  | (c, part, h) :: l, seen =>
    if seen.contains c then logDiscards s l seen else logDiscards (s.logDiscard c part h) l (c :: seen)

/-- The host link of a package goes down. -/
def hostDown (s : State) (pkg : Nat) : State :=
  let lost := s.ops.filter fun o => (hostWriter pkg o.2).isSome
  let s1 := (s.updPkg pkg fun p => { p with hostUp := false }).logDiscards (lost.filterMap fun o => hostWriter pkg o.2) []
  let s2 := lost.foldl (fun t o => t.discardWrite o.1 o.2) s1
  let stays := fun e : Event => match e with
    | .hostMemRead p _ _ => p != pkg
    | .hostMemWrite p _ _ _ => p != pkg
    | _ => true
  { s2 with pool := s2.pool.filter stays, held := s2.held.filter fun h => stays h.2 }

end State

/-! ### The events -/

/-- HOST_MEM_READ (R293, R294): a CXL.mem read of HBM at a host physical address that the HDM decoder maps (R291); another address does
not reach the module. Until the die's STATE is RUN it returns poisoned data (R307). -/
def execHostMemRead (pkg addr size : Nat) (s : State) : Out :=
  .next (match s.hdmAddr pkg addr size with
    | none => s
    | some qa =>
      let g := s.hostPiece qa size
      if !(s.getPkg pkg).hostUp then s
      else if !s.dieRuns (stackDie qa) then s.emit (.hostRead pkg none)
      else if s.pieceHeld g then s.push (.hostMemRead pkg addr size)
      else (s.logLost g).emit (.hostRead pkg (s.hostBytes g)))

/-- HOST_MEM_WRITE (R293, R294): a CXL.mem write of HBM at a host physical address that the HDM decoder maps (R291). Until the die's STATE
is RUN it is dropped (R307). A write outside the decoder's range is one that the host makes to its own memory (R290). -/
def execHostMemWrite (pkg addr size value : Nat) (s : State) : Out :=
  .next (match s.hdmAddr pkg addr size with
    | none => if addr + size ≤ 2 ^ 51 then s.hostOwnStore (pkg * pkgSpan + 2 ^ 51 + addr) (natToBytes size value) else s
    | some qa =>
      let g := s.hostPiece qa size
      if !(s.getPkg pkg).hostUp || !s.dieRuns (stackDie qa) then s
      else if s.pieceHeld g then s.push (.hostMemWrite pkg addr size value)
      else s.hostStore g (natToBytes size value))

/-- BIAS_CMD (R295): a write of BIAS.CMD by the host or the die's firmware core. -/
def execBiasCmd (d : DieId) (agent value : Nat) (s : State) : Out :=
  .next (if State.hostOrOwn d agent && s.dieRuns d then s.writeBias d (BitVec.ofNat 64 value) else s)

/-- BIAS_FLIP_COMPLETE (R296). -/
def execBiasFlipComplete (d : DieId) (s : State) : Out :=
  .next (match (s.getDie d).flip with
    | none => s
    | some (page, toHost) => if s.pageBusy page then s.push (.biasFlipComplete d) else s.flipBias d page toHost)

/-- HOST_LINK_DOWN (R297). -/
def execHostLinkDown (pkg : Nat) (s : State) : Out := .next (if (s.getPkg pkg).hostUp then s.hostDown pkg else s)

/-- HOST_LINK_UP (R297). -/
def execHostLinkUp (pkg : Nat) (s : State) : Out := .next (s.updPkg pkg fun p => { p with hostUp := true })

end Sys2Proof.Machine
end

