-- ==== Sys2Proof/Machine/Links.lean ====
section
/-!
DEFINITION. Links between packages: the arrival of operations in sequence, ports going down and up, and the failing of operations
for an unreachable destination (R299 to R305).
-/
namespace Sys2Proof.Machine

namespace State

/-! ### Ports (R300, R302) -/

/-- A port of a package. -/
def getPort (s : State) (pkg p : Nat) : Port := (lookup p (s.getPkg pkg).ports).getD ⟨0, 0, 0, 0, 0⟩

/-- Replace it. -/
def setPort (s : State) (pkg p : Nat) (v : Port) : State := s.updPkg pkg fun x => { x with ports := store p v x.ports }

/-- A flow of a package sends what left by a port again, by its next route and under its original numbers (R302). -/
def resendFlow (s : State) (port src dst lane : Nat) (f : Flow) : State :=
  let hit := f.sent.filter fun e => e.2.2 == port
  if hit.isEmpty then s
  else
    let next := s.routePort src dst
    let sent := f.sent.map fun e => if e.2.2 == port then (e.1, e.2.1, next.getD 16) else e
    let copies := hit.map fun (e : Nat × Event × Nat) => (⟨e.1, e.2.1, src, 0⟩ : Copy)
    let s1 := { s with flows := store (src, dst, lane) { f with sent := sent, wire := f.wire ++ copies } s.flows }
    s1.pushAll (hit.map fun _ => .linkOperationArrive src dst lane)

/-- Destinations for which a package has no valid route. -/
def noRoute (s : State) (src : Nat) : List Nat :=
  ((s.flows.filter fun f => f.1.1 == src).map fun f => f.1.2.1).eraseDups.filter fun d => (s.routePort src d).isNone

/-- A port has traffic pending: operations that left by it are not acknowledged, or copies that a package sends on are to leave by it (R300). -/
def portPending (s : State) (pkg p : Nat) : Bool :=
  s.flows.any fun f => (f.1.1 == pkg && f.2.sent.any fun e => e.2.2 == p) ||
    f.2.wire.any fun c => c.at' == pkg && f.1.2.1 != pkg && decide (s.routePort pkg f.1.2.1 = some p)

/-- A port goes down: what left by it is sent again, and a destination without a route is unreachable. -/
def portFails (s : State) (pkg p : Nat) : State :=
  let s1 := s.setPort pkg p { s.getPort pkg p with st := 3, lanes := 0, again := 0 }
  let s2 := s1.flows.foldl (fun t f => if f.1.1 = pkg then t.resendFlow p pkg f.1.2.1 f.1.2.2 f.2 else t) s1
  s2.pushAll ((s2.noRoute pkg).map fun d => .destinationUnreachable pkg d)

/-- A port is retrained (R300). -/
def retrain (s : State) (pkg p : Nat) : State := (s.setPort pkg p { s.getPort pkg p with st := 1, lanes := 0, again := 0 }).push (.portUp pkg p)

/-! ### Arrival (R301, R302) -/

/-- Operations of a flow that wait for room among the 4,096 that may be unacknowledged leave, the oldest first (R301). -/
def refill (s : State) (src dst lane : Nat) : State :=
  let f := s.getFlow src dst lane
  match f.waiting with
  | [] => s
  | e :: es =>
    if 4096 ≤ f.sent.length then s
    else
      ({ s with flows := store (src, dst, lane) { f with waiting := es } s.flows }).send src dst lane e

/-- The requester of a failed operation that may still be applied is named apart, so that what answers it is discarded (R303). -/
def goneHart (h : HartId) : HartId := { h with hart := h.hart + 1024 }

/-- The operation has been failed at its requester. -/
def Op.gone : Op → Bool
  | .block _ (.hart h) _ _ _ _ _ _ _ _ _ _ => decide (1024 ≤ h.hart)
  | .register a _ _ _ => decide (1024 ≤ a.hart.hart)
  | .atomic a _ _ _ => decide (1024 ≤ a.hart.hart)
  | .post a _ _ _ _ _ _ => decide (1024 ≤ a.hart.hart)
  | .row h _ _ _ _ _ _ _ _ => decide (1024 ≤ h.hart)
  | .copyWrite _ ch _ _ _ _ => decide (1024 ≤ ch)
  | _ => false

/-- The operation that an answer is for. -/
def answers : Event → Option Nat
  | .blockAnswerLands id => some id
  | .blockWriteAnswer id => some id
  | .l1Fill id => some id
  | .registrationGrant id => some id
  | .postAck id => some id
  | .homeAtomicOp id => some id
  | _ => none

/-- An answer that reaches the package of a request that was failed there. -/
def strayAnswer (s : State) (lane : Nat) (e : Event) : Bool := lane == 1 && ((answers e).bind s.getOp).any Op.gone

/-- What an operation does where it arrives. Every event that is sent between packages stands here. -/
def apply (e : Event) (s : State) : Out :=
  match e with
  | .readRequest id => execReadRequest id s
  | .writeRequest id => execWriteRequest id s
  | .poisonRequest id => execPoisonRequest id s
  | .clearRequest id => execClearRequest id s
  | .presenceStatusRead id => execPresenceStatusRead id s
  | .blockAnswerLands id => execBlockAnswerLands id s
  | .blockWriteAnswer id => execBlockWriteAnswer id s
  | .loadMiss id => execLoadMiss id s
  | .registration id => execRegistration id s
  | .homeAtomicOp id => execHomeAtomicOp id s
  | .transferRecall c w => execTransferRecall c w s
  | .forward id => execForward id s
  | .writeBack c w => execWriteBack c w s
  | .registrationGrant id => execRegistrationGrant id s
  | .l1Fill id => execL1Fill id s
  | .postPerform id => execPostPerform id s
  | .postAck id => execPostAck id s
  | .storeWriteThrough id die => execStoreWriteThrough id die s
  | .wordWrite id => execWordWrite id s
  | .rangeLock id => execRangeLock id s
  | .remoteFlagOp id => execRemoteFlagOp id s
  | .msendRecordArrives id => execMsendRecordArrives id s
  | .mmsendReceive id => execMmsendReceive id s
  | e => .next (s.push e)

/-- An operation that has arrived is applied: an answer to a failed request is discarded (R303), and a request that its home may not serve
yet is held there (R214, R296). -/
def deliver (lane : Nat) (e : Event) (s : State) : Out :=
  if s.strayAnswer lane e then .next (match answers e with
    | some id => s.dropOp id
    | none => s)
  else if s.mustHold e then .next (s.hold e)
  else apply e s

/-- A copy of an operation arrives at its destination: it is applied in its turn, held while it is early, and discarded when it has been
applied already; numbers count modulo 2^32. -/
def arrive' (s : State) (src dst lane : Nat) (f : Flow) (c : Copy) (i : Nat) : Out :=
  let put := fun g : Flow => (({ s with flows := store (src, dst, lane) g s.flows }).refill src dst lane)
  let acked := f.sent.filter fun x => x.1 != c.seq
  let ahead := (c.seq + 2 ^ 32 - f.recvSeq) % 2 ^ 32
  if ahead = 0 then deliver lane c.op (put { f with wire := f.wire.eraseIdx i, sent := acked, recvSeq := (c.seq + 1) % 2 ^ 32 })
  else if ahead < 2 ^ 31 then .next (s.push (.linkOperationArrive src dst lane))
  else .next (put { f with wire := f.wire.eraseIdx i, sent := acked })

/-- A copy is dropped on its way; the sender sends the operation again, if it still holds it (R302). -/
def dropCopy (s : State) (src dst lane : Nat) (f : Flow) (c : Copy) (i : Nat) : State :=
  let wire := f.wire.eraseIdx i
  if (f.sent.any fun x => x.1 == c.seq) && (s.routePort src dst).isSome then
    ({ s with flows := store (src, dst, lane) { f with wire := wire ++ [(⟨c.seq, c.op, src, 0⟩ : Copy)] } s.flows }).push
      (.linkOperationArrive src dst lane)
  else { s with flows := store (src, dst, lane) { f with wire := wire } s.flows }

/-- A copy goes on from a package, by that package's own table, to the one at the far end of its port; at its fifth hop it is dropped
(R302). A flit that has crossed is acknowledged, which ends the run of its replays (R300). -/
def hop (s : State) (src dst lane : Nat) (f : Flow) (c : Copy) (i : Nat) : State :=
  match s.routePort c.at' dst with
  | none => s.dropCopy src dst lane f c i
  | some p =>
    let q := s.getPort c.at' p
    if q.st ≠ 2 then s.push (.linkOperationArrive src dst lane)
    else if 4 ≤ c.hops then s.dropCopy src dst lane f c i
    else
      let sent := if c.at' = src then f.sent.map fun x => if x.1 == c.seq then (x.1, x.2.1, p) else x else f.sent
      let wire := f.wire.set i { c with at' := q.peer, hops := c.hops + 1 }
      (({ s with flows := store (src, dst, lane) { f with sent := sent, wire := wire } s.flows }).setPort c.at' p { q with again := 0 }).push
        (.linkOperationArrive src dst lane)

/-! ### Unreachable destinations (R303) -/

/-- The requester and the home, or the sender and the target, of an operation: it is outstanding until its answer lands. -/
def opEnds : Op → Option (Nat × Nat)
  | .block _ who _ blk _ _ _ _ _ _ _ _ => some (reqPkg who, pkgOfQa blk)
  | .flag src _ dst _ _ => some (src.pkg, dst.pkg)
  | .message src _ dst _ _ _ _ => some (src.pkg, dst.pkg)
  | .matrix src _ dst _ _ => some (src.pkg, dst.pkg)
  | .load a _ _ => some (a.hart.pkg, a.home.pkg)
  | .register a _ _ _ => some (a.hart.pkg, a.home.pkg)
  | .atomic a _ _ _ => some (a.hart.pkg, a.home.pkg)
  | .post a _ _ _ _ _ _ => some (a.hart.pkg, a.home.pkg)
  | .row _ _ _ cell _ g _ _ _ => some (cell.pkg, g.home.pkg)
  | .copyWrite c _ _ _ g _ => some (c.pkg, g.home.pkg)
  | _ => none

/-- The log entry of an operation that was dropped: in the log of the cell that issued it (R321). -/
def logCut (s : State) (c : CellId) (part hart dst : Nat) : State :=
  if isFront c then s.logDie c.dieId true 51 dst 0 0 0 else s.logCell c true 51 dst 0 part (hart % 32)

/-- The failing of an operation for an unreachable destination, by its row of R303. -/
def failOp (s : State) (id : Nat) (o : Op) (dst : Nat) : State :=
  match o with
  | .block req who part blk _ tile idx _ _ _ _ _ =>
    match req, who with
    | .read q, .hart h => s.landRead h part id (pkgOfQa blk) tile idx q .unreachable
    | .read _, .chan c ch => s.chanRead c ch part id .unreachable
    | .read _, .solver _ _ => s.dropOp id
    | r, .hart h => s.landWrite h part id tile idx r .unreachable
    | _, .chan c ch => s.chanWrite c ch part id .unreachable
    | _, .solver d _ => s.decisionAnswer d id .unreachable
  | .load a _ _ => s.closeOp id a.hart a.part (.trap 38 a.va)
  | .register a _ _ _ => s.closeOp id a.hart a.part (.trap 38 a.va)
  | .atomic a _ _ _ => s.closeOp id a.hart a.part (.trap 38 a.va)
  | .post a cls _ _ _ _ _ => ((s.logCut a.hart.cellId a.part a.hart.hart dst).landed a cls).acked id a.hart a.part cls
  | .row h part cls cell _ _ _ _ _ => ((s.logCut cell part h.hart dst).unlock id).acked id h part (some cls)
  | .copyWrite c ch part _ _ _ => s.chanPostFails c ch part id 8
  | .flag src part _ _ _ =>
    let s1 := s.dropOp id
    if 64 ≤ src.hart then
      let ch := src.hart - 64
      match (s1.getChanFor src.cellId part ch).cur with
      | some r => if r.flagOp = some id then s1.runFault src.cellId part ch r 8 else s1
      | none => s1
    else s1.logCut src.cellId part src.hart dst
  | .message src part _ _ _ _ _ =>
    if (s.getWho src part).op = some (.asked id) then s.closeOp id src part (.trap 38 0)
    else (s.dropOp id).logCut src.cellId part src.hart dst
  | .matrix src part _ _ _ => (s.dropOp id).logCut src.cellId part src.hart dst
  | .lock _ _ _ _ _ _ _ => s

/-- The die that sends an answer. -/
def answerDie (s : State) (src : Nat) (e : Event) : DieId :=
  let of := fun id : Nat => match s.getOp id with
    | some (.block _ _ _ blk _ _ _ _ _ _ _ _) => stackDie blk
    | some (.load _ _ (some (.supplied c _))) => c.dieId
    | some (.load a _ _) => a.home
    | some (.register a _ _ _) => a.home
    | some (.atomic a _ _ _) => a.home
    | some (.post a _ _ _ _ _ _) => a.home
    | some (.row _ _ _ _ _ g _ _ _) => g.home
    | some (.copyWrite _ _ _ _ g _) => g.home
    | _ => ⟨src, 0⟩
  match e with
  | .blockAnswerLands id => of id
  | .blockWriteAnswer id => of id
  | .l1Fill id => of id
  | .registrationGrant id => of id
  | .homeAtomicOp id => of id
  | .postAck id => of id
  | _ => ⟨src, 0⟩

/-- Answers that a package held for a destination are dropped, with an entry for each (R303). Their acknowledgements cannot come back
either, so that the requester too finds its path cut. -/
def dropAnswers (s : State) (src dst : Nat) (es : List Event) : State :=
  es.foldl (fun t e => (t.logDie (s.answerDie src e) true 51 dst 0 0 0).pushOnce (.destinationUnreachable dst src)) s

/-- The grants of a word that cannot reach their cells: the stores that wait for them fail (R303). -/
def cutGrants (s : State) (w : Nat) : State :=
  { s with ops := s.ops.map fun o => match o.2 with
      | .register a v (some (.word _)) false => if wordOf a.qa = w then (o.1, .register a v (some (.trap 38 a.va)) false) else o
      | _ => o }

/-- A word whose owner is cut off from its home is LOST, the owner's copy is given up, as one that is struck is (log 33), and the request that
waited for the word goes on (R214). -/
def cutOwner (s : State) (w : Nat) : State :=
  let s1 := if lookup w s.words = some .lost then s else (s.cutGrants w).strikeWord w
  match lookup w s1.busy with
  | some id => (s1.freeBusy w).resume id
  | none => s1

/-- The words whose home lies on one of two packages and whose owner lies on the other. -/
def wordsAcross (s : State) (p q : Nat) : List Nat :=
  (s.words.filter fun x => match x.2 with
    | .registered c => (pkgOfQa x.1 == p && c.pkg == q) || (pkgOfQa x.1 == q && c.pkg == p)
    | .lost => false).map fun x => x.1

/-- A path between two packages has failed: their homes cannot obtain what cells on the other side own, so that those words are LOST at once
(R214; that one direction is enough, and that it happens at once, is DEDUCED, log 32). -/
def cutOwners (s : State) (p q : Nat) : State := (s.wordsAcross p q).foldl cutOwner s

/-- A request of a home to an owner of a word, or a write-back to a home, that cannot be sent. -/
def failHome (s : State) (e : Event) : State :=
  match e with
  | .transferRecall _ w => if lookup w s.busy = none then s else s.cutOwner w
  | .forward id =>
    match s.getOp id with
    | some (.load a inv none) => (s.cutOwner (wordOf a.qa)).answerLoad id a inv a.home.pkg (.trap 29 a.va)
    | _ => s
  | .writeBack c w => (s.l1Drop c w).logCell c true 51 (pkgOfQa w) 0 (s.getCell c).ctx.part 0
  | _ => s

/-- The operation as its home may still find it after it has failed at its requester: one whose request is on its way, or held, or in
service at the home, or whose entry waits on a block's list there (R303). -/
def Op.ghost : Op → Option Op
  | .block r who part blk gen tile idx d sd n ap none =>
    let h : HartId := match who with
      | .hart h => h
      | .chan c _ => c.hart 0
      | .solver d _ => ⟨d.pkg, d.die, 0, 0⟩
    some (.block r (.hart (goneHart h)) part blk gen tile idx d sd n ap none)
  | .register a v none r => some (.register { a with hart := goneHart a.hart } v none r)
  | .atomic a k v none => some (.atomic { a with hart := goneHart a.hart } k v none)
  | .post a c m v ad l p => some (.post { a with hart := goneHart a.hart } c m v ad l p)
  | .row h p c cell va g lock (some bs) false => some (.row (goneHart h) p c cell va g lock (some bs) false)
  | .copyWrite c ch p va g bs => some (.copyWrite c (ch + 1024) p va g bs)
  | .flag src p dst n v => some (.flag (goneHart src) p dst n v)
  | .message src p dst ch ws n false => some (.message (goneHart src) p dst ch ws n false)
  | .matrix src p dst cap k => some (.matrix (goneHart src) p dst cap k)
  | _ => none

/-- The operation that a request to another package carries. -/
def requestOf : Event → Option Nat
  | .readRequest id => some id
  | .writeRequest id => some id
  | .poisonRequest id => some id
  | .clearRequest id => some id
  | .presenceStatusRead id => some id
  | .deferRetry id => some id
  | .remoteFlagOp id => some id
  | .msendRecordArrives id => some id
  | .mmsendReceive id => some id
  | e => asks e

/-- A request of an operation has still to be applied: it is on its way, or at its home, on a block's list for one. -/
def underWay (s : State) (wire : List Event) (id : Nat) : Bool :=
  ((wire ++ s.pool ++ s.held.map fun h => h.2).any fun e => requestOf e == some id) || (s.busy.any fun b => b.2 == id) ||
    s.blocks.any fun b => b.2.list.any fun e => e.op == id

/-- An operation fails for an unreachable destination; where its request has left already it may still be applied, once. -/
def failOne (s : State) (wire : List Event) (dst : Nat) (o : Nat × Op) : State :=
  match (if s.underWay wire o.1 then Op.ghost o.2 else none) with
  | some g => (s.failOp o.1 o.2 dst).setOp o.1 g
  | none => s.failOp o.1 o.2 dst

/-- The flows from a package to another. -/
def flowsTo (s : State) (src dst : Nat) : List Flow := (s.flows.filter fun f => f.1.1 == src && f.1.2.1 == dst).map fun f => f.2

/-- Every number that the destination has still to apply is on its way. -/
def wireWhole (f : Flow) : Bool :=
  (List.range ((f.sendSeq + 2 ^ 32 - f.recvSeq) % 2 ^ 32)).all fun i => f.wire.any fun c => c.seq == (f.recvSeq + i) % 2 ^ 32

/-- Every operation that a package still holds for a destination fails. What had left already may still arrive, or is lost, and then the
numbers go on from there. -/
def failAll (s : State) (src dst : Nat) : State :=
  let held := fun f : Flow => (f.sent.map fun e => e.2.1) ++ f.waiting ++ f.doomed
  let lost := s.draw % 2 == 1 || (s.flowsTo src dst).any fun f => !wireWhole f
  let wire := if lost then [] else (s.flowsTo src dst).flatMap fun f => f.wire.map fun c => c.op
  let ops := s.ops.filter fun o => opEnds o.2 = some (src, dst) && !Op.gone o.2
  let clear := fun f : Flow => if lost then { f with sent := [], waiting := [], doomed := [], wire := [], recvSeq := f.sendSeq }
    else { f with sent := [], waiting := [], doomed := [] }
  let s1 := (held (s.getFlow src dst 0)).foldl failHome ((s.cutOwners src dst).dropAnswers src dst (held (s.getFlow src dst 1)))
  let s2 := ops.foldl (fun t o => t.failOne wire dst o) s1
  { s2 with flows := s2.flows.map fun f => if f.1.1 = src ∧ f.1.2.1 = dst then (f.1, clear f.2) else f }

/-- A package holds an operation for a destination. -/
def holdsFor (s : State) (src dst : Nat) : Bool :=
  ((s.flowsTo src dst).any fun f => !f.sent.isEmpty || !f.waiting.isEmpty || !f.doomed.isEmpty) ||
    s.ops.any fun o => opEnds o.2 == some (src, dst) && !Op.gone o.2

end State

/-! ### The events -/

/-- LINK_OPERATION_ARRIVE (R301, R302): one of the copies on the way arrives, at its destination or at a package that sends it on. -/
def execLinkOperationArrive (src dst lane : Nat) (s : State) : Out :=
  let f := s.getFlow src dst lane
  let i := s.draw % f.wire.length
  match f.wire[i]? with
  | none => .next s
  | some c => if c.at' = dst then s.arrive' src dst lane f c i else .next (s.hop src dst lane f c i)

/-- DESTINATION_UNREACHABLE (R303): no valid route remains, or an operation has stayed unacknowledged too long. -/
def execDestinationUnreachable (src dst : Nat) (s : State) : Out :=
  .next (if src = dst then s
    else if s.isCut src dst then s.failAll src dst
    else if (s.routePort src dst).isNone || s.holdsFor src dst then { s.failAll src dst with cut := (src, dst) :: s.cut }
    else s)

/-- LINK_REPLAY (R300): a flit is replayed; the 16th replay of one flit on end takes the port down. -/
def execLinkReplay (pkg port : Nat) (s : State) : Out :=
  let p := s.getPort pkg port
  let t := s.setPort pkg port { p with replay := min (p.replay + 1) 65535, again := p.again + 1 }
  .next (if p.st ≠ 2 then s else if 16 ≤ p.again + 1 then t.portFails pkg port else t)

/-- PORT_DOWN (R300): a port that is not down goes down when it has had traffic pending for too long and nothing was acknowledged (how
long is not modelled, log 7). -/
def execPortDown (pkg port : Nat) (s : State) : Out :=
  let p := s.getPort pkg port
  .next (if p.st ≠ 3 ∧ port < 16 ∧ s.portPending pkg port then s.portFails pkg port else s)

/-- PORT_RETRAIN (R300, R246): firmware of the die that owns the port has it trained; until that die's STATE is RUN the write is ignored
(R307). -/
def execPortRetrain (pkg port : Nat) (s : State) : Out :=
  .next (if port < 16 && s.dieRuns ⟨pkg, port⟩ then s.retrain pkg port else s)

/-- PORT_UP (R300, R302): training has ended, with 8 lanes or 4. -/
def execPortUp (pkg port : Nat) (s : State) : Out :=
  let p := s.getPort pkg port
  .next (if p.st = 1 then
      s.setPort pkg port { p with st := 2, lanes := if s.draw % 2 = 0 then 8 else 4, peer := Config.peer pkg port % 64 }
    else s)

end Sys2Proof.Machine
end

