-- ==== Sys2Proof/Machine/Power.lean ====
section
/-!
DEFINITION. Voltage and frequency islands and the module power limiter (R314, R315).
-/
namespace Sys2Proof.Machine

namespace State

/-- The level an island runs at: the largest of its request, its FLOOR and, for a quadrant, the limiter's ceiling (R314). -/
def islandLevel (s : State) (d : DieId) (n : Nat) : Nat :=
  let v := s.island d n
  max (max v.1 v.2.1) (if n < 6 then (s.getPkg d.pkg).ceiling else 0)

/-- ISL.LIM as it reads. -/
def islRead (s : State) (d : DieId) (n : Nat) : Word :=
  let v := s.island d n
  BitVec.ofNat 64 (s.islandLevel d n * 256 + (if v.2.2 then 128 else 0) + v.2.1)

/-- A write of ISL.LIM: FLOOR and GATE. -/
def writeIsland (s : State) (d : DieId) (n : Nat) (v : Word) : State :=
  s.setIsland d n ((s.island d n).1, fld v 0 3, wbit v 7)

/-- A window of the limiter ends with an average power (R315). -/
def windowEnds (s : State) (pkg watts : Nat) : State :=
  let p := s.getPkg pkg
  if p.limit < watts then s.updPkg pkg fun x => { x with ceiling := min 7 (x.ceiling + 1) }
  else if 16 * watts < 15 * p.limit then s.updPkg pkg fun x => { x with ceiling := x.ceiling - 1 }
  else s

/-- A write of MOD.PLIM: above 3,600 W it stores 3,600 (R315). -/
def writeLimit (s : State) (pkg : Nat) (v : Word) : State := s.updPkg pkg fun x => { x with limit := min 3600 (fld v 0 16) }

end State

/-! ### The events -/

/-- POWER_WINDOW (R315). -/
def execPowerWindow (pkg watts : Nat) (s : State) : Out := .next (s.windowEnds pkg watts)

/-- POWER_SURGE (R315): power passes 1.25 times LIMIT within a window. -/
def execPowerSurge (pkg watts : Nat) (s : State) : Out :=
  .next (if 5 * (s.getPkg pkg).limit < 4 * watts then s.updPkg pkg fun x => { x with ceiling := 7 } else s)

/-- ISLAND_LEVEL_CHANGE (R314). -/
def execIslandLevelChange (d : DieId) (n level : Nat) (s : State) : Out := .next (s.requestLevel d n level)

end Sys2Proof.Machine
end

