-- ==== Sys2Proof/Machine/Boot.lean ====
section
/-!
DEFINITION. Boot, identity and attestation (R306 to R312).
-/
namespace Sys2Proof.Machine

namespace State

/-! ### The boot flash (R306) -/

/-- A byte of a package's boot flash: what was written, or what it held at power-on. -/
def flashAt (s : State) (pkg off : Nat) : Byte := (lookup off (s.getPkg pkg).flash).getD (Config.flashByte pkg off)

/-- Bytes of the flash. -/
def flashBytes (s : State) (pkg off n : Nat) : List Byte := (List.range n).map fun i => s.flashAt pkg (off + i)

/-- The offset of a slot: 0 A, 1 B. -/
def slotAt (slot : Nat) : Nat := slot * 2 ^ 23

/-- The slot to try first, which the selector byte names. -/
def firstSlot (s : State) (pkg : Nat) : Nat := (s.flashAt pkg (2 ^ 24 - 1)).toNat % 2

/-- The fused minimum FSVN of a die, raised or not (R308). -/
def fsvn (s : State) (d : DieId) : Nat := (s.getDie d).fsvnRaised.getD (Config.fusedSvn d % 256)

/-- The 64-byte digest D of a slot (R306). -/
def imageD (s : State) (pkg slot : Nat) : List Byte :=
  let len := bytesToNat (s.flashBytes pkg (slotAt slot + 8) 4)
  shake256 64 (s.flashBytes pkg (slotAt slot) 16 ++ s.flashBytes pkg (slotAt slot + 256) len)

/-- The FAIL code of a slot: the first check of R306 that fails; 0 when it passes. -/
def slotFail (s : State) (d : DieId) (slot : Nat) : Nat :=
  let rd := fun off n => s.flashBytes d.pkg (slotAt slot + off) n
  let num := fun off n => bytesToNat (rd off n)
  if Config.flashError d slot s.tick then 6
  else if num 0 4 ≠ 0x4F424B58 ∨ num 5 3 ≠ 0 ∨ num 12 4 ≠ 0 ∨ num 73 7 ≠ 0 ∨ num 194 62 ≠ 0 then 1
  else if num 8 4 = 0 ∨ 524032 < num 8 4 then 5
  else if shake256 32 (rd 16 57) ≠ fusedDigest d then 2
  else if !Config.ed448Verify (rd 16 57) (s.imageD d.pkg slot) (rd 80 114) then 3
  else if num 4 1 < s.fsvn d then 4
  else 0

/-- A die starts an image: its body is copied into the firmware SRAM, and STATE is RUN with its SVN, slot and digest (R306, R308). -/
def startImage (s : State) (d : DieId) (slot : Nat) : State :=
  s.updDie d fun v => { v with
    bootState := 3, bootFail := 0, bootSlot := slot, bootSvn := (s.flashAt d.pkg (slotAt slot + 4)).toNat
    imageDigest := (s.imageD d.pkg slot).take 32
    sram := s.flashBytes d.pkg (slotAt slot + 256) (bytesToNat (s.flashBytes d.pkg (slotAt slot + 8) 4)) }

/-- The verifying of a die's image: the first slot, then the other. -/
def verifyImage (s : State) (d : DieId) : State :=
  let a := s.firstSlot d.pkg
  if s.slotFail d a = 0 then s.startImage d a
  else
    let f := s.slotFail d (1 - a)
    if f = 0 then s.startImage d (1 - a) else s.updDie d fun v => { v with bootState := 4, bootFail := f }

/-- A die's boot ROM starts at READ (R308). -/
def startRom (s : State) (d : DieId) : State :=
  s.updDie d fun v => { v with bootState := 1, bootFail := 0, bootSvn := 0, bootSlot := 0 }

/-- The dies of a package. -/
def diesOf (pkg : Nat) : List DieId := (List.range 16).map fun i => ⟨pkg, i⟩

/-- The address of LEASE: the first word of the page of the package's HBM that firmware chose at boot (R263, log 13); BEAT follows it. -/
def leaseAt (pkg : Nat) : Nat := pkg * pkgSpan + Config.leasePage pkg % 2 ^ 28 * 4096

/-- Firmware writes a byte of the boot flash: of the slot that the selector does not name, or the selector itself, so that it names that
slot (R318). -/
def writeFlash (s : State) (pkg off : Nat) (b : Byte) : State :=
  let other := 1 - s.firstSlot pkg
  let inSlot := slotAt other ≤ off ∧ off < slotAt other + 2 ^ 23 ∧ off ≠ 2 ^ 24 - 1
  let named := off = 2 ^ 24 - 1 ∧ b.toNat = other
  if (inSlot ∨ named) ∧ (diesOf pkg).any s.dieRuns then s.updPkg pkg fun p => { p with flash := store off b p.flash } else s

/-- Power-on starts every die's boot ROM, the lease stands at die 0, term 1 (R263), and the HDM decoder maps what firmware leaves to the
host (R291). -/
def powerUp (s : State) (pkg : Nat) : State :=
  let s1 := ((diesOf pkg).foldl startRom s).updPkg pkg fun p => { p with
    hdmBase := Config.hdmBase pkg, hdmSize := min (Config.hdmBlocks pkg) 4096 * 2 ^ 28 }
  ({ s1 with mem := (s1.mem.setWord (leaseAt pkg) 0x10).setWord (leaseAt pkg + 8) 0 }).push (.powerOn pkg)

/-- One of the dies whose ROM is at work goes on: READ, VERIFY, and then RUN or FAILED. -/
def romStep (s : State) (pkg : Nat) : State :=
  let busy := (diesOf pkg).filter fun d => (s.getDie d).bootState = 1 ∨ (s.getDie d).bootState = 2
  match busy[s.draw % busy.length]? with
  | none => s
  | some d =>
    (if (s.getDie d).bootState = 1 then s.updDie d fun v => { v with bootState := 2 } else s.verifyImage d).push (.powerOn pkg)

/-! ### Attestation (R310 to R312) -/

/-- The key store signs a message, if it finds no error in its own state (R312). -/
def keySign (s : State) (pkg : Nat) (msg : List Byte) : Option (List Byte) :=
  if Config.keyStoreFails s.tick then none else some (ed448Sign pkg msg)

/-- The key store has refused to sign (R321). -/
def logRefusal (s : State) (pkg : Nat) : State := s.logDie ⟨pkg, 0⟩ false 55 0 0 0 0

/-- The report for a nonce, before its signature (R311). Which partition's launch log of the leader's die it holds is a free
choice (log 12). -/
def report (s : State) (pkg nonce : Nat) (leader : DieId) : List Byte :=
  let dies := diesOf pkg
  let fwd := shake256 32 (dies.flatMap fun d => if s.dieRuns d then exactly 32 (s.getDie d).imageDigest else List.replicate 32 0)
  let runs := dies.foldl (fun n d => if s.dieRuns d then n + 2 ^ d.die else n) 0
  let part := Config.unstated 46 s.tick 0 % 256
  let log := (s.getDie leader).launchLog.filter fun e => e.1 == part
  let map := Config.partitionMap ((List.range 2304).map fun n => (s.getCell ⟨pkg, n / 144, n % 144⟩).ctx.part)
  let policy := dies.flatMap fun d => natToBytes 8 ((lookup 0x1008 (s.getDie d).regs).getD 0x1000014B00000000).toNat
  let lims := dies.flatMap fun d => (List.range 8).flatMap fun n =>
    natToBytes 8 (s.islRead d n).toNat
  natToBytes 32 nonce ++ fwd ++ natToBytes 2 runs ++ natToBytes 2 log.length ++ shake256 32 (map ++ policy ++ lims) ++
    log.flatMap fun e => natToBytes 4 e.2.1 ++ exactly 32 e.2.2

end State

/-! ### The events -/

/-- POWER_ON (R306, R308): every boot ROM of the package starts; each then goes on in its own time. -/
def execPowerOn (pkg : Nat) (s : State) : Out :=
  .next (if (State.diesOf pkg).all fun d => (s.getDie d).bootState = 0 then s.powerUp pkg else s.romStep pkg)

/-- KEY_STORE_SIGN (R312): the firmware core of a die in RUN has a message of 1 to 16,384 bytes signed. -/
def execKeyStoreSign (d : DieId) (len msg : Nat) (s : State) : Out :=
  .next (if !s.dieRuns d || len = 0 || 16384 < len then s
    else match s.keySign d.pkg (natToBytes len msg) with
      | some sig => s.emit (.signature d (some sig))
      | none => (s.logRefusal d.pkg).emit (.signature d none))

/-- ATTESTATION_REQUEST (R311): the leader forms the report, and the key store signs it. -/
def execAttestationRequest (pkg nonce : Nat) (s : State) : Out :=
  let leader := (State.diesOf pkg).find? fun d => s.dieRuns d && (s.getDie d).leader == d.die
  .next (match leader with
    | none => s
    | some d =>
      let r := s.report pkg nonce d
      match s.keySign pkg r with
      | some sig => s.emit (.report pkg (some (r ++ sig)))
      | none => (s.logRefusal pkg).emit (.report pkg none))

end Sys2Proof.Machine
end

