-- ==== Sys2Proof/Machine/Errors.lean ====
section
/-!
DEFINITION. Correctable and uncorrectable errors of arrays, armed injections, and the die's error log (R93, R316, R317). What stands at a word of an array
is the implementation's (log 14).
-/
namespace Sys2Proof.Machine

namespace State

/-- Whether an array is a die's (R316). -/
def dieArray (a : Nat) : Bool := decide (16 ≤ a ∧ a ≤ 24) || a == 32

/-- The hart that an error of a cell's array concerns: that of a register bank is the bank's, and no other array is a hart's (R316). -/
def errorHart (array addr : Nat) : Nat := if array = 4 then Config.arrayObject array addr % 24 else 0

/-- An error of an array is logged: a cell's in the cell's log, a die's in the die's log (R316). -/
def logArray (s : State) (c : CellId) (ue : Bool) (array addr synd : Nat) : State :=
  if cellArray array then s.logCell c ue array addr synd (s.getCell c).ctx.part (errorHart array addr)
  else if dieArray array then s.logDie c.dieId ue array addr synd 0 0
  else s

/-- A word of an L1: VALID, it is dropped; OWNED, its home enters LOST. -/
def strikeL1 (s : State) (c : CellId) (n : Nat) : State :=
  let l := (s.getCell c).l1
  match l[n % l.length]? with
  | none => s
  | some (w, e) => if e.owned then (s.loseWord w (s.homeOf kTracked w)).l1Drop c w else s.l1Drop c w

/-- A word of the unified array: a scratch block of the share becomes POISON, any other word is the L1's. -/
def strikeUnified (s : State) (c : CellId) (n : Nat) : State :=
  let x := (s.getCell c).ctx
  if n % 80 < x.spad then s.changeTile c x.part (n % 80) (Tile.poisoned s.tick) else s.strikeL1 c (n / 80)

/-- A word of the instruction store holds an error that is found when it issues (R275). One that had been fetched ahead on a path that
never issues is found at once: it is logged, and nothing else follows (R289; which of the two it is, is a free value, log 12). -/
def strikeInsn (s : State) (c : CellId) (n addr synd : Nat) : State :=
  let l := (s.getCell c).istore
  match l[n % l.length]? with
  | none => s
  | some (qa, _) =>
    if Config.unstated 64 s.tick addr % 2 = 1 then
      (s.updCell c fun v => { v with istore := v.istore.filter fun e => e.1 != qa }).logCell c true 1 addr synd (s.getCell c).ctx.part 0
    else s.updCell c fun v => { v with istoreBad := (qa, addr, synd) :: v.istoreBad }

/-- A pre-empted context whose bank still holds its registers is treated as halted while its slot runs a service context (R278, R280). -/
def strikePreempted (s : State) (h : HartId) (g : Hart) : State :=
  let live := s.getHart h
  let s1 := (s.setHart h g).treatHalted h
  (s1.updCell h.cellId fun v => { v with preempted := store h.hart (s1.getHart h) v.preempted }).setHart h live

/-- The context of a register bank is treated as halted (R280): the one in a slot, or the one that it pre-empts. -/
def strikeBank (s : State) (h : HartId) (pre : Bool) : State :=
  let below := lookup h.hart (s.getCell h.cellId).preempted
  match if pre then below else none with
  | some g => if g.status = .running ∧ !g.evicted then s.strikePreempted h g else s
  | none =>
    if (s.getHart h).status ≠ .running then s
    else if (s.getHart h).service then { ({ s with cur := h } : State).endService with cur := s.cur }
    else s.treatHalted h

/-- A word of a die's stack. -/
def stackWord (d : DieId) (n : Nat) : Nat := d.pkg * pkgSpan + d.die * 2 ^ 36 + n % 2 ^ 33 * 8

/-- The waiting blocks of a die. -/
def waitingBlocks (s : State) (d : DieId) : List (Nat × Block) := s.blocks.filter fun b => decide (stackDie b.1 = d) && !b.2.list.isEmpty

/-- A block of the die with waiting readers: every entry of its list is released with poison, of whichever generation. -/
def strikeSillage (s : State) (d : DieId) (n : Nat) : State :=
  match (s.waitingBlocks d)[n % (s.waitingBlocks d).length]? with
  | none => s
  | some (blk, b) => b.list.foldl (fun t e => (t.uncount d e).sendAnswer e.op .poison) (s.setBlock blk { b with list := [] })

/-- A page is mapped BLOCK by some partition of its package. -/
def blockPage (s : State) (page : Nat) : Bool := s.mappedAs kBlock page

/-- A word of HBM: a block becomes POISON at its generation, and readers that wait for it get poison; a word of word space faults when it is read. -/
def strikeHbm (s : State) (w : Nat) : State :=
  if s.blockPage (w / 4096) then
    let blk := w / 4096 * 4096
    let s1 := s.releaseList blk .poison
    s1.setBlock blk { s1.getBlock blk with full := false, poison := true }
  else { s with badWords := w :: s.badWords }

/-- The effect of an uncorrectable error (R317). -/
def strike (s : State) (c : CellId) (array addr synd : Nat) : State :=
  let n := Config.arrayObject array addr
  let d := c.dieId
  let part := (s.getCell c).ctx.part
  match array with
  | 0 => s.strikeUnified c n
  | 1 => s.strikeInsn c n addr synd
  | 2 => s.setRing c part (addr / 32 % 64) ⟨0, 0, 0, []⟩
  | 3 => s.setAcc c (n % 16) (s.getAcc c (n % 16)).invalidate
  | 4 => s.strikeBank (c.hart (n % 24)) (n / 24 % 2 == 1)
  | 16 => s.strikeWord (stackWord d n)
  | 17 => s.strikeWord (stackWord d n)
  | 18 => s.strikeSillage d n
  | 32 => s.strikeHbm (stackWord d n)
  | _ => s

/-! ### Armed injections (R93, R317) -/

/-- The entry of a list that an array's word belongs to is new or has changed. -/
def entryWritten {α : Type} [DecidableEq α] (old new : List (Nat × α)) (n : Nat) : Bool :=
  match new[n % new.length]? with
  | some (k, v) => decide (lookup k old ≠ some v)
  | none => false

/-- What State holds of the arrays whose words have no place of their own: berth, synchronisation state, record cache, commit buffer, presence
cache, range-lock table, TLB and miss table, firmware SRAM, solver sequencer and task scheduler (R316). -/
def arrayChanged (s t : State) (c : CellId) (array : Nat) : Bool :=
  let x := (s.getCell c).ctx
  let y := (t.getCell c).ctx
  let d := s.getDie c.dieId
  let e := t.getDie c.dieId
  match array with
  | 5 => decide ((s.getCell c).berth ≠ (t.getCell c).berth)
  | 6 => decide (x.sems ≠ y.sems) || decide (x.mutexes ≠ y.mutexes) || decide (x.queues ≠ y.queues)
  | 7 => decide ((x.chans.map fun p => (p.1, p.2.cache, p.2.cur)) ≠ y.chans.map fun p => (p.1, p.2.cache, p.2.cur))
  | 8 => decide (x.commit ≠ y.commit)
  | 19 => decide ((s.blocks.filter fun b => decide (stackDie b.1 = c.dieId)) ≠ t.blocks.filter fun b => decide (stackDie b.1 = c.dieId))
  | 20 => decide ((s.locks.filter fun l => decide (l.die = c.dieId)) ≠ t.locks.filter fun l => decide (l.die = c.dieId))
  | 21 => decide (d.tlb ≠ e.tlb) || decide (d.misses ≠ e.misses)
  | 22 => decide (d.sram ≠ e.sram)
  | 23 => decide (d.tables ≠ e.tables) || decide (d.sets ≠ e.sets) || decide (d.decisions ≠ e.decisions)
  | 24 => decide (d.tasks ≠ e.tasks)
  | _ => false

/-- The place of a word that belongs to a list of an array, by the list as the step left it. -/
def arrayKey (t : State) (c : CellId) (array n : Nat) : Nat :=
  match array with
  | 0 => (((t.getCell c).l1[n / 80 % (t.getCell c).l1.length]?).map fun e => e.1).getD 0
  | 1 => (((t.getCell c).istore[n % (t.getCell c).istore.length]?).map fun e => e.1).getD 0
  | _ => 0

/-- The word of an array, where State holds it as one: of a scratch block or the L1, the instruction store, a message channel, an accumulator, a
register bank, the flags, or memory. `key` is the place of a word of the L1 or the instruction store. -/
def arrayRead (s : State) (c : CellId) (array addr key : Nat) : Nat :=
  let n := Config.arrayObject array addr
  let k := Config.unstated 67 array addr
  let x := (s.getCell c).ctx
  match array with
  | 0 => if n % 80 < x.spad then bitsOf (s.tileFor c x.part (n % 80)).data.toNat (64 * (k % 512)) 64
    else ((s.l1Get c key).map fun e => e.data.toNat).getD 0
  | 1 => (lookup key (s.getCell c).istore).getD 0
  | 2 => ((lookup (addr % 32) (s.getRing c x.part (addr / 32 % 64)).ring).map fun w => w.toNat).getD 0
  | 3 => rnWord ((s.getAcc c (n % 16)).values.getD (k % 1024) (0, 0, 0))
  | 4 => (((s.getHart (c.hart (n % 24))).x[k % 32]?).map fun w => w.toNat).getD 0
  | 6 => if n % 32 < 16 then bitsOf x.flags.toNat (64 * (n % 32)) 64 else 0
  | 16 => (s.mem.word (stackWord c.dieId n)).toNat
  | 32 => (s.mem.word (stackWord c.dieId n)).toNat
  | _ => 0

/-- The state with that word inverted (of an accumulator: changed). A reservation that no hart holds stands on a word of memory, which a store to
it takes (R59). -/
def arrayFlip (s : State) (c : CellId) (array addr key : Nat) : State :=
  let n := Config.arrayObject array addr
  let k := Config.unstated 67 array addr
  let x := (s.getCell c).ctx
  let ones := fun lo : Nat => (2 ^ 64 - 1) * 2 ^ lo
  match array with
  | 0 => if n % 80 < x.spad then
      let b := s.tileFor c x.part (n % 80)
      s.setTile c (n % 80) { b with data := b.data ^^^ BitVec.ofNat 32768 (ones (64 * (k % 512))) }
    else s.updCell c fun v => { v with l1 := v.l1.map fun e => if e.1 = key then (e.1, { e.2 with data := ~~~e.2.data }) else e }
  | 1 => s.updCell c fun v => { v with istore := v.istore.map fun e => if e.1 = key then (e.1, 2 ^ 32 - 1 - e.2) else e }
  | 2 =>
    let r := s.getRing c x.part (addr / 32 % 64)
    s.setRing c x.part (addr / 32 % 64) { r with ring := store (addr % 32) (~~~((lookup (addr % 32) r.ring).getD 0)) r.ring }
  | 3 =>
    let a := s.getAcc c (n % 16)
    let v := a.values.getD (k % 1024) (0, 0, 0)
    s.setAcc c (n % 16) { a with vals := a.values.set (k % 1024) ((v.1 + 1) % 1023, v.2.1, v.2.2) }
  | 4 => s.updHart (c.hart (n % 24)) fun v => { v with x := v.x.setIfInBounds (k % 32) (~~~((v.x[k % 32]?).getD 0)) }
  | 6 => if n % 32 < 16 then s.updCtx c fun y => { y with flags := y.flags ^^^ BitVec.ofNat 1024 (ones (64 * (n % 32))) } else s
  | 16 => { s with mem := s.mem.setWord (stackWord c.dieId n) (~~~(s.mem.word (stackWord c.dieId n)))
                   resvs := (⟨64, 0, 0, 0⟩, stackWord c.dieId n, true) :: s.resvs }
  | 32 => { s with mem := s.mem.setWord (stackWord c.dieId n) (~~~(s.mem.word (stackWord c.dieId n)))
                   resvs := (⟨64, 0, 0, 0⟩, stackWord c.dieId n, true) :: s.resvs }
  | _ => s

/-- The step, taken from the state with the word inverted, does not leave it inverted, or has taken the reservation on it: it writes the word, be
it with the value that the word held. -/
def writesSame (again : State → State) (s t : State) (c : CellId) (array addr : Nat) : Bool :=
  let key := t.arrayKey c array (Config.arrayObject array addr)
  let u := s.arrayFlip c array addr key
  let v := again u
  decide (v.arrayRead c array addr key ≠ u.arrayRead c array addr key) ||
    ((array == 16 || array == 32) && decide (v.homes = u.homes) &&
      !v.resvs.contains (⟨64, 0, 0, 0⟩, stackWord c.dieId (Config.arrayObject array addr), true))

/-- A step from `s` to `t` wrote the word of an array: it has changed, or the step, which `again` takes from another state, writes its value anew.
The word is the one at its place in the object of Config.arrayObject; which word of a larger object it is, and whether what changed in an array
whose words State does not hold one by one is that word, are free values (DESIGN CHOICE, log 14). -/
def wordWritten (again : State → State) (s t : State) (c : CellId) (array addr : Nat) : Bool :=
  let n := Config.arrayObject array addr
  let key := t.arrayKey c array n
  decide (s.arrayRead c array addr key ≠ t.arrayRead c array addr key) || writesSame again s t c array addr ||
  match array with
  | 0 => decide ((t.getCell c).ctx.spad ≤ n % 80) && entryWritten (s.getCell c).l1 (t.getCell c).l1 (n / 80)
  | 1 => entryWritten (s.getCell c).istore (t.getCell c).istore n
  | 17 => decide (lookup (stackWord c.dieId n) s.words ≠ lookup (stackWord c.dieId n) t.words)
  | 18 => entryWritten (s.waitingBlocks c.dieId) (t.waitingBlocks c.dieId) n
  | _ => arrayChanged s t c array && Config.unstated 68 array t.tick % 2 == 1

/-- An armed injection fires: SECDED will detect an error of one bit or of two in its word, with the code's syndrome (R93; the syndrome is of a
code that no rule states, log 12). One bit named twice counts as two bits (DESIGN CHOICE, log 14). -/
def firing (s : State) (c : CellId) (i : Nat × Nat × Nat) : Event :=
  let synd := Config.unstated 63 i.2.2 s.tick % 256
  if bitsOf i.2.2 15 1 = 1 then .uncorrectableError c i.1 i.2.1 synd else .correctableError c i.1 i.2.1 synd

/-- A cell's injection, still armed as it was in `s`, fires once: at the write of its word. -/
def fireCell (again : State → State) (s t : State) (c : CellId) (i : Nat × Nat × Nat) : State :=
  if (t.getCell c).einj = some i ∧ wordWritten again s t c i.1 i.2.1 = true then (t.updCell c fun v => { v with einj := none }).push (t.firing c i) else t

/-- The same of a die's injection. -/
def fireDie (again : State → State) (s t : State) (d : DieId) (i : Nat × Nat × Nat) : State :=
  if (t.getDie d).einj = some i ∧ wordWritten again s t ⟨d.pkg, d.die, 0⟩ i.1 i.2.1 = true then
    (t.updDie d fun v => { v with einj := none }).push (t.firing ⟨d.pkg, d.die, 0⟩ i)
  else t

/-- The injections that a step from `s` to `t` has fired: those armed before it whose words it wrote (R93, R317). `again` takes the step from
another state. -/
def fired (again : State → State) (s t : State) : State :=
  let cells := s.cells.filterMap fun p => p.2.einj.map fun i => (p.1, i)
  let dies := s.dies.filterMap fun p => p.2.einj.map fun i => (p.1, i)
  dies.foldl (fun u p => fireDie again s u p.1 p.2) (cells.foldl (fun u p => fireCell again s u p.1 p.2) t)

end State

/-! ### The events -/

/-- CORRECTABLE_ERROR (R317): corrected, written back in place, and logged with UE 0. -/
def execCorrectableError (c : CellId) (array addr synd : Nat) (s : State) : Out :=
  .next (s.logArray c false array addr synd)

/-- UNCORRECTABLE_ERROR (R317): logged with UE 1, and its effect; one of the instruction store is logged when it is found. -/
def execUncorrectableError (c : CellId) (array addr synd : Nat) (s : State) : Out :=
  .next ((if array = 1 then s else s.logArray c true array addr synd).strike c array addr synd)

/-- DIE_ELOG_READ (R316): a read of DIE.ELOG removes the oldest unread entry; 0 when there is none. Until the die's STATE is RUN it
returns all ones, as every register but the identity block does (R307). -/
def execDieElogRead (d : DieId) (s : State) : Out :=
  .next (if !s.dieRuns d then s.emit (.logRead d (BitVec.allOnes 64))
    else match (s.getDie d).elog with
    | [] => s.emit (.logRead d 0)
    | e :: rest => (s.updDie d fun v => { v with elog := rest }).emit (.logRead d e))

/-- DIE_EINJ (R317): the die's firmware core arms one injection. -/
def execDieEinj (d : DieId) (agent value : Nat) (s : State) : Out :=
  .next (if agent = d.die ∧ s.dieRuns d then
      s.updDie d fun v => { v with
        einj := State.injection State.dieArray (BitVec.ofNat 64 (bitsOf value 0 32)) (BitVec.ofNat 64 (bitsOf value 32 16)) v.einj }
    else s)

end Sys2Proof.Machine
end

