-- ==== Sys2Proof/Machine/Firmware.lean ====
section
/-!
DEFINITION. The register space of a die (R246), and the firmware complex: the lease, reboots, the hang monitor and the chain ferry
(R263 to R267).
-/
namespace Sys2Proof.Machine

namespace State

/-! ### Writers (R246) -/

/-- The die's own firmware core. -/
def own (d : DieId) (agent : Nat) : Bool := agent == d.die

/-- The host or any firmware core of the package. -/
def hostOrAny (agent : Nat) : Bool := decide (agent ≤ 16)

/-- The leader's die or the host (R264). Which die leads is read from what this die itself last saw in LEASE, which a newer claim may have outdated
(DESIGN CHOICE, log 35: the manual does not say by what a die knows the leader). -/
def hostOrLeader (s : State) (d : DieId) (agent : Nat) : Bool := agent == host || agent == (s.getDie d).leader

/-! ### Registers written as a whole -/

/-- A register that holds what is written, at an offset. -/
def setReg (s : State) (d : DieId) (off : Nat) (v : Word) : State := s.updDie d fun x => { x with regs := store off v x.regs }

/-- The register at an offset. -/
def getReg (s : State) (d : DieId) (off : Nat) (reset : Word) : Word := (lookup off (s.getDie d).regs).getD reset

/-- Bits [hi : lo] of a word, in place. -/
def keep (lo len : Nat) (v : Word) : Word := BitVec.ofNat 64 (fld v lo len * 2 ^ lo)

/-- A root register as a write stores it: the table's page and V; the bits between and above read as zero (R5, R268, R298). -/
def keepRoot (v : Word) : Word := keep 12 40 v ||| keep 0 1 v

/-- A word of a queue-table entry as it reads: the reserved bits of the last word read as zero (R5). That a write which set one is still
kept from being in force (R247) is how the model takes the two rules together (DESIGN CHOICE, log 35). -/
def queueShow (i : Nat) (v : Word) : Word := if i = 3 then keep 0 33 v else v

/-- FE.POLICY as a write stores it (R265). -/
def policyOf (old v : Word) : Word :=
  let pct := fld v 32 8
  BitVec.ofNat 64 (max 1 (fld v 48 16) * 2 ^ 48 + fld v 40 1 * 2 ^ 40 + (if 51 ≤ pct ∧ pct ≤ 100 then pct else fld old 32 8) * 2 ^ 32)

/-- FE.DECODE as a write stores it: a CELL above 143 clears its V bit (R260). -/
def decodeOf (v : Word) : Word :=
  let ok := fun lo bit => if fld v lo 8 < 144 then fld v bit 1 else 0
  BitVec.ofNat 64 (ok 8 17 * 2 ^ 17 + ok 0 16 * 2 ^ 16 + fld v 0 16)

/-- A write of the queue table: an entry that comes into force starts with its counts at 0; what is in progress goes on, and counts
no longer towards the head (R247, R248). A reserved bit that is written as 1 reads as 0 (R5) and puts the entry out of force (R247) until
its word is written again: DESIGN CHOICE, log 35. -/
def writeQueueTable (s : State) (d : DieId) (q i : Nat) (v : Word) : State :=
  let old := (lookup q (s.getDie d).queueTable).getD [0, 0, 0, 0]
  let new := old.set i v
  let s1 := s.updDie d fun x => { x with queueTable := store q new x.queueTable }
  if (qEntryOf old).isNone ∧ (qEntryOf new).isSome then
    let fe := s.getFe d q
    s1.setFe d q { FeQueue.reset with
      running := fe.running.map fun p => (p.1, { p.2 with idx := p.2.idx + 2 ^ 64 }), graph := fe.graph }
  else s1

/-- A write of a coalescing ring: THR and VECTOR, or DL (R246, R262). -/
def writeRing (s : State) (d : DieId) (r : Nat) (second : Bool) (v : Word) : State :=
  if second then s.writeDl d r (fld v 0 32)
  else s.setFeRing d r { s.feRing d r with thr := max 1 (fld v 32 16), vector := fld v 0 16 }

/-- A write of a routing entry; one with a valid route revalidates the destination (R302, R303). -/
def writeRoute (s : State) (d : DieId) (q : Nat) (v : Word) : State :=
  let s1 := s.updDie d fun x => { x with route := store q (keep 0 20 v) x.route }
  if d.die = 0 ∧ fld v 16 4 ≠ 0 then { s1 with cut := s1.cut.filter fun p => p != (d.pkg, q) } else s1

/-! ### FE.CTL (R264) -/

/-- The die's firmware core is reset, and its ROM starts at READ (R264, R308). -/
def reboot (s : State) (d : DieId) : State := (s.startRom d).pushOnce (.powerOn d.pkg)

/-- The restarted core takes the queues back from the ferry (R267). -/
def takeBack (s : State) (d : DieId) : State := s.updDie d fun x => { x with ferry := false }

/-- A write of FE.CTL by an agent that may: HANGSET is cleared by ones. -/
def writeFeCtl (s : State) (d : DieId) (agent : Nat) (v : Word) : State :=
  let s1 := s.updDie d fun x => { x with hangset := x.hangset &&& ~~~(BitVec.ofNat 16 (fld v 16 16)) }
  let s2 := if wbit v 0 then s1.takeBack d else s1
  if wbit v 1 && s2.hostOrLeader d agent then s2.reboot d else s2

/-- FE.CTL as it reads. -/
def feCtlRead (s : State) (d : DieId) : Word :=
  let x := s.getDie d
  BitVec.ofNat 64 ((if x.ferry then 2 ^ 39 else 0) + x.leader % 16 * 2 ^ 32 + x.hangset.toNat * 2 ^ 16)

/-! ### FE.IRQ, FUSE.SVN, port registers -/

/-- A write of FE.IRQ: interrupt 3 or 11 at a hart of the die. -/
def feIrqWrite (s : State) (d : DieId) (v : Word) : State :=
  if wbit v 63 && decide (fld v 5 8 < 144) && decide (fld v 0 5 < 24) then
    s.raiseMip ⟨d.pkg, d.die, fld v 5 8, fld v 0 5⟩ (if wbit v 13 then 11 else 3)
  else s

/-- A write of FUSE.SVN: FSVN rises to at most the running image's SVN. -/
def fuseWrite (s : State) (d : DieId) (v : Word) : State :=
  let n := fld v 0 8
  if wbit v 63 && decide (s.fsvn d < n) && decide (n ≤ (s.getDie d).bootSvn) then s.updDie d fun x => { x with fsvnRaised := some n } else s

/-- SL.PSTAT of the port that belongs to a die, as it reads (R302). -/
def pstatRead (s : State) (d : DieId) : Word :=
  let p := s.getPort d.pkg d.die
  BitVec.ofNat 64 (p.replay * 2 ^ 32 + p.peer % 64 * 2 ^ 10 + p.lanes % 16 * 2 ^ 4 + p.st % 8)

/-- A write of SL.PSTAT: REPLAY is cleared by ones. -/
def writePstat (s : State) (d : DieId) (v : Word) : State :=
  let p := s.getPort d.pkg d.die
  s.setPort d.pkg d.die { p with replay := (BitVec.ofNat 16 p.replay &&& ~~~(BitVec.ofNat 16 (fld v 32 16))).toNat }

/-! ### The map (R246) -/

/-- A write within a cell block. -/
def writeCellReg (s : State) (d : DieId) (agent c off : Nat) (v : Word) : State :=
  let id : CellId := ⟨d.pkg, d.die, c⟩
  if !(if off < 0x18 then own d agent else hostOrOwn d agent) then s
  else match off with
    | 0x00 => s.writeCtxCtl id v
    | 0x08 => s.updCell id fun x => { x with ctxPc := v }
    | 0x10 => s.updCell id fun x => { x with csave := keep 18 34 v }
    | 0x18 => s.writeDbgCtl id v
    | 0x20 => s.writeDbgCmd id v
    | 0x28 => s.updCell id fun x => { x with dbgData := v }
    | _ => s

/-- A write of a register with an address of its own. -/
def writeFixed (s : State) (d : DieId) (agent off : Nat) (v : Word) : State :=
  let f := fun t : State => if own d agent then t else s
  let hf := fun t : State => if hostOrOwn d agent then t else s
  match off with
  | 0x0088 => f (s.fuseWrite d v)
  | 0x1000 => if hostOrAny agent then s.writeFeCtl d agent v else s
  | 0x1008 => f (s.setReg d off (policyOf (s.getReg d off policyReset) v))
  | 0x1010 => f (s.setReg d off (decodeOf v))
  | 0x1018 => f (s.setReg d off (BitVec.ofNat 64 (max 1 (fld v 0 32))))
  | 0x1020 => hf (s.feIrqWrite d v)
  | 0x1028 => f (s.setReg d off (keep 0 16 v))
  | 0x1030 => f (s.setReg d off (keep 12 40 v))
  | 0x1038 => f (s.setReg d off (keep 12 52 v))
  | 0x1040 => f (s.setReg d off (keep 12 40 v))
  | 0x1048 => f (s.setReg d off (keep 12 40 v))
  | 0x1050 => f (s.setReg d off (keep 21 43 v))
  | 0x1058 => f (s.setReg d off (keep 21 43 v))
  | 0x5008 => f (s.updDie d fun x => { x with einj := injection dieArray (keep 0 32 v) (BitVec.ofNat 64 (fld v 32 16)) x.einj })
  | 0x5010 => hf (s.writeBias d v)
  | 0x5200 => hf (s.writePstat d v)
  | 0x5208 => f (if wbit v 0 then s.retrain d.pkg d.die else s)
  | 0x7000 => if d.die = 0 then hf (s.writeLimit d.pkg v) else s
  | _ => s

/-- An aligned 8-byte write of the register space by an agent (R246). -/
def writeReg (s : State) (d : DieId) (agent off : Nat) (v : Word) : State :=
  let f := fun t : State => if own d agent then t else s
  let i := fun lo : Nat => (off - lo) / 8
  if off % 8 ≠ 0 then s
  else if 0x2000 ≤ off ∧ off < 0x2800 then f (s.writeQueueTable d (i 0x2000 / 4) (i 0x2000 % 4) v)
  else if 0x3000 ≤ off ∧ off < 0x3400 then f (s.writeRing d (i 0x3000 / 2) (i 0x3000 % 2 == 1) v)
  else if 0x4000 ≤ off ∧ off < 0x4800 then f (s.updDie d fun x => { x with ptroot := store (i 0x4000) (keepRoot v) x.ptroot })
  else if 0x5100 ≤ off ∧ off < 0x5140 then f (s.writeIsland d (i 0x5100) v)
  else if 0x6000 ≤ off ∧ off < 0x6200 then f (s.writeRoute d (i 0x6000) v)
  else if 0x20000 ≤ off ∧ off < 0x40000 then f (s.updDie d fun x => { x with wroot := store (i 0x20000) (keepRoot v) x.wroot })
  else if 0x40000 ≤ off ∧ off < 0x52000 then s.writeCellReg d agent ((off - 0x40000) / 512) ((off - 0x40000) % 512) v
  else s.writeFixed d agent off v

/-- The identity block (R307, R308, R309), by word. -/
def readIdentity (s : State) (d : DieId) (off : Nat) : Option Word :=
  let x := s.getDie d
  let word := fun (l : List Byte) (i : Nat) => BitVec.ofNat 64 (bytesToNat ((l.drop (8 * i)).take 8))
  if off = 0 then some 0x1600
  else if off = 8 then some (BitVec.ofNat 64 d.die)
  else if 0x10 ≤ off ∧ off < 0x30 then some (word (fusedDigest d) ((off - 0x10) / 8))
  else if 0x40 ≤ off ∧ off < 0x80 then some (word (idPub d.pkg) ((off - 0x40) / 8))
  else if off = 0x80 then
    some (BitVec.ofNat 64 (x.bootFail % 256 * 2 ^ 48 + x.bootSvn % 256 * 2 ^ 40 + s.fsvn d % 256 * 2 ^ 32 + x.bootSlot % 2 * 8 + x.bootState))
  else none

/-- The reset values of the registers that hold what is written. -/
def regReset (off : Nat) : Word := if off = 0x1008 then policyReset else if off = 0x1018 then 65536 else 0

/-- What an aligned 8-byte read of the register space returns, but for DIE.ELOG, whose read is an event (R246, R307). -/
def readReg (s : State) (d : DieId) (off : Nat) : Word :=
  let x := s.getDie d
  let i := fun lo : Nat => (off - lo) / 8
  match s.readIdentity d off with
  | some w => w
  | none =>
    if !s.dieRuns d then BitVec.allOnes 64
    else if off = 0x1000 then s.feCtlRead d
    else if 0x1008 ≤ off ∧ off < 0x1060 ∧ off ≠ 0x1020 then s.getReg d off (regReset off)
    else if 0x2000 ≤ off ∧ off < 0x2800 then queueShow (i 0x2000 % 4) (((lookup (i 0x2000 / 4) x.queueTable).getD [0, 0, 0, 0]).getD (i 0x2000 % 4) 0)
    else if 0x3000 ≤ off ∧ off < 0x3400 then
      let r := s.feRing d (i 0x3000 / 2)
      if i 0x3000 % 2 = 0 then BitVec.ofNat 64 (r.thr * 2 ^ 32 + r.vector) else BitVec.ofNat 64 (r.count * 2 ^ 32 + r.dl)
    else if 0x4000 ≤ off ∧ off < 0x4800 then (lookup (i 0x4000) x.ptroot).getD 0
    else if off = 0x5010 then x.biasCmd
    else if 0x5100 ≤ off ∧ off < 0x5140 then s.islRead d (i 0x5100)
    else if off = 0x5200 then s.pstatRead d
    else if 0x6000 ≤ off ∧ off < 0x6200 then (lookup (i 0x6000) x.route).getD 0
    else if off = 0x7000 then (if d.die = 0 then BitVec.ofNat 64 (s.getPkg d.pkg).limit else 0)
    else if 0x20000 ≤ off ∧ off < 0x40000 then (lookup (i 0x20000) x.wroot).getD 0
    else if 0x40000 ≤ off ∧ off < 0x52000 then
      let id : CellId := ⟨d.pkg, d.die, (off - 0x40000) / 512⟩
      let c := s.getCell id
      match (off - 0x40000) % 512 with
      | 0x00 => s.ctxCtlRead id
      | 0x08 => c.ctxPc
      | 0x10 => c.csave
      | 0x18 => s.dbgRead id
      | 0x20 => c.dbgCmd
      | 0x28 => c.dbgData
      | _ => 0
    else 0

/-! ### The lease (R263) -/

/-- LEASE as a die sees it: DIE and TERM. -/
def leaseSeen (s : State) (d : DieId) : Nat × Nat :=
  let w := s.replicaWord d (leaseAt d.pkg)
  (fld w 0 4, fld w 4 32)

/-- A firmware core stores a word of the lease page, which its sequencing home orders. -/
def leaseStore (s : State) (d : DieId) (off : Nat) (v : Word) : State :=
  let w := leaseAt d.pkg + off
  s.storeBytes ((feCell d).hart 0) 0 0 ⟨w, 8, kReplicated, stackDie w, kReplicated⟩ (natToBytes 8 v.toNat)

/-- A die notes the LEASE it has read. -/
def noteLease (s : State) (d : DieId) (l : Nat × Nat) : State := s.updDie d fun x => { x with leader := l.1, leaseTerm := l.2 }

/-- The leader's beat: a TERM above its own makes it stop acting as leader first. -/
def beat (s : State) (d : DieId) : State :=
  let l := s.leaseSeen d
  if (s.getDie d).leaseTerm < l.2 then s.noteLease d l
  else s.leaseStore d 8 (s.replicaWord d (leaseAt d.pkg + 8) + 1)

/-- A follower's claim by an LR and SC pair at the sequencing home: it succeeds when LEASE is still as the follower last saw it, and
otherwise the follower reads the new LEASE. -/
def claim (s : State) (d : DieId) : State :=
  let w := s.mem.word (leaseAt d.pkg)
  let l := (fld w 0 4, fld w 4 32)
  if l = ((s.getDie d).leader, (s.getDie d).leaseTerm) then
    (s.leaseStore d 0 (BitVec.ofNat 64 (d.die + (l.2 + 1) % 2 ^ 32 * 16))).noteLease d (d.die, (l.2 + 1) % 2 ^ 32)
  else s.noteLease d l

/-! ### The hang monitor and the chain ferry (R266, R267) -/

/-- The hang monitor of a die fires. -/
def hangFires (s : State) (d : DieId) : State :=
  let s1 := (diesOf d.pkg).foldl (fun t e => t.updDie e fun x => { x with hangset := x.hangset ||| BitVec.ofNat 16 (2 ^ d.die) }) s
  ((s1.updDie d fun x => { x with ferry := true }).emit (.msix d (s.getReg d 0x1028 0).toNat)).logDie d false 54 0 0 0 0

/-- The ferry visits a queue: it dispatches a LAUNCH, COPY or SIGNAL when one stands next and nothing of the queue is in progress. A GRAPH that was
under way when the ferry engaged keeps its node, and goes on from it after HANDBACK (DESIGN CHOICE, log 35: the rule speaks of a GRAPH that is
found at the head). -/
def ferryVisit (s : State) (d : DieId) (q : Nat) : State :=
  match s.qEntry d q with
  | none => s
  | some e =>
    let v := s.getFe d q
    if v.graph.isSome || v.outOfRange || decide (v.tail ≤ v.disp) || !v.running.isEmpty then s
    else match s.feRead d e.part (commandVa e v.disp) 64 with
      | .bytes l =>
        let ws := wordsOf 8 l
        let op := fld (ws.getD 0 0) 0 4
        if 1 ≤ op ∧ op ≤ 3 then s.dispatchCommand d q e ws true else s
      | _ => s

end State

/-! ### The events -/

/-- REGISTER_WRITE (R246, R307): an aligned 8-byte write of the register space; until the die's STATE is RUN it is ignored. -/
def execRegisterWrite (d : DieId) (agent off value : Nat) (s : State) : Out :=
  .next (if s.dieRuns d then s.writeReg d agent off (BitVec.ofNat 64 value) else s)

/-- FE_IRQ (R246): a write of FE.IRQ by the host or the die's firmware core. -/
def execFeIrq (d : DieId) (agent value : Nat) (s : State) : Out :=
  .next (if State.hostOrOwn d agent && s.dieRuns d then s.feIrqWrite d (BitVec.ofNat 64 value) else s)

/-- FUSE_SVN (R246): a write of FUSE.SVN by the die's firmware core. -/
def execFuseSvn (d : DieId) (agent value : Nat) (s : State) : Out :=
  .next (if State.own d agent && s.dieRuns d then s.fuseWrite d (BitVec.ofNat 64 value) else s)

/-- REBOOT (R264): accepted from the leader's die or the host, in any state of the die's ROM (R308). -/
def execReboot (d : DieId) (agent : Nat) (s : State) : Out :=
  .next (if s.hostOrLeader d agent then s.reboot d else s)

/-- HANDBACK (R264, R267). -/
def execHandback (d : DieId) (s : State) : Out := .next (if s.dieRuns d then s.takeBack d else s)

/-- LEASE_BEAT (R263): the leader increments BEAT. -/
def execLeaseBeat (d : DieId) (s : State) : Out :=
  .next (if s.dieRuns d && (s.getDie d).leader == d.die then s.beat d else s)

/-- LEASE_CLAIM (R263): a follower that has seen no change of BEAT for too long claims the lease. -/
def execLeaseClaim (d : DieId) (s : State) : Out :=
  .next (if s.dieRuns d && (s.getDie d).leader != d.die then s.claim d else s)

/-- HANG_MONITOR_FIRE (R266): some queue holds a dispatchable command or node. -/
def execHangMonitorFire (d : DieId) (s : State) : Out := .next (if (s.readyQueues d).isEmpty then s else s.hangFires d)

/-- FERRY_DISPATCH (R267): the ferry visits the next queue. -/
def execFerryDispatch (d : DieId) (s : State) : Out :=
  .next (if (s.getDie d).ferry then
      (s.ferryVisit d (s.getDie d).ferryPtr).updDie d fun x => { x with ferryPtr := (x.ferryPtr + 1) % 64 }
    else s)

end Sys2Proof.Machine
end

