-- ==== Sys2Proof/Machine/Traps.lean ====
section
/-!
DEFINITION. The walk of a translation miss (R274), and the two exceptions of a word that does not become an instruction (R51,
R275).
-/
namespace Sys2Proof.Machine

/-- PAGE_WALK (R274): the entry of the die's miss table for the partition and page is answered; the 64 walkers take the entries in order of
admission, so that a later one waits. -/
def execPageWalk (d : DieId) (part va : Nat) (s : State) : Out :=
  let hit := fun m : Miss => m.part == part && m.vpn == va / 4096
  .next (match ((s.getDie d).misses.take 64).find? hit with
    | some m => s.walkMiss d m
    | none => if (s.getDie d).misses.any hit then s.push (.pageWalk d part va) else s)

/-- ILLEGAL_INSTRUCTION (R51): a word that the encodings give no instruction raises cause 2, with the word in mtval. -/
def execIllegalInstruction (word : Nat) (s : State) : Out := .next (s.trap 2 (BitVec.ofNat 64 word))

/-- INSTRUCTION_FETCH_FAULT (R275): the hart enters its trap handler with the cause of the fetch and the address in mtval. -/
def execInstructionFetchFault (cause va : Nat) (s : State) : Out := .next (s.trap cause (BitVec.ofNat 64 va))

end Sys2Proof.Machine
end

