-- ==== Sys2Proof/Machine/Dispatch.lean ====
section
/-!
DEFINITION. The dispatch of every instruction to its meaning: one arm per constructor of Instr.
-/
namespace Sys2Proof.Machine

/-- What an instruction, or an event of the device, does to the state. -/
def exec (i : Instr) (s : State) : Host.Outcome State Fault Refusal :=
  match i with
  | .lui rd imm => Sys2Proof.Machine.execLui rd imm s
  | .auipc rd imm => Sys2Proof.Machine.execAuipc rd imm s
  | .jal rd off => Sys2Proof.Machine.execJal rd off s
  | .jalr rd rs1 imm => Sys2Proof.Machine.execJalr rd rs1 imm s
  | .beq rs1 rs2 off => Sys2Proof.Machine.execBeq rs1 rs2 off s
  | .bne rs1 rs2 off => Sys2Proof.Machine.execBne rs1 rs2 off s
  | .blt rs1 rs2 off => Sys2Proof.Machine.execBlt rs1 rs2 off s
  | .bge rs1 rs2 off => Sys2Proof.Machine.execBge rs1 rs2 off s
  | .bltu rs1 rs2 off => Sys2Proof.Machine.execBltu rs1 rs2 off s
  | .bgeu rs1 rs2 off => Sys2Proof.Machine.execBgeu rs1 rs2 off s
  | .lb rd rs1 imm => Sys2Proof.Machine.execLb rd rs1 imm s
  | .lh rd rs1 imm => Sys2Proof.Machine.execLh rd rs1 imm s
  | .lw rd rs1 imm => Sys2Proof.Machine.execLw rd rs1 imm s
  | .ld rd rs1 imm => Sys2Proof.Machine.execLd rd rs1 imm s
  | .lbu rd rs1 imm => Sys2Proof.Machine.execLbu rd rs1 imm s
  | .lhu rd rs1 imm => Sys2Proof.Machine.execLhu rd rs1 imm s
  | .lwu rd rs1 imm => Sys2Proof.Machine.execLwu rd rs1 imm s
  | .sb rs1 rs2 imm => Sys2Proof.Machine.execSb rs1 rs2 imm s
  | .sh rs1 rs2 imm => Sys2Proof.Machine.execSh rs1 rs2 imm s
  | .sw rs1 rs2 imm => Sys2Proof.Machine.execSw rs1 rs2 imm s
  | .sd rs1 rs2 imm => Sys2Proof.Machine.execSd rs1 rs2 imm s
  | .addi rd rs1 imm => Sys2Proof.Machine.execAddi rd rs1 imm s
  | .slti rd rs1 imm => Sys2Proof.Machine.execSlti rd rs1 imm s
  | .sltiu rd rs1 imm => Sys2Proof.Machine.execSltiu rd rs1 imm s
  | .xori rd rs1 imm => Sys2Proof.Machine.execXori rd rs1 imm s
  | .ori rd rs1 imm => Sys2Proof.Machine.execOri rd rs1 imm s
  | .andi rd rs1 imm => Sys2Proof.Machine.execAndi rd rs1 imm s
  | .slli rd rs1 amt => Sys2Proof.Machine.execSlli rd rs1 amt s
  | .srli rd rs1 amt => Sys2Proof.Machine.execSrli rd rs1 amt s
  | .srai rd rs1 amt => Sys2Proof.Machine.execSrai rd rs1 amt s
  | .add rd rs1 rs2 => Sys2Proof.Machine.execAdd rd rs1 rs2 s
  | .sub rd rs1 rs2 => Sys2Proof.Machine.execSub rd rs1 rs2 s
  | .sll rd rs1 rs2 => Sys2Proof.Machine.execSll rd rs1 rs2 s
  | .slt rd rs1 rs2 => Sys2Proof.Machine.execSlt rd rs1 rs2 s
  | .sltu rd rs1 rs2 => Sys2Proof.Machine.execSltu rd rs1 rs2 s
  | .xor rd rs1 rs2 => Sys2Proof.Machine.execXor rd rs1 rs2 s
  | .srl rd rs1 rs2 => Sys2Proof.Machine.execSrl rd rs1 rs2 s
  | .sra rd rs1 rs2 => Sys2Proof.Machine.execSra rd rs1 rs2 s
  | .or rd rs1 rs2 => Sys2Proof.Machine.execOr rd rs1 rs2 s
  | .and rd rs1 rs2 => Sys2Proof.Machine.execAnd rd rs1 rs2 s
  | .fence fm pred succ rs1 rd => Sys2Proof.Machine.execFence fm pred succ rs1 rd s
  | .fenceI imm rs1 rd => Sys2Proof.Machine.execFenceI imm rs1 rd s
  | .ecall => Sys2Proof.Machine.execEcall s
  | .ebreak => Sys2Proof.Machine.execEbreak s
  | .addiw rd rs1 imm => Sys2Proof.Machine.execAddiw rd rs1 imm s
  | .slliw rd rs1 amt => Sys2Proof.Machine.execSlliw rd rs1 amt s
  | .srliw rd rs1 amt => Sys2Proof.Machine.execSrliw rd rs1 amt s
  | .sraiw rd rs1 amt => Sys2Proof.Machine.execSraiw rd rs1 amt s
  | .addw rd rs1 rs2 => Sys2Proof.Machine.execAddw rd rs1 rs2 s
  | .subw rd rs1 rs2 => Sys2Proof.Machine.execSubw rd rs1 rs2 s
  | .sllw rd rs1 rs2 => Sys2Proof.Machine.execSllw rd rs1 rs2 s
  | .srlw rd rs1 rs2 => Sys2Proof.Machine.execSrlw rd rs1 rs2 s
  | .sraw rd rs1 rs2 => Sys2Proof.Machine.execSraw rd rs1 rs2 s
  | .mul rd rs1 rs2 => Sys2Proof.Machine.execMul rd rs1 rs2 s
  | .mulh rd rs1 rs2 => Sys2Proof.Machine.execMulh rd rs1 rs2 s
  | .mulhsu rd rs1 rs2 => Sys2Proof.Machine.execMulhsu rd rs1 rs2 s
  | .mulhu rd rs1 rs2 => Sys2Proof.Machine.execMulhu rd rs1 rs2 s
  | .div rd rs1 rs2 => Sys2Proof.Machine.execDiv rd rs1 rs2 s
  | .divu rd rs1 rs2 => Sys2Proof.Machine.execDivu rd rs1 rs2 s
  | .rem rd rs1 rs2 => Sys2Proof.Machine.execRem rd rs1 rs2 s
  | .remu rd rs1 rs2 => Sys2Proof.Machine.execRemu rd rs1 rs2 s
  | .mulw rd rs1 rs2 => Sys2Proof.Machine.execMulw rd rs1 rs2 s
  | .divw rd rs1 rs2 => Sys2Proof.Machine.execDivw rd rs1 rs2 s
  | .divuw rd rs1 rs2 => Sys2Proof.Machine.execDivuw rd rs1 rs2 s
  | .remw rd rs1 rs2 => Sys2Proof.Machine.execRemw rd rs1 rs2 s
  | .remuw rd rs1 rs2 => Sys2Proof.Machine.execRemuw rd rs1 rs2 s
  | .lrW aq rl rd rs1 => Sys2Proof.Machine.execLrW aq rl rd rs1 s
  | .lrD aq rl rd rs1 => Sys2Proof.Machine.execLrD aq rl rd rs1 s
  | .scW aq rl rd rs1 rs2 => Sys2Proof.Machine.execScW aq rl rd rs1 rs2 s
  | .scD aq rl rd rs1 rs2 => Sys2Proof.Machine.execScD aq rl rd rs1 rs2 s
  | .amoswapW aq rl rd rs1 rs2 => Sys2Proof.Machine.execAmoswapW aq rl rd rs1 rs2 s
  | .amoswapD aq rl rd rs1 rs2 => Sys2Proof.Machine.execAmoswapD aq rl rd rs1 rs2 s
  | .amoaddW aq rl rd rs1 rs2 => Sys2Proof.Machine.execAmoaddW aq rl rd rs1 rs2 s
  | .amoaddD aq rl rd rs1 rs2 => Sys2Proof.Machine.execAmoaddD aq rl rd rs1 rs2 s
  | .amoxorW aq rl rd rs1 rs2 => Sys2Proof.Machine.execAmoxorW aq rl rd rs1 rs2 s
  | .amoxorD aq rl rd rs1 rs2 => Sys2Proof.Machine.execAmoxorD aq rl rd rs1 rs2 s
  | .amoandW aq rl rd rs1 rs2 => Sys2Proof.Machine.execAmoandW aq rl rd rs1 rs2 s
  | .amoandD aq rl rd rs1 rs2 => Sys2Proof.Machine.execAmoandD aq rl rd rs1 rs2 s
  | .amoorW aq rl rd rs1 rs2 => Sys2Proof.Machine.execAmoorW aq rl rd rs1 rs2 s
  | .amoorD aq rl rd rs1 rs2 => Sys2Proof.Machine.execAmoorD aq rl rd rs1 rs2 s
  | .amominW aq rl rd rs1 rs2 => Sys2Proof.Machine.execAmominW aq rl rd rs1 rs2 s
  | .amominD aq rl rd rs1 rs2 => Sys2Proof.Machine.execAmominD aq rl rd rs1 rs2 s
  | .amomaxW aq rl rd rs1 rs2 => Sys2Proof.Machine.execAmomaxW aq rl rd rs1 rs2 s
  | .amomaxD aq rl rd rs1 rs2 => Sys2Proof.Machine.execAmomaxD aq rl rd rs1 rs2 s
  | .amominuW aq rl rd rs1 rs2 => Sys2Proof.Machine.execAmominuW aq rl rd rs1 rs2 s
  | .amominuD aq rl rd rs1 rs2 => Sys2Proof.Machine.execAmominuD aq rl rd rs1 rs2 s
  | .amomaxuW aq rl rd rs1 rs2 => Sys2Proof.Machine.execAmomaxuW aq rl rd rs1 rs2 s
  | .amomaxuD aq rl rd rs1 rs2 => Sys2Proof.Machine.execAmomaxuD aq rl rd rs1 rs2 s
  | .csrrw rd csr rs1 => Sys2Proof.Machine.execCsrrw rd csr rs1 s
  | .csrrs rd csr rs1 => Sys2Proof.Machine.execCsrrs rd csr rs1 s
  | .csrrc rd csr rs1 => Sys2Proof.Machine.execCsrrc rd csr rs1 s
  | .csrrwi rd csr uimm => Sys2Proof.Machine.execCsrrwi rd csr uimm s
  | .csrrsi rd csr uimm => Sys2Proof.Machine.execCsrrsi rd csr uimm s
  | .csrrci rd csr uimm => Sys2Proof.Machine.execCsrrci rd csr uimm s
  | .mret => Sys2Proof.Machine.execMret s
  | .wfi => Sys2Proof.Machine.execWfi s
  | .bget hd hs => Sys2Proof.Machine.execBget hd hs s
  | .bgetq hd hs => Sys2Proof.Machine.execBgetq hd hs s
  | .bput hd hs => Sys2Proof.Machine.execBput hd hs s
  | .bclr rd hs => Sys2Proof.Machine.execBclr rd hs s
  | .bpois rd hs => Sys2Proof.Machine.execBpois rd hs s
  | .bstat rd hs => Sys2Proof.Machine.execBstat rd hs s
  | .bwait hs => Sys2Proof.Machine.execBwait hs s
  | .btest rd hs => Sys2Proof.Machine.execBtest rd hs s
  | .brel hs => Sys2Proof.Machine.execBrel hs s
  | .bopen hs => Sys2Proof.Machine.execBopen hs s
  | .bstw hs rs1 rs2 => Sys2Proof.Machine.execBstw hs rs1 rs2 s
  | .bseal hs => Sys2Proof.Machine.execBseal hs s
  | .bldw rd hs rs2 => Sys2Proof.Machine.execBldw rd hs rs2 s
  | .hld hd rs1 => Sys2Proof.Machine.execHld hd rs1 s
  | .hst hs rs1 => Sys2Proof.Machine.execHst hs rs1 s
  | .hmov hd hs => Sys2Proof.Machine.execHmov hd hs s
  | .hadv hd rs1 => Sys2Proof.Machine.execHadv hd rs1 s
  | .hginc hd => Sys2Proof.Machine.execHginc hd s
  | .hsub hd hs rs2 => Sys2Proof.Machine.execHsub hd hs rs2 s
  | .hgetf rd hs sel => Sys2Proof.Machine.execHgetf rd hs sel s
  | .hsetf hd rs1 sel => Sys2Proof.Machine.execHsetf hd rs1 sel s
  | .ldq w sz off rs1 rd => Sys2Proof.Machine.execLdq w sz off rs1 rd s
  | .stp w sz off rs1 rs => Sys2Proof.Machine.execStp w sz off rs1 rs s
  | .invr rs1 rs2 => Sys2Proof.Machine.execInvr rs1 rs2 s
  | .inva => Sys2Proof.Machine.execInva s
  | .yld rs1 rs2 => Sys2Proof.Machine.execYld rs1 rs2 s
  | .ownq rd rs1 => Sys2Proof.Machine.execOwnq rd rs1 s
  | .cntw cls => Sys2Proof.Machine.execCntw cls s
  | .cntr rd cls => Sys2Proof.Machine.execCntr rd cls s
  | .facq scope rs1 => Sys2Proof.Machine.execFacq scope rs1 s
  | .frel scope rs1 => Sys2Proof.Machine.execFrel scope rs1 s
  | .far scope rs1 => Sys2Proof.Machine.execFar scope rs1 s
  | .rlq rd rs1 => Sys2Proof.Machine.execRlq rd rs1 s
  | .stpa rs1 rs2 => Sys2Proof.Machine.execStpa rs1 rs2 s
  | .mma acc ha hb => Sys2Proof.Machine.execMma acc ha hb s
  | .mmaz acc ha hb => Sys2Proof.Machine.execMmaz acc ha hb s
  | .mmav acc ha hb => Sys2Proof.Machine.execMmav acc ha hb s
  | .mmavz acc ha hb => Sys2Proof.Machine.execMmavz acc ha hb s
  | .mdrn hd acc hs2 => Sys2Proof.Machine.execMdrn hd acc hs2 s
  | .mmrg acc hs => Sys2Proof.Machine.execMmrg acc hs s
  | .aclr acc => Sys2Proof.Machine.execAclr acc s
  | .astat rd acc => Sys2Proof.Machine.execAstat rd acc s
  | .mmsend rs1 rs2 => Sys2Proof.Machine.execMmsend rs1 rs2 s
  | .vadd hd ha hb => Sys2Proof.Machine.execVadd hd ha hb s
  | .vsub hd ha hb => Sys2Proof.Machine.execVsub hd ha hb s
  | .vmul hd ha hb => Sys2Proof.Machine.execVmul hd ha hb s
  | .vfma hd ha hb => Sys2Proof.Machine.execVfma hd ha hb s
  | .vmax hd ha hb => Sys2Proof.Machine.execVmax hd ha hb s
  | .vmin hd ha hb => Sys2Proof.Machine.execVmin hd ha hb s
  | .vscl hd ha rs2 => Sys2Proof.Machine.execVscl hd ha rs2 s
  | .vaxpy hd ha hb => Sys2Proof.Machine.execVaxpy hd ha hb s
  | .vfill hd rs1 => Sys2Proof.Machine.execVfill hd rs1 s
  | .vcopy hd ha => Sys2Proof.Machine.execVcopy hd ha s
  | .vexp2 hd ha => Sys2Proof.Machine.execVexp2 hd ha s
  | .vrcp hd ha => Sys2Proof.Machine.execVrcp hd ha s
  | .vrsq hd ha => Sys2Proof.Machine.execVrsq hd ha s
  | .vcmplt rs ha hb => Sys2Proof.Machine.execVcmplt rs ha hb s
  | .vcmpeq rs ha hb => Sys2Proof.Machine.execVcmpeq rs ha hb s
  | .vsel hd ha hb => Sys2Proof.Machine.execVsel hd ha hb s
  | .vreds hd ha => Sys2Proof.Machine.execVreds hd ha s
  | .vredm hd ha => Sys2Proof.Machine.execVredm hd ha s
  | .vargm hd ha => Sys2Proof.Machine.execVargm hd ha s
  | .verrs hd ha hb => Sys2Proof.Machine.execVerrs hd ha hb s
  | .vtrn hd ha => Sys2Proof.Machine.execVtrn hd ha s
  | .vcvt hd ha => Sys2Proof.Machine.execVcvt hd ha s
  | .cvala hd hs hs2 => Sys2Proof.Machine.execCvala hd hs hs2 s
  | .cvalb hd hs hs2 => Sys2Proof.Machine.execCvalb hd hs hs2 s
  | .cvqmx hd hs hs2 => Sys2Proof.Machine.execCvqmx hd hs hs2 s
  | .cvdq hd hs hs2 => Sys2Proof.Machine.execCvdq hd hs hs2 s
  | .cvi8 hd hs => Sys2Proof.Machine.execCvi8 hd hs s
  | .cvrns hd hs hs2 => Sys2Proof.Machine.execCvrns hd hs hs2 s
  | .cvcrt hd hs => Sys2Proof.Machine.execCvcrt hd hs s
  | .cvlay hd hs rs2 => Sys2Proof.Machine.execCvlay hd hs rs2 s
  | .cpgo rs1 rs2 => Sys2Proof.Machine.execCpgo rs1 rs2 s
  | .cpstat rd rs1 => Sys2Proof.Machine.execCpstat rd rs1 s
  | .cpstop rs1 => Sys2Proof.Machine.execCpstop rs1 s
  | .cpwait rs1 => Sys2Proof.Machine.execCpwait rs1 s
  | .sqltab rs1 rs2 => Sys2Proof.Machine.execSqltab rs1 rs2 s
  | .sqarm rs1 rs2 => Sys2Proof.Machine.execSqarm rs1 rs2 s
  | .sqcoef rd rs1 rs2 => Sys2Proof.Machine.execSqcoef rd rs1 rs2 s
  | .sqhdl hd rs1 => Sys2Proof.Machine.execSqhdl hd rs1 s
  | .sqpart rs1 rs2 => Sys2Proof.Machine.execSqpart rs1 rs2 s
  | .sqstat rd rs1 => Sys2Proof.Machine.execSqstat rd rs1 s
  | .sqdec hd rs1 => Sys2Proof.Machine.execSqdec hd rs1 s
  | .fset n rs1 => Sys2Proof.Machine.execFset n rs1 s
  | .fclr n rs1 => Sys2Proof.Machine.execFclr n rs1 s
  | .ftst rd n => Sys2Proof.Machine.execFtst rd n s
  | .fwait n => Sys2Proof.Machine.execFwait n s
  | .fwclr n => Sys2Proof.Machine.execFwclr n s
  | .bfs n off => Sys2Proof.Machine.execBfs n off s
  | .bfc n off => Sys2Proof.Machine.execBfc n off s
  | .barv b => Sys2Proof.Machine.execBarv b s
  | .barw b => Sys2Proof.Machine.execBarw b s
  | .barvw b => Sys2Proof.Machine.execBarvw b s
  | .semp sem => Sys2Proof.Machine.execSemp sem s
  | .semv sem => Sys2Proof.Machine.execSemv sem s
  | .semtry rd sem => Sys2Proof.Machine.execSemtry rd sem s
  | .mtxl mtx => Sys2Proof.Machine.execMtxl mtx s
  | .mtxu mtx => Sys2Proof.Machine.execMtxu mtx s
  | .mtxtry rd mtx => Sys2Proof.Machine.execMtxtry rd mtx s
  | .barany rd rs1 mask => Sys2Proof.Machine.execBarany rd rs1 mask s
  | .qpush q rs1 => Sys2Proof.Machine.execQpush q rs1 s
  | .qpop rd q => Sys2Proof.Machine.execQpop rd q s
  | .qtry rd q => Sys2Proof.Machine.execQtry rd q s
  | .msend rs1 rs2 => Sys2Proof.Machine.execMsend rs1 rs2 s
  | .mrecv rd rs1 => Sys2Proof.Machine.execMrecv rd rs1 s
  | .mpoll rd rs1 => Sys2Proof.Machine.execMpoll rd rs1 s
  | .hqmake rd rs1 => Sys2Proof.Machine.execHqmake rd rs1 s
  | .hqrsv rd rs1 rs2 => Sys2Proof.Machine.execHqrsv rd rs1 rs2 s
  | .hqpub rs1 rs2 => Sys2Proof.Machine.execHqpub rs1 rs2 s
  | .hqpop rd rs1 => Sys2Proof.Machine.execHqpop rd rs1 s
  | .tspawn rd rs1 => Sys2Proof.Machine.execTspawn rd rs1 s
  | .tdep rs1 rs2 => Sys2Proof.Machine.execTdep rs1 rs2 s
  | .tdone rs1 => Sys2Proof.Machine.execTdone rs1 s
  | .tnext rd => Sys2Proof.Machine.execTnext rd s
  | .rep rs1 len stride mask => Sys2Proof.Machine.execRep rs1 len stride mask s
  | .halt rs1 => Sys2Proof.Machine.execHalt rs1 s
  | .tail => Sys2Proof.Machine.execTail s
  | .yield => Sys2Proof.Machine.execYield s
  | .grpq rd rs1 => Sys2Proof.Machine.execGrpq rd rs1 s
  | .prio rs1 => Sys2Proof.Machine.execPrio rs1 s
  | .tlbi rs1 rs2 => Sys2Proof.Machine.execTlbi rs1 rs2 s
  | .tlbsync => Sys2Proof.Machine.execTlbsync s
  | .pswap rs1 => Sys2Proof.Machine.execPswap rs1 s
  | .elog rd => Sys2Proof.Machine.execElog rd s
  | .einj rs1 rs2 => Sys2Proof.Machine.execEinj rs1 rs2 s
  | .interruptTaken h => Sys2Proof.Machine.execInterruptTaken h s
  | .impreciseException h => Sys2Proof.Machine.execImpreciseException h s
  | .hartWake h => Sys2Proof.Machine.execHartWake h s
  | .engineCommandStart c eng => Sys2Proof.Machine.execEngineCommandStart c eng s
  | .engineCommandDone c eng => Sys2Proof.Machine.execEngineCommandDone c eng s
  | .srcStarved c eng => Sys2Proof.Machine.execSrcStarved c eng s
  | .bufferedCommandStart c proc => Sys2Proof.Machine.execBufferedCommandStart c proc s
  | .commitBufferCommit h => Sys2Proof.Machine.execCommitBufferCommit h s
  | .commitBufferDiscard h => Sys2Proof.Machine.execCommitBufferDiscard h s
  | .wordWrite id => Sys2Proof.Machine.execWordWrite id s
  | .readRequest id => Sys2Proof.Machine.execReadRequest id s
  | .writeRequest id => Sys2Proof.Machine.execWriteRequest id s
  | .poisonRequest id => Sys2Proof.Machine.execPoisonRequest id s
  | .clearRequest id => Sys2Proof.Machine.execClearRequest id s
  | .presenceStatusRead id => Sys2Proof.Machine.execPresenceStatusRead id s
  | .deferRetry id => Sys2Proof.Machine.execDeferRetry id s
  | .blockAnswerLands id => Sys2Proof.Machine.execBlockAnswerLands id s
  | .blockWriteAnswer id => Sys2Proof.Machine.execBlockWriteAnswer id s
  | .remoteFlagOp id => Sys2Proof.Machine.execRemoteFlagOp id s
  | .msendRecordArrives id => Sys2Proof.Machine.execMsendRecordArrives id s
  | .msendRetry id => Sys2Proof.Machine.execMsendRetry id s
  | .mmsendReceive id => Sys2Proof.Machine.execMmsendReceive id s
  | .loadMiss id => Sys2Proof.Machine.execLoadMiss id s
  | .registration id => Sys2Proof.Machine.execRegistration id s
  | .homeAtomicOp id => Sys2Proof.Machine.execHomeAtomicOp id s
  | .writeBack c w => Sys2Proof.Machine.execWriteBack c w s
  | .rangeLock id => Sys2Proof.Machine.execRangeLock id s
  | .forward id => Sys2Proof.Machine.execForward id s
  | .transferRecall c w => Sys2Proof.Machine.execTransferRecall c w s
  | .registrationGrant id => Sys2Proof.Machine.execRegistrationGrant id s
  | .l1Fill id => Sys2Proof.Machine.execL1Fill id s
  | .capacityEviction c w => Sys2Proof.Machine.execCapacityEviction c w s
  | .postPerform id => Sys2Proof.Machine.execPostPerform id s
  | .postAck id => Sys2Proof.Machine.execPostAck id s
  | .homeMigration pkg page die => Sys2Proof.Machine.execHomeMigration pkg page die s
  | .recordFetch c ch => Sys2Proof.Machine.execRecordFetch c ch s
  | .recordStart c ch => Sys2Proof.Machine.execRecordStart c ch s
  | .recordComplete c ch => Sys2Proof.Machine.execRecordComplete c ch s
  | .taskStealable pkg task => Sys2Proof.Machine.execTaskStealable pkg task s
  | .solverDecision d set => Sys2Proof.Machine.execSolverDecision d set s
  | .decisionWriteRetry d set => Sys2Proof.Machine.execDecisionWriteRetry d set s
  | .cellDone c => Sys2Proof.Machine.execCellDone c s
  | .retentionExpiry c => Sys2Proof.Machine.execRetentionExpiry c s
  | .lotteryDraw d => Sys2Proof.Machine.execLotteryDraw d s
  | .queueTailSnoop d q => Sys2Proof.Machine.execQueueTailSnoop d q s
  | .launchCommand d q k => Sys2Proof.Machine.execLaunchCommand d q k s
  | .copyCommand d q k => Sys2Proof.Machine.execCopyCommand d q k s
  | .signalCommand d q k => Sys2Proof.Machine.execSignalCommand d q k s
  | .waitCommand d q k => Sys2Proof.Machine.execWaitCommand d q k s
  | .loadImage d q k => Sys2Proof.Machine.execLoadImage d q k s
  | .graphCommand d q k => Sys2Proof.Machine.execGraphCommand d q k s
  | .swapCommand d q k => Sys2Proof.Machine.execSwapCommand d q k s
  | .fenceCommand d q k => Sys2Proof.Machine.execFenceCommand d q k s
  | .condNode d q k => Sys2Proof.Machine.execCondNode d q k s
  | .endNode d q k => Sys2Proof.Machine.execEndNode d q k s
  | .feWaitPoll d q k => Sys2Proof.Machine.execFeWaitPoll d q k s
  | .feWaitWake d q k => Sys2Proof.Machine.execFeWaitWake d q k s
  | .placementAttempt d q k => Sys2Proof.Machine.execPlacementAttempt d q k s
  | .reserveRequest c d q k => Sys2Proof.Machine.execReserveRequest c d q k s
  | .placementBackoffExpiry d q k => Sys2Proof.Machine.execPlacementBackoffExpiry d q k s
  | .gangRelease d q k => Sys2Proof.Machine.execGangRelease d q k s
  | .coalesceDeadline d ring => Sys2Proof.Machine.execCoalesceDeadline d ring s
  | .coalesceDlWrite d ring value => Sys2Proof.Machine.execCoalesceDlWrite d ring value s
  | .leaseBeat d => Sys2Proof.Machine.execLeaseBeat d s
  | .leaseClaim d => Sys2Proof.Machine.execLeaseClaim d s
  | .hangMonitorFire d => Sys2Proof.Machine.execHangMonitorFire d s
  | .ferryDispatch d => Sys2Proof.Machine.execFerryDispatch d s
  | .reboot d agent => Sys2Proof.Machine.execReboot d agent s
  | .handback d => Sys2Proof.Machine.execHandback d s
  | .feIrq d agent value => Sys2Proof.Machine.execFeIrq d agent value s
  | .fuseSvn d agent value => Sys2Proof.Machine.execFuseSvn d agent value s
  | .biasCmd d agent value => Sys2Proof.Machine.execBiasCmd d agent value s
  | .biasFlipComplete d => Sys2Proof.Machine.execBiasFlipComplete d s
  | .hostMemRead pkg addr size => Sys2Proof.Machine.execHostMemRead pkg addr size s
  | .hostMemWrite pkg addr size value => Sys2Proof.Machine.execHostMemWrite pkg addr size value s
  | .hostLinkDown pkg => Sys2Proof.Machine.execHostLinkDown pkg s
  | .serviceContextStart c agent value => Sys2Proof.Machine.execServiceContextStart c agent value s
  | .bankEviction h => Sys2Proof.Machine.execBankEviction h s
  | .swapGraceExpiry c => Sys2Proof.Machine.execSwapGraceExpiry c s
  | .debugHaltRequest c agent value => Sys2Proof.Machine.execDebugHaltRequest c agent value s
  | .debugHaltReached c => Sys2Proof.Machine.execDebugHaltReached c s
  | .debugResume c agent value => Sys2Proof.Machine.execDebugResume c agent value s
  | .debugStep c agent value => Sys2Proof.Machine.execDebugStep c agent value s
  | .debugRegRead c agent value => Sys2Proof.Machine.execDebugRegRead c agent value s
  | .debugRegWrite c agent value => Sys2Proof.Machine.execDebugRegWrite c agent value s
  | .dieElogRead d => Sys2Proof.Machine.execDieElogRead d s
  | .dieEinj d agent value => Sys2Proof.Machine.execDieEinj d agent value s
  | .portRetrain pkg port => Sys2Proof.Machine.execPortRetrain pkg port s
  | .registerWrite d agent off value => Sys2Proof.Machine.execRegisterWrite d agent off value s
  | .pageWalk d part va => Sys2Proof.Machine.execPageWalk d part va s
  | .linkReplay pkg port => Sys2Proof.Machine.execLinkReplay pkg port s
  | .portDown pkg port => Sys2Proof.Machine.execPortDown pkg port s
  | .linkOperationArrive src dst lane => Sys2Proof.Machine.execLinkOperationArrive src dst lane s
  | .destinationUnreachable src dst => Sys2Proof.Machine.execDestinationUnreachable src dst s
  | .powerOn pkg => Sys2Proof.Machine.execPowerOn pkg s
  | .keyStoreSign d len msg => Sys2Proof.Machine.execKeyStoreSign d len msg s
  | .attestationRequest pkg nonce => Sys2Proof.Machine.execAttestationRequest pkg nonce s
  | .powerWindow pkg watts => Sys2Proof.Machine.execPowerWindow pkg watts s
  | .powerSurge pkg watts => Sys2Proof.Machine.execPowerSurge pkg watts s
  | .islandLevelChange d n level => Sys2Proof.Machine.execIslandLevelChange d n level s
  | .correctableError c array addr synd => Sys2Proof.Machine.execCorrectableError c array addr synd s
  | .uncorrectableError c array addr synd => Sys2Proof.Machine.execUncorrectableError c array addr synd s
  | .illegalInstruction word => Sys2Proof.Machine.execIllegalInstruction word s
  | .instructionFetchFault cause va => Sys2Proof.Machine.execInstructionFetchFault cause va s
  | .storeWriteThrough id die => Sys2Proof.Machine.execStoreWriteThrough id die s
  | .portUp pkg port => Sys2Proof.Machine.execPortUp pkg port s
  | .hostLinkUp pkg => Sys2Proof.Machine.execHostLinkUp pkg s

end Sys2Proof.Machine
end

