-- ==== Sys2Proof/Machine/Granules.lean ====
section
/-!
DEFINITION. The registers an instruction reads or writes, and the filling of their granules (R280).
-/
namespace Sys2Proof.Machine

/-- The scalar and handle registers that the fields of an instruction name. The register fields of `fence` and `fence.i` name
none (R57, R66). -/
def regsOf (i : Instr) : List Nat × List Nat :=
  match i with
  | .lui a _ | .auipc a _ | .jal a _ | .cntr a _ | .astat a _ | .ftst a _ | .semtry a _ | .mtxtry a _ | .qpop a _
  | .qtry a _ => ([a], [])
  | .jalr a b _ | .beq a b _ | .bne a b _ | .blt a b _ | .bge a b _ | .bltu a b _ | .bgeu a b _ | .lb a b _ | .lh a b _
  | .lw a b _ | .ld a b _ | .lbu a b _ | .lhu a b _ | .lwu a b _ | .sb a b _ | .sh a b _ | .sw a b _ | .sd a b _
  | .addi a b _ | .slti a b _ | .sltiu a b _ | .xori a b _ | .ori a b _ | .andi a b _ | .slli a b _ | .srli a b _
  | .srai a b _ | .addiw a b _ | .slliw a b _ | .srliw a b _ | .sraiw a b _ | .barany a b _ => ([a, b], [])
  | .add a b c | .sub a b c | .sll a b c | .slt a b c | .sltu a b c | .xor a b c | .srl a b c | .sra a b c | .or a b c
  | .and a b c | .addw a b c | .subw a b c | .sllw a b c | .srlw a b c | .sraw a b c | .mul a b c | .mulh a b c
  | .mulhsu a b c | .mulhu a b c | .div a b c | .divu a b c | .rem a b c | .remu a b c | .mulw a b c | .divw a b c
  | .divuw a b c | .remw a b c | .remuw a b c | .sqcoef a b c | .hqrsv a b c => ([a, b, c], [])
  | .lrW _ _ a b | .lrD _ _ a b => ([a, b], [])
  | .scW _ _ a b c | .scD _ _ a b c | .amoswapW _ _ a b c | .amoswapD _ _ a b c | .amoaddW _ _ a b c | .amoaddD _ _ a b c
  | .amoxorW _ _ a b c | .amoxorD _ _ a b c | .amoandW _ _ a b c | .amoandD _ _ a b c | .amoorW _ _ a b c
  | .amoorD _ _ a b c | .amominW _ _ a b c | .amominD _ _ a b c | .amomaxW _ _ a b c | .amomaxD _ _ a b c
  | .amominuW _ _ a b c | .amominuD _ _ a b c | .amomaxuW _ _ a b c | .amomaxuD _ _ a b c => ([a, b, c], [])
  | .csrrw a _ b | .csrrs a _ b | .csrrc a _ b => ([a, b], [])
  | .csrrwi a _ _ | .csrrsi a _ _ | .csrrci a _ _ => ([a], [])
  | .bget a b | .bgetq a b | .bput a b | .hmov a b | .vcopy a b | .vexp2 a b | .vrcp a b | .vrsq a b | .vreds a b
  | .vredm a b | .vargm a b | .vtrn a b | .vcvt a b | .cvi8 a b | .cvcrt a b => ([], [a, b])
  | .bclr a b | .bpois a b | .bstat a b | .btest a b => ([a], [b])
  | .bwait a | .brel a | .bopen a | .bseal a | .hginc a => ([], [a])
  | .bstw a b c => ([b, c], [a])
  | .bldw a b c => ([a, c], [b])
  | .hld a b | .hst a b | .hadv a b | .vfill a b | .sqhdl a b | .sqdec a b => ([b], [a])
  | .hsub a b c | .vscl a b c | .cvlay a b c => ([c], [a, b])
  | .hgetf a b _ => ([a], [b])
  | .hsetf a b _ => ([b], [a])
  | .ldq _ _ _ a b | .stp _ _ _ a b => ([a, b], [])
  | .invr a b | .yld a b | .ownq a b | .rlq a b | .stpa a b | .mmsend a b | .cpgo a b | .cpstat a b | .sqltab a b
  | .sqarm a b | .sqpart a b | .sqstat a b | .msend a b | .mrecv a b | .mpoll a b | .hqmake a b | .hqpub a b | .hqpop a b
  | .tspawn a b | .tdep a b | .grpq a b | .tlbi a b | .einj a b => ([a, b], [])
  | .facq _ a | .frel _ a | .far _ a | .fset _ a | .fclr _ a | .qpush _ a => ([a], [])
  | .mma _ a b | .mmaz _ a b | .mmav _ a b | .mmavz _ a b => ([], [a, b])
  | .mdrn a _ b => ([], [a, b])
  | .mmrg _ a => ([], [a])
  | .vadd a b c | .vsub a b c | .vmul a b c | .vfma a b c | .vmax a b c | .vmin a b c | .vaxpy a b c | .vsel a b c
  | .verrs a b c | .cvala a b c | .cvalb a b c | .cvqmx a b c | .cvdq a b c | .cvrns a b c => ([], [a, b, c])
  | .vcmplt a b c | .vcmpeq a b c => ([a], [b, c])
  | .cpstop a | .cpwait a | .tdone a | .tnext a | .halt a | .prio a | .pswap a | .elog a => ([a], [])
  | .rep a _ _ _ => ([a], [])
  | _ => ([], [])

/-- The handle register that an instruction reads by way of a CSR: the one that ve.c names, of `vfma` (R146). -/
def throughCsr (c : HartCsrs) : Instr → List Nat
  | .vfma .. => [fld c.veC 0 4]
  | _ => []

/-- The granules that an instruction's registers stand in; x0 is read from no bank, and ignores writes (R9). -/
def granulesOf (c : HartCsrs) (i : Instr) : List Nat :=
  let r := regsOf i
  ((r.1.filter fun n => n != 0).map granuleX ++ (r.2 ++ throughCsr c i).map granuleH).eraseDups

/-- Before an instruction executes, every absent granule whose registers it reads or writes is filled; the save address of one that
cannot be (R280). -/
def State.fillFor (s : State) (i : Instr) : Except Nat State :=
  if s.me.absent.isEmpty then .ok s else State.fillGranules s.cur (granulesOf s.me.csr i) s

end Sys2Proof.Machine
end

