-- ==== Sys2Proof/Machine/Perform.lean ====
section
/-!
DEFINITION. The events of the state, each with the meaning that exec gives the row of the same name.
-/
namespace Sys2Proof.Machine

/-- What an event does to the state. -/
def perform (e : Event) (s : State) : Host.Outcome State Fault Refusal :=
  match e with
  | .interruptTaken h => execInterruptTaken h s
  | .impreciseException h => execImpreciseException h s
  | .hartWake h => execHartWake h s
  | .engineCommandStart c eng => execEngineCommandStart c eng s
  | .engineCommandDone c eng => execEngineCommandDone c eng s
  | .srcStarved c eng => execSrcStarved c eng s
  | .bufferedCommandStart c proc => execBufferedCommandStart c proc s
  | .commitBufferCommit h => execCommitBufferCommit h s
  | .commitBufferDiscard h => execCommitBufferDiscard h s
  | .wordWrite id => execWordWrite id s
  | .readRequest id => execReadRequest id s
  | .writeRequest id => execWriteRequest id s
  | .poisonRequest id => execPoisonRequest id s
  | .clearRequest id => execClearRequest id s
  | .presenceStatusRead id => execPresenceStatusRead id s
  | .deferRetry id => execDeferRetry id s
  | .blockAnswerLands id => execBlockAnswerLands id s
  | .blockWriteAnswer id => execBlockWriteAnswer id s
  | .remoteFlagOp id => execRemoteFlagOp id s
  | .msendRecordArrives id => execMsendRecordArrives id s
  | .msendRetry id => execMsendRetry id s
  | .mmsendReceive id => execMmsendReceive id s
  | .loadMiss id => execLoadMiss id s
  | .registration id => execRegistration id s
  | .homeAtomicOp id => execHomeAtomicOp id s
  | .writeBack c w => execWriteBack c w s
  | .rangeLock id => execRangeLock id s
  | .forward id => execForward id s
  | .transferRecall c w => execTransferRecall c w s
  | .registrationGrant id => execRegistrationGrant id s
  | .l1Fill id => execL1Fill id s
  | .capacityEviction c w => execCapacityEviction c w s
  | .postPerform id => execPostPerform id s
  | .postAck id => execPostAck id s
  | .homeMigration pkg page die => execHomeMigration pkg page die s
  | .recordFetch c ch => execRecordFetch c ch s
  | .recordStart c ch => execRecordStart c ch s
  | .recordComplete c ch => execRecordComplete c ch s
  | .taskStealable pkg task => execTaskStealable pkg task s
  | .solverDecision d set => execSolverDecision d set s
  | .decisionWriteRetry d set => execDecisionWriteRetry d set s
  | .cellDone c => execCellDone c s
  | .retentionExpiry c => execRetentionExpiry c s
  | .lotteryDraw d => execLotteryDraw d s
  | .queueTailSnoop d q => execQueueTailSnoop d q s
  | .launchCommand d q k => execLaunchCommand d q k s
  | .copyCommand d q k => execCopyCommand d q k s
  | .signalCommand d q k => execSignalCommand d q k s
  | .waitCommand d q k => execWaitCommand d q k s
  | .loadImage d q k => execLoadImage d q k s
  | .graphCommand d q k => execGraphCommand d q k s
  | .swapCommand d q k => execSwapCommand d q k s
  | .fenceCommand d q k => execFenceCommand d q k s
  | .condNode d q k => execCondNode d q k s
  | .endNode d q k => execEndNode d q k s
  | .feWaitPoll d q k => execFeWaitPoll d q k s
  | .feWaitWake d q k => execFeWaitWake d q k s
  | .placementAttempt d q k => execPlacementAttempt d q k s
  | .reserveRequest c d q k => execReserveRequest c d q k s
  | .placementBackoffExpiry d q k => execPlacementBackoffExpiry d q k s
  | .gangRelease d q k => execGangRelease d q k s
  | .coalesceDeadline d ring => execCoalesceDeadline d ring s
  | .coalesceDlWrite d ring value => execCoalesceDlWrite d ring value s
  | .leaseBeat d => execLeaseBeat d s
  | .leaseClaim d => execLeaseClaim d s
  | .hangMonitorFire d => execHangMonitorFire d s
  | .ferryDispatch d => execFerryDispatch d s
  | .reboot d agent => execReboot d agent s
  | .handback d => execHandback d s
  | .feIrq d agent value => execFeIrq d agent value s
  | .fuseSvn d agent value => execFuseSvn d agent value s
  | .biasCmd d agent value => execBiasCmd d agent value s
  | .biasFlipComplete d => execBiasFlipComplete d s
  | .hostMemRead pkg addr size => execHostMemRead pkg addr size s
  | .hostMemWrite pkg addr size value => execHostMemWrite pkg addr size value s
  | .hostLinkDown pkg => execHostLinkDown pkg s
  | .serviceContextStart c agent value => execServiceContextStart c agent value s
  | .bankEviction h => execBankEviction h s
  | .swapGraceExpiry c => execSwapGraceExpiry c s
  | .debugHaltRequest c agent value => execDebugHaltRequest c agent value s
  | .debugHaltReached c => execDebugHaltReached c s
  | .debugResume c agent value => execDebugResume c agent value s
  | .debugStep c agent value => execDebugStep c agent value s
  | .debugRegRead c agent value => execDebugRegRead c agent value s
  | .debugRegWrite c agent value => execDebugRegWrite c agent value s
  | .dieElogRead d => execDieElogRead d s
  | .dieEinj d agent value => execDieEinj d agent value s
  | .portRetrain pkg port => execPortRetrain pkg port s
  | .registerWrite d agent off value => execRegisterWrite d agent off value s
  | .pageWalk d part va => execPageWalk d part va s
  | .linkReplay pkg port => execLinkReplay pkg port s
  | .portDown pkg port => execPortDown pkg port s
  | .linkOperationArrive src dst lane => execLinkOperationArrive src dst lane s
  | .destinationUnreachable src dst => execDestinationUnreachable src dst s
  | .powerOn pkg => execPowerOn pkg s
  | .keyStoreSign d len msg => execKeyStoreSign d len msg s
  | .attestationRequest pkg nonce => execAttestationRequest pkg nonce s
  | .powerWindow pkg watts => execPowerWindow pkg watts s
  | .powerSurge pkg watts => execPowerSurge pkg watts s
  | .islandLevelChange d n level => execIslandLevelChange d n level s
  | .correctableError c array addr synd => execCorrectableError c array addr synd s
  | .uncorrectableError c array addr synd => execUncorrectableError c array addr synd s
  | .illegalInstruction word => execIllegalInstruction word s
  | .instructionFetchFault cause va => execInstructionFetchFault cause va s
  | .storeWriteThrough id die => execStoreWriteThrough id die s
  | .portUp pkg port => execPortUp pkg port s
  | .hostLinkUp pkg => execHostLinkUp pkg s

end Sys2Proof.Machine
end

