-- ==== Sys2Proof/Machine/Misses.lean ====
section
/-!
DEFINITION. The translation misses of engines (R274): the pages that an event's unit translates, the entries of the miss table that it
waits for, and the event once they are answered.
-/
namespace Sys2Proof.Machine

/-- Go on after a step that answers a next state. -/
def Out.map (o : Out) (f : State → State) : Out :=
  match o with
  | .next s => .next (f s)
  | .fault r => .fault r
  | .refused r => .refused r

/-- A page that a unit of a cell translates: the cell (a die's own units stand under the number of its front end), the partition, the
package of the window root, and an address of the page. -/
structure Need where
  unit : CellId
  part : Nat
  win : Nat
  va : Nat
  deriving DecidableEq, Repr

/-- The pages of a virtual range. -/
def rangePages (lo hi : Nat) : List Nat := (List.range (hi / 4096 + 1 - lo / 4096)).map fun i => max lo ((lo / 4096 + i) * 4096)

namespace State

/-- The pages that the next step of a channel's record translates, each with the package of its window root. -/
def moveNeeds (c : CellId) (r : RecRun) : List (Nat × Nat) :=
  let b := r.bytes
  let here := fun l : List Nat => l.map fun va => (c.pkg, va)
  let side := fun (dst : Bool) (form addr pkg : Nat) =>
    if form = 0 then here ((unitRuns b dst addr r.next).map fun x => x.1)
    else if form = 1 then [(pkg, (addr + 4096 * r.next) % 2 ^ 64)]
    else []
  if r.reading.isSome || r.writing.isSome || decide (units b ≤ r.next) then []
  else if Rec.kind b = 1 then
    if r.frame.isNone then here (rangePages (Rec.saddr b) (Rec.saddr b + Rec.bsLen b - 1))
    else here [(if r.next < Rec.lumaBlocks b then Rec.lbase b + 4096 * r.next
      else Rec.cbase b + 4096 * (r.next - Rec.lumaBlocks b)) % 2 ^ 64]
  else if r.ready.isNone then side false (Rec.sform b) (Rec.saddr b) (Rec.spkg b c.pkg)
  else side true (Rec.dform b) (Rec.daddr b) (Rec.dpkg b c.pkg)

/-- The pages that the next step of a channel translates. -/
def stepNeeds (s : State) (c : CellId) (ch : Nat) : List (Nat × Nat) :=
  match (s.getChan c ch).cur with
  | none => []
  | some r => match r.stage with
    | 1 => (wordSides r.bytes).flatMap fun p => (rangePages p.1 p.2).map fun va => (c.pkg, va)
    | 2 => moveNeeds c r
    | _ => []

/-- The pages that an event's unit translates. -/
def needs (s : State) (e : Event) : List Need :=
  match e with
  | .recordFetch c ch =>
    let v := s.getChan c ch
    if !v.busy || v.stopping || v.fetch == 0 || s.enginesPaused c then []
    else [v.fetch, v.fetch + 255].map fun va => ⟨c, (s.getCell c).ctx.part, c.pkg, va⟩
  | .recordStart c ch =>
    if s.enginesPaused c then [] else (s.stepNeeds c ch).map fun p => ⟨c, (s.getCell c).ctx.part, p.1, p.2⟩
  | .mmsendReceive id => match s.getOp id with
    | some (.matrix _ part dst _ k) => (drainList k).map fun p => ⟨dst, part, dst.pkg, p.2.toNat⟩
    | _ => []
  | .solverDecision d i => match s.getSet d i with
    | some v => [⟨feCell d, v.part, d.pkg, (v.place v.attempt).1 % 2 ^ 64⟩]
    | none => []
  | .decisionWriteRetry d i => ((s.getDie d).decisions.filter fun k => k.set == i && k.op.isNone).map fun k =>
      ⟨feCell d, k.part, d.pkg, k.va % 2 ^ 64⟩
  | .impreciseException h =>
    let va := (s.getHart h).csr.efPtr
    if va = 0 then [] else [⟨h.cellId, (s.getCell h.cellId).ctx.part, h.pkg, va.toNat⟩]
  | _ => []

/-- A page is to be walked before its unit goes on: no TLB has it, and no walk for the unit has returned it or faulted. -/
def missing (s : State) (n : Need) : Bool :=
  let d := s.getDie n.unit.dieId
  s.walked n.unit.dieId n.part n.win (BitVec.ofNat 64 n.va) && (tlbFind d.tlb n.part n.win n.va).isNone &&
    !d.unitFaults.contains (n.unit, n.part, n.win, n.va / 4096) && !d.unitPages.contains (n.unit, n.part, n.win, n.va / 4096)

/-- An event's unit goes on: what its walks have met is told to the access that waited for it, and to no other (R272), and the unit waits
at its cell no more (R274). -/
def faultTold (e : Event) (s : State) (n : Need) : State :=
  s.updDie n.unit.dieId fun d => { d with
    unitFaults := d.unitFaults.filter fun f => f != (n.unit, n.part, n.win, n.va / 4096)
    unitPages := d.unitPages.filter fun f => f != (n.unit, n.part, n.win, n.va / 4096)
    unitWaits := d.unitWaits.filter fun w => w != (n.unit, e) }

/-- A miss of an event's unit enters the table, joins its entry there, or waits at the cell for its admission (R274). -/
def missUnit (e : Event) (s : State) (n : Need) : State :=
  let t := s.unitMiss n.unit n.part n.win n.va
  if (t.getDie n.unit.dieId).misses.any (Miss.isKey n.part n.win (n.va / 4096)) then t
  else t.updDie n.unit.dieId fun d => { d with unitWaits := d.unitWaits ++ [(n.unit, e)] }

/-- The misses of an event's unit are taken up, each for the first time or again. -/
def missUnits (e : Event) (s : State) (miss : List Need) : State :=
  miss.foldl (missUnit e) (miss.foldl (fun t n => t.updDie n.unit.dieId fun d => { d with
    unitWaits := d.unitWaits.filter fun w => w != (n.unit, e) }) s)

/-- An event happens, or waits for the entries of the miss table that its unit's translations need (R274). -/
def performEvent (s : State) (e : Event) : Out :=
  let ns := s.needs e
  let miss := ns.filter s.missing
  if miss.isEmpty then Out.map (perform e s) fun t => ns.foldl (faultTold e) t
  else .next ((missUnits e s miss).pushOnce e)

end State

end Sys2Proof.Machine
end

