-- ==== Sys2Proof/Machine/Turn.lean ====
section
/-!
DEFINITION. The turn of a hart, from the selection of the hart to the end of its instruction (R52, R63, R72, R156, R226, R277,
R287), and the choice of who acts next.
-/
namespace Sys2Proof.Machine

/-! ### The predicted path (R156) -/

/-- An instruction that a hart executes on a predicted path (R156): base computations, jumps and branches, CSR reads that write
nothing, base loads, and engine instructions but `mmsend` and `astat`. Every other waits at issue. -/
def Instr.onPath : Instr → Bool
  | .lui .. | .auipc .. | .jal .. | .jalr .. | .beq .. | .bne .. | .blt .. | .bge .. | .bltu .. | .bgeu .. => true
  | .lb .. | .lh .. | .lw .. | .ld .. | .lbu .. | .lhu .. | .lwu .. => true
  | .addi .. | .slti .. | .sltiu .. | .xori .. | .ori .. | .andi .. | .slli .. | .srli .. | .srai .. => true
  | .add .. | .sub .. | .sll .. | .slt .. | .sltu .. | .xor .. | .srl .. | .sra .. | .or .. | .and .. => true
  | .addiw .. | .slliw .. | .srliw .. | .sraiw .. | .addw .. | .subw .. | .sllw .. | .srlw .. | .sraw .. => true
  | .mul .. | .mulh .. | .mulhsu .. | .mulhu .. | .div .. | .divu .. | .rem .. | .remu .. => true
  | .mulw .. | .divw .. | .divuw .. | .remw .. | .remuw .. => true
  | .csrrs _ _ rs1 | .csrrc _ _ rs1 => rs1 == 0
  | .csrrsi _ _ u | .csrrci _ _ u => u == 0
  | .bfs .. | .bfc .. => true
  | .mma .. | .mmaz .. | .mmav .. | .mmavz .. | .mdrn .. | .mmrg .. | .aclr .. => true
  | .vadd .. | .vsub .. | .vmul .. | .vfma .. | .vmax .. | .vmin .. | .vscl .. | .vaxpy .. | .vfill .. | .vcopy .. => true
  | .vexp2 .. | .vrcp .. | .vrsq .. | .vcmplt .. | .vcmpeq .. | .vsel .. | .vreds .. | .vredm .. | .vargm .. => true
  | .verrs .. | .vtrn .. | .vcvt .. => true
  | .cvala .. | .cvalb .. | .cvqmx .. | .cvdq .. | .cvi8 .. | .cvrns .. | .cvcrt .. | .cvlay .. => true
  | _ => false

namespace State

/-! ### The instruction of a hart -/

/-- The word that a pass of an active loop executes at the pc (R72), or the word itself. -/
def passWord (s : State) (w : Nat) : Nat :=
  match s.me.inBody with
  | some l => loopWord l w
  | none => w

/-- A base branch: whether it is taken, and its offset (R54). -/
def baseBranch (s : State) : Instr → Option (Bool × Nat)
  | .beq a b off => some (s.xr a == s.xr b, off)
  | .bne a b off => some (s.xr a != s.xr b, off)
  | .blt a b off => some ((s.xr a).slt (s.xr b), off)
  | .bge a b off => some (!(s.xr a).slt (s.xr b), off)
  | .bltu a b off => some ((s.xr a).ult (s.xr b), off)
  | .bgeu a b off => some (!(s.xr a).ult (s.xr b), off)
  | _ => none

/-- A base branch whose scalar result is not yet available: the hart goes on along a predicted path, and the branch resolves later (R156).
Whether the result is available is a free value (DESIGN CHOICE, log 5), but for the machine's first step, before which nothing was computed. -/
def predicted (s : State) (i : Instr) : Option State :=
  match s.baseBranch i with
  | none => none
  | some (taken, off) =>
    let t := s.me.pc + sextTo 13 off
    let next := s.me.pc + 4
    if s.tick == 0 || !Config.branchWaits s.tick || s.me.loop.isSome || t.toNat % 4 != 0 then none
    else some (if Config.predictTaken s.tick then s.predict none taken t next else s.predict none (!taken) next t)

/-- The causes that come before the fault of a granule's fill (R52). -/
def beforeFill (cause : Nat) : Bool := [0, 2, 3, 4, 6, 8, 11, 13, 15, 31, 32].contains cause

/-- The trap that an instruction raises before its registers are filled, if its own checks raise one: their order is that of R52. A check
that names a register whose granule cannot be filled goes by the value it had when the bank was evicted, and a page that is still to be walked
raises no fault here (DESIGN CHOICE, log 10). -/
def earlyTrap (s : State) (i : Instr) : Option State :=
  let none' := BitVec.allOnes 64
  match exec i (s.updMe fun h => { h with csr := { h.csr with mcause := none', mepc := ~~~h.pc } }) with
  | .next t => if t.me.csr.mepc = s.me.pc &&& ~~~(3 : Word) && beforeFill t.me.csr.mcause.toNat then some t else none
  | _ => none

/-- An instruction word is executed, or raises its illegal-instruction trap (R51, R72); an instruction that may not go on a
predicted path waits (R156); absent granules are filled first (R280). -/
def execWord (s : State) (w : Nat) : Out :=
  match decodeWord w with
  | .error _ => execIllegalInstruction w s
  | .ok i =>
    if s.me.inBody.isSome && Instr.notInBody i then execIllegalInstruction w s
    else if s.me.spec.isSome && !Instr.onPath i then .next s.stall
    else match s.fillFor i with
      | .error a => .next ((s.earlyTrap i).getD (s.trap 5 (BitVec.ofNat 64 a)))
      | .ok t =>
        let u := t.updMe fun h => { h with insn := some w }
        match u.predicted i with
        | some p => .next p
        | none => exec i u

/-- The instruction at the pc, or the one already under way. -/
def issueNext (s : State) : Out :=
  match s.me.insn with
  | some w => s.execWord w
  | none =>
    match s.fetch with
    | .wait t => .next (t.updMe fun h => { h with parked := false })
    | .fault c t => execInstructionFetchFault c t.me.pc.toNat t
    | .word w t => t.execWord (t.passWord w)

/-! ### Waits that the instruction itself ends (R227, R229, R274) -/

/-- The current hart waits no longer, and its instruction completes before an interrupt is taken (R70). -/
def takeUp (s : State) : State := if s.me.wait.isSome then s.updMe fun v => { v with wait := none, stalled := true } else s

/-- A wait of the kinds that end when the instruction, taken up again, can go on. -/
def selfTested (v : Hart) : Bool := v.wait.any fun w => decide (w.kind = .retry) || decide (w.kind = .admission)

/-- The condition of such a wait does not hold: the instruction, taken up again, would only wait as before. -/
def stallsYet (s : State) (h : HartId) : Bool :=
  let v := s.getHart h
  match ({ s with cur := h } : State).takeUp.issueNext with
  | .next t =>
    let u := t.getHart h
    decide (u.wait.map (fun w => w.kind) = v.wait.map fun w => w.kind) && decide (u.op = v.op)
  | _ => false

/-! ### Who may take a turn (R226, R287, R307) -/

/-- The cell lets a hart of it go on. Once issue has stopped for a debug halt or a swap, only instructions that are past their issue go on,
and the hart that a debugger steps (R283, R287). -/
def cellLets (s : State) (h : HartId) : Bool :=
  let c := s.getCell h.cellId
  if wbit c.dbg 17 then midway (s.getHart h) || (c.stepping && fld c.dbg 8 5 == h.hart)
  else (c.haltCause == 0 && decide (c.swap < 3)) || midway (s.getHart h)

/-- A hart is ready (R227): it exists, waits for nothing whose condition does not hold, its die's STATE is RUN (R307), and its cell lets it
go on. -/
def ready (s : State) (h : HartId) : Bool :=
  let v := s.getHart h
  decide (v.status = .running) && s.dieRuns h.dieId && s.cellLets h && (v.wait.isNone || (selfTested v && !s.stallsYet h))

/-- The harts of a processor from the one after the pointer of a level on (R226). -/
def ring (s : State) (c : CellId) (proc prio : Nat) : List HartId :=
  let p := (lookup (4 * proc + prio) (s.getCell c).rr).getD (8 * proc + 7)
  (List.range 8).map fun i => c.hart (8 * proc + (p + 1 + i) % 8)

/-- The hart that a processor selects (R226): lowest level first, then the first ready hart after the level's pointer. -/
def selected (s : State) (c : CellId) (proc : Nat) : Option HartId :=
  [0, 1, 2, 3].findSome? fun l => (s.ring c proc l).find? fun h => (s.getHart h).prio == l && s.ready h

/-! ### A turn -/

/-- mcycle of the contexts of a processor counts, except in a debug halt (R11, R287). -/
def tickProcessor (s : State) (c : CellId) (proc : Nat) : State :=
  if wbit (s.getCell c).dbg 17 then s
  else
    let n := BitVec.ofNat 64 (1 + Config.cycles s.tick)
    let count := fun v : Hart => { v with csr := { v.csr with mcycle := v.csr.mcycle + n } }
    let hs : List (HartId × Hart) := s.harts.map fun (p : HartId × Hart) => if p.1.cellId = c ∧ procOf p.1.hart = proc then (p.1, count p.2) else p
    ({ s with harts := hs }).updCell c fun x => { x with
      preempted := x.preempted.map fun (p : Nat × Hart) => if procOf p.1 = proc then (p.1, count p.2) else p }

/-- The state in which the selected hart acts: its processor's cycles are counted, and its level's pointer stands at it (R226). -/
def begun (s : State) : State := (s.tickProcessor s.myCell (procOf s.cur.hart)).moveRr s.cur

/-- A hart's instruction is not under way any more. -/
def idleHart (v : Hart) : Bool := v.wait.isNone && v.op.isNone && v.answer.isNone

/-- After the turn of a hart: no word is kept of an instruction that has ended, and a STEP ends once its instruction has issued or
parked, with DCAUSE 3 (R287). -/
def endTurn (h : HartId) (s : State) : State :=
  let v := s.getHart h
  let s1 := if idleHart v then s.updHart h fun x => { x with insn := none } else s
  let c := s.getCell h.cellId
  if c.stepping && fld c.dbg 8 5 == h.hart && (idleHart v || v.parked) then
    s1.updCell h.cellId fun x => { x with stepping := false, dbg := setFld x.dbg 20 3 3 }
  else s1

/-- The turn of the current hart: a pending imprecise exception, then an allowed interrupt, then the instruction (R63, R277). -/
def hartTurn (s : State) : Out :=
  let h := s.cur
  if !s.ready h then .next s
  else
    let t := s.begun.takeUp
    Out.map
      (if t.impreciseDue h then t.performEvent (.impreciseException h)
       else if t.interruptible h && (t.pendingInterrupt h).isSome then execInterruptTaken h t
       else t.issueNext)
      (endTurn h)

/-- A hart of a cell may have a load under way: one of its harts runs, and the cell is neither halted nor swapped. -/
def mayLoad (s : State) (c : CellId) : Bool :=
  s.dieRuns c.dieId && !isFront c && (s.getCell c).haltCause == 0 && (s.getCell c).swap == 0 && !wbit (s.getCell c).dbg 17 &&
    s.harts.any fun p => decide (p.1.cellId = c) && decide (p.2.status = .running)

/-- What happens in a step: the turn of a hart, an event, a request that its home held, a byte of flash, or a word that a load brings in early.
A request that its home may not serve yet is held there, behind those that came before (R214, R296). -/
def act (s : State) : Out :=
  match s.turn with
  | .hart => s.hartTurn
  | .event e => if s.mustHold e then .next (s.hold e) else s.performEvent e
  | .held e => s.performEvent e
  | .flash pkg off b => .next (s.writeFlash pkg off b)
  | .early c va => .next (if s.mayLoad c then s.earlyLoad c va else s)

/-! ### Who acts next -/

/-- An event that an outside party or a failing part brings about, at a unit that exists (log 3). -/
def fromOutside : Event → Bool
  | .capacityEviction c _ => decide c.Valid
  | .homeMigration p _ d => decide (p < 64 ∧ d < 16)
  | .coalesceDlWrite d _ _ => decide d.Valid
  | .leaseBeat d => decide d.Valid
  | .leaseClaim d => decide d.Valid
  | .hangMonitorFire d => decide d.Valid
  | .reboot d _ => decide d.Valid
  | .handback d => decide d.Valid
  | .feIrq d _ _ => decide d.Valid
  | .fuseSvn d _ _ => decide d.Valid
  | .biasCmd d _ _ => decide d.Valid
  | .hostMemRead p _ _ => decide (p < 64)
  | .hostMemWrite p _ _ _ => decide (p < 64)
  | .hostLinkDown p => decide (p < 64)
  | .hostLinkUp p => decide (p < 64)
  | .serviceContextStart c a _ => decide (c.Valid ∧ a ≤ 16)
  | .debugHaltRequest c _ _ => decide c.Valid
  | .debugResume c _ _ => decide c.Valid
  | .debugStep c _ _ => decide c.Valid
  | .debugRegRead c _ _ => decide c.Valid
  | .debugRegWrite c _ _ => decide c.Valid
  | .dieElogRead d => decide d.Valid
  | .dieEinj d _ _ => decide d.Valid
  | .portRetrain p _ => decide (p < 64)
  | .portDown p _ => decide (p < 64)
  | .linkReplay p _ => decide (p < 64)
  | .registerWrite d _ _ _ => decide d.Valid
  | .powerOn p => decide (p < 64)
  | .keyStoreSign d _ _ => decide d.Valid
  | .attestationRequest p _ => decide (p < 64)
  | .powerWindow p _ => decide (p < 64)
  | .powerSurge p _ => decide (p < 64)
  | .islandLevelChange d _ _ => decide d.Valid
  | .correctableError c _ _ _ => decide c.Valid
  | .uncorrectableError c _ _ _ => decide c.Valid
  | _ => false

/-- What may be next: the turn, the hart that is current then, the events still under way, and the requests still held. -/
structure Choice where
  turn : Turn
  cur : HartId
  pool : List Event
  held : List (Nat × Event)
  deriving DecidableEq, Repr

/-- An event happens next. -/
def withEvent (s : State) (e : Event) : Choice := ⟨.event e, s.cur, s.pool, s.held⟩

/-- A hart takes its turn next. -/
def withHart (s : State) (h : HartId) : Choice := ⟨.hart, h, s.pool, s.held⟩

/-- The cell that an event is a step of: of a hart, an engine, a channel, a service start, an eviction or a swap. -/
def unitOf : Event → Option CellId
  | .interruptTaken h => some h.cellId
  | .impreciseException h => some h.cellId
  | .hartWake h => some h.cellId
  | .engineCommandStart c _ => some c
  | .engineCommandDone c _ => some c
  | .srcStarved c _ => some c
  | .bufferedCommandStart c _ => some c
  | .commitBufferCommit h => some h.cellId
  | .commitBufferDiscard h => some h.cellId
  | .recordFetch c _ => some c
  | .recordStart c _ => some c
  | .recordComplete c _ => some c
  | .serviceContextStart c a _ => if a = 17 then some c else none
  | .bankEviction h => some h.cellId
  | .swapGraceExpiry c => some c
  | _ => none

/-- An event may happen: no cell runs on a die whose STATE is not RUN (R307). -/
def allowed (s : State) (e : Event) : Bool := (unitOf e).all fun c => isFront c || s.dieRuns c.dieId

/-- The home slice and the cell of a message from the one to the other (R214). The answer to a load miss is one when no owner of the word and no
replica sends it. -/
def fromHome (s : State) : Event → Option (DieId × CellId)
  | .transferRecall c w => some (s.homeOf kTracked w, c)
  | .forward id => match s.getOp id with
    | some (.load a _ none) => match lookup (wordOf a.qa) s.words with
      | some (.registered c) => some (a.home, c)
      | _ => none
    | _ => none
  | .l1Fill id => match s.getOp id with
    | some (.load _ _ (some (.supplied ..))) => none
    | some (.load a _ (some _)) => if a.kind = kReplicated then none else some (a.home, a.hart.cellId)
    | _ => none
  | .registrationGrant id => match s.getOp id with
    | some (.register a _ (some _) _) => some (a.home, a.hart.cellId)
    | _ => none
  | .homeAtomicOp id => match s.getOp id with
    | some (.atomic a _ _ (some _)) => some (a.home, a.hart.cellId)
    | _ => none
  | .postAck id => match s.getOp id with
    | some (.post a _ _ _ _ _ _) => some (a.home, a.hart.cellId)
    | some (.row _ _ _ c _ g _ _ _) => some (g.home, c)
    | some (.copyWrite c _ _ _ g _) => some (g.home, c)
    | _ => none
  | _ => none

/-- An event behind others is none that they must precede: messages from one home to one cell arrive in the order in which they were sent
(R214). -/
def inOrder (s : State) (before : List Event) (e : Event) : Bool :=
  match s.fromHome e with
  | none => true
  | some k => before.all fun x => s.fromHome x != some k

/-- The events under way, each of which may be next when no message of its home to its cell goes before it. -/
def poolNext (s : State) : List Choice :=
  (List.range s.pool.length).filterMap fun i => ((s.pool[i]?).filter fun e => s.allowed e && s.inOrder (s.pool.take i) e).map fun e =>
    ⟨.event e, s.cur, s.pool.eraseIdx i, s.held⟩

/-- The requests that homes hold, each of which is served once its home no longer holds it back and none before it is held for a word of
it, or for its page where the bias flipped (R214, R296). -/
def heldNext (s : State) : List Choice :=
  (List.range s.held.length).filterMap fun i => match s.held[i]? with
    | none => none
    | some r =>
      if s.homeBusy r.2 || (s.span r.2).any (heldIn (s.held.take i) s) then none
      else some ⟨.held r.2, s.cur, s.pool, s.held.eraseIdx i⟩

/-- The cells on which harts stand. -/
def hartCells (s : State) : List CellId := (s.harts.map fun p => p.1.cellId).eraseDups

/-- The hart that each processor selects. -/
def hartsNext (s : State) : List Choice :=
  (s.hartCells.flatMap fun c => [0, 1, 2].filterMap fun p => s.selected c p).map s.withHart

/-- A hart parked by `wfi` whose condition holds (R64). -/
def wakeable (s : State) (h : HartId) (v : Hart) : Bool :=
  v.wait.any (fun w => decide (w.kind = .interrupt)) && v.csr.mie &&& s.mipOf h != 0

/-- A hart is parked in a wait whose condition does not hold, so that an interrupt or an imprecise exception may abandon it (R70, R277). -/
def parkedYet (s : State) (h : HartId) (v : Hart) : Bool := v.wait.isSome && (!selfTested v || s.stallsYet h)

/-- The events of harts: a `wfi` ends, and an imprecise exception, or else an interrupt, is taken in a wait that it abandons. -/
def hartEvents (s : State) : List Choice :=
  (s.harts.filter fun p => s.dieRuns p.1.dieId).flatMap fun p =>
    (if s.wakeable p.1 p.2 then [s.withEvent (.hartWake p.1)] else []) ++
    (if !s.interruptible p.1 || !s.parkedYet p.1 p.2 then []
     else if s.impreciseDue p.1 then [s.withEvent (.impreciseException p.1)]
     else if (s.pendingInterrupt p.1).isSome then [s.withEvent (.interruptTaken p.1)]
     else [])

/-- The tail word of a queue tells the front end something new, or its producer has taken the word's registration (R248). -/
def tailMoved (s : State) (d : DieId) (q : Nat) : Bool :=
  match s.qEntry d q with
  | none => false
  | some e =>
    match s.readTail d e with
    | none => false
    | some t =>
      let v := s.getFe d q
      let ahead := (t - BitVec.ofNat 64 v.head).toNat
      !s.tailHeld d e || (if ahead ≤ 2 ^ e.log2n then v.outOfRange || v.tail != v.head + ahead else !v.outOfRange)

/-- The events of front ends: a draw of one whose die runs, the visit of a ferry, which serves also while its die is in reset, and a moved
tail (R248, R253, R267, R318). -/
def frontEvents (s : State) : List Choice :=
  (s.dies.filter fun p => s.dieRuns p.1 || p.2.ferry).flatMap fun p =>
    (if p.2.ferry then [s.withEvent (.ferryDispatch p.1)]
     else if s.ferrying p.1 || (s.readyQueues p.1).isEmpty then [] else [s.withEvent (.lotteryDraw p.1)]) ++
    ((p.2.queueTable.filter fun q => s.tailMoved p.1 q.1).map fun q => s.withEvent (.queueTailSnoop p.1 q.1))

/-- An operation to another package may have stayed unacknowledged too long (R303; how long is not modelled, log 7). -/
def timeouts (s : State) : List Choice :=
  (s.flows.filter fun f => !f.2.sent.isEmpty).map fun f => s.withEvent (.destinationUnreachable f.1.1 f.1.2.1)

/-- What an outside party does now, if anything, and what firmware writes to a boot flash (log 3). -/
def outsideEvents (s : State) : List Choice :=
  (match Config.outside s.tick with
    | some e => if fromOutside e then [s.withEvent e] else []
    | none => []) ++
  (match Config.flashWrite s.tick with
    | some (p, off, b) => if p < 64 then [⟨.flash p off b, s.cur, s.pool, s.held⟩] else []
    | none => [])

/-- A load that performs before those that precede it (R219, R319; log 4). -/
def earlyLoads (s : State) : List Choice :=
  match Config.early s.tick with
  | some (c, va) => if s.mayLoad c then [⟨.early c va, s.cur, s.pool, s.held⟩] else []
  | none => []

/-- Everything that may be next. -/
def choices (s : State) : List Choice :=
  s.poolNext ++ s.heldNext ++ s.hartsNext ++ s.hartEvents ++ s.frontEvents ++ s.timeouts ++ s.outsideEvents ++ s.earlyLoads

/-- The next turn, in an order that the manual leaves open (R212; log 2). Two free values are drawn in a step: one by what happens,
one here. -/
def advance (s : State) : State :=
  let l := s.choices
  let c := (l[Config.pick (s.tick + 1) % l.length]?).getD (s.withHart s.cur)
  { s with turn := c.turn, cur := c.cur, pool := c.pool, held := c.held, tick := s.tick + 2 }

/-- The step of the same turn from another state. -/
def acted (u : State) : State :=
  match u.act with
  | .next v => v
  | _ => u

/-- The end of a step from `s` that has come to `t`: injections whose words it wrote fire (R93), and the next turn is chosen. -/
def goOn (s t : State) : State := (fired acted s t).advance

/-! ### Placing an instruction -/

/-- The address at which a word is placed for the current hart: its pc, when a fetch there can succeed, else 0. -/
def placePc (s : State) : Word :=
  if s.me.pc.toNat % 4 = 0 ∧ s.me.pc.toNat < 2 ^ 57 ∧ !inWindow s.me.pc then s.me.pc else 0

/-- The page through which the placed word is fetched: the page of the pc at the same place in the package's HBM. -/
def fetchPage (s : State) : TlbEntry where
  part := s.ctx.part
  win := s.cur.pkg
  va := s.placePc.toNat / 4096 * 4096
  size := 4096
  pa := s.cur.pkg * pkgSpan + s.placePc.toNat / 4096 * 4096 % 2 ^ 40
  kind := kUntracked
  pin := false
  us := true
  ex := true
  wr := true
  rd := true

/-- The current hart with nothing under way, so that it fetches at once. -/
def placeHart (v : Hart) (pc : Word) : Hart :=
  { v.settle with
    status := .running, pc := pc, loop := none, spec := none, imprecise := none, absent := []
    csr := { v.csr with mie := 0 } }

end State

end Sys2Proof.Machine
end

