-- ==== Sys2Proof/Machine/Step.lean ====
section
/-!
DEFINITION. One step of the machine, and the placing of an instruction where the next step fetches it.
-/
namespace Sys2Proof.Machine

/-- One step: the hart or event whose turn it is acts, injections that it met fire, and the next turn is chosen. -/
def step (s : State) : Host.Outcome State Fault Refusal := Out.map s.act s.goOn

/-- The state with an instruction word where the next step fetches it: the current hart's turn, the hart running with nothing
under way, its die booted with a valid root for its partition, its cell not halted, and a page of word space at its pc that holds the
word. -/
def State.withFetchWord (s : State) (nbits w : Nat) : State :=
  let _ := nbits
  let pc := s.placePc
  let e := s.fetchPage
  let qa := e.phys pc.toNat
  let s1 := s.setHart s.cur (State.placeHart s.me pc)
  let root := (s.rootOf s.cur.dieId s.ctx.part s.cur.pkg) ||| 1
  let s2 := s1.updCell s.myCell fun c => { c with
    tlb := e :: c.tlb, istore := [], istoreBad := [], dbg := setFld c.dbg 17 1 0, haltCause := 0, swap := 0 }
  let s3 := s2.updDie s.cur.dieId fun d => { d with bootState := 3, ptroot := store s.ctx.part root d.ptroot }
  { s3 with
    turn := .hart
    mem := s3.mem.writeBytes qa (bytesOfWord w)
    badWords := s3.badWords.filter fun b => b != qa - qa % 8 }

end Sys2Proof.Machine
end

