-- ==== Sys2Proof/Safety.lean ====
section
/-!
DEFINITION. What the claims about the machine are said in: a run that never stops, the state an instruction leaves when it
completes, a trap as the manual describes its entry, and the conditions under which an access or a command goes through.
-/
namespace Sys2Proof.Machine

/-- A run from a state never stops: every number of steps answers a next state. -/
def Safe (s : State) : Prop := ∀ n, ∃ t, Host.Core.run Sys2Proof.core n s = .next t

/-- The low `n` bits of an integer, read as a two's complement number. -/
abbrev sx (n : Nat) (v : Int) : Int := Int.bmod v (2 ^ n)

/-! ### What an instruction leaves that completes -/

/-- A hart with x[rd] written; x0 ignores writes (R9). -/
def Hart.writes (h : Hart) (rd : Nat) (v : Word) : Hart := if rd = 0 then h else { h with x := h.x.setIfInBounds rd v }

/-- The current hart's instruction completes: it changes the hart to `h`, and control goes to `npc`. -/
def State.completes (s : State) (h : Hart) (npc : Word) : State := s.setHart s.cur (h.retired npc)

/-- An instruction completes that writes `v` to x[rd] and nothing else. -/
def State.wrote (s : State) (rd : Nat) (v : Word) : State := s.completes (s.me.writes rd v) (s.me.pc + 4)

/-- An instruction completes that writes nothing. -/
def State.passed (s : State) : State := s.completes s.me (s.me.pc + 4)

/-! ### Traps (R62) -/

/-- mstatus at trap entry: MPIE takes MIE, MIE is 0, and MPP is 11 from M and 00 from U. -/
def entryStatus (m : Word) (mode : Mode) : Word :=
  (if wbit m 3 then 0x80 else 0) ||| (match mode with
    | .m => 0x1800
    | .u => 0)

/-- A hart that has entered its handler with a cause, an address in mepc and a value in mtval (R62). -/
def Hart.enters (h : Hart) (cause epc tval pc : Word) : Hart :=
  { h with
    pc := pc, mode := .m, loop := none, wait := none, answer := none, stalled := false, parked := false, walkFault := none
    insn := none, op := none
    csr := { h.csr with mepc := epc, mcause := cause, mtval := tval, mstatus := entryStatus h.csr.mstatus h.mode } }

/-- The current hart takes a precise exception: its handler is at the base of mtvec, mepc holds the address of the instruction,
and its reservation is lost (R59, R62). -/
def State.raises (s : State) (cause : Nat) (tval : Word) : State :=
  { s.setHart s.cur (s.me.enters (BitVec.ofNat 64 cause) (s.me.pc &&& ~~~(3 : Word)) tval (s.me.csr.mtvec &&& ~~~(3 : Word))) with
    resvs := s.resvs.filter fun r => r.1 ≠ s.who }

/-! ### Accesses to word space -/

/-- An access of the current hart of `size` bytes goes through to word space, by an entry that its cell's TLB holds: aligned,
outside the window, under a valid root, the leaf allows it in the mode, and memory is there (R56, R268, R271, R272, R290). -/
structure State.Reaches (s : State) (acc : Acc) (va : Word) (size : Nat) (e : TlbEntry) : Prop where
  aligned : va.toNat % size = 0
  below : va.toNat < 2 ^ 57
  outside : inWindow va = false
  root : s.rootValid s.cur.dieId s.ctx.part s.cur.pkg = true
  hit : tlbFind (s.getCell s.myCell).tlb s.ctx.part s.cur.pkg va.toNat = some e
  allows : leafAllows acc s.me.mode e = true
  there : physFault e (e.phys va.toNat) = false
  words : e.kind ≠ kBlock

/-- The access of the current hart that the entry gives. -/
def State.accessOf (s : State) (va : Word) (size : Nat) (e : TlbEntry) : Access := s.mkAccess e (e.phys va.toNat) va size

/-- The home of a word on the hart's package serves a request at once: its page is not in a bias flip, no other request for the word
is in service or held there, no range lock covers the bytes, and no cell owns the word and it is not LOST (R123, R214, R296). -/
structure State.HomeFree (s : State) (a : Access) : Prop where
  near : a.home.pkg = s.cur.pkg
  still : s.flipping a.qa = false
  idle : lookup (State.wordOf a.qa) s.busy = none
  first : State.heldIn s.held s (State.wordOf a.qa, State.wordOf a.qa + 8) = false
  unlocked : s.lockHit a.home a.part a.va.toNat a.size = false
  home : lookup (State.wordOf a.qa) s.words = none

/-- The `size` bytes at an address, of the aligned word they lie in, as an unsigned number (R4). -/
def bytesAt (w : Word) (qa size : Nat) : Nat := w.toNat / 256 ^ (qa % 8) % 256 ^ size

/-- A number of `size` bytes as a load or an atomic operation returns it. -/
def loaded (size : Nat) (signed : Bool) (v : Nat) : Word := if signed then wordOfInt (sx (8 * size) v) else BitVec.ofNat 64 v

/-- The aligned word once the low `size` bytes of a value are at an address in it (R4, R210). -/
def stored (w : Word) (qa size : Nat) (v : Word) : Word :=
  BitVec.ofNat 64 (w.toNat - bytesAt w qa size * 256 ^ (qa % 8) + v.toNat % 256 ^ size * 256 ^ (qa % 8))

/-- The release that the rl bit of an LR, SC or AMO asks for at ms.scope is settled (R58, R122). -/
def State.RlSettled (s : State) (rl : Nat) : Prop :=
  rl = 1 → s.released (fld s.me.csr.msScope 0 3) (fld s.me.csr.msScope 8 8) = true

/-- The acquire that the aq bit asks for at ms.scope (R58, R122). -/
def State.aqDone (s : State) (aq : Nat) : State := if aq = 1 then s.acquire (fld s.me.csr.msScope 0 3) else s

/-- The state in which the cell's own copy of a word is gone, before the home acts on the word for it: an OWNED one has its value at
home again (R60, R221). -/
def State.withoutCopy (s : State) (w : Nat) : State := (s.ownHome s.myCell w).l1Drop s.myCell w

/-- The new value of the `size` bytes an AMO acts on, from the old bytes and the low bytes of x[rs2] (R60). -/
def amoNew (kind : AtomicKind) (size old val : Nat) : Nat :=
  let signed := sx (8 * size)
  match kind with
  | .lr => old
  | .sc | .swap => val
  | .add => (old + val) % 256 ^ size
  | .xor => old ^^^ val
  | .and => old &&& val
  | .or => old ||| val
  | .min => if signed val < signed old then val else old
  | .max => if signed old < signed val then val else old
  | .minu => min old val
  | .maxu => max old val

/-! ### Block space -/

/-- A block at a virtual address is reached by an access of the current hart through the window of package `win`, by an entry that its
cell's TLB holds (R95, R298). -/
structure State.BlockAt (s : State) (acc : Acc) (win : Nat) (va : Word) (e : TlbEntry) : Prop where
  below : va.toNat < 2 ^ 57
  outside : inWindow va = false
  root : s.rootValid s.cur.dieId s.ctx.part win = true
  hit : tlbFind (s.getCell s.myCell).tlb s.ctx.part win va.toNat = some e
  allows : leafAllows acc s.me.mode e = true
  there : physFault e (e.phys va.toNat) = false
  block : e.kind = kBlock

/-- The scratch operand in a handle register passes its checks: it is a SPAD handle within the cell's share (R15, R95). -/
structure State.SpadHandle (s : State) (reg : Nat) : Prop where
  fine : handleBad (s.hr reg) = false
  spad : hKind (s.hr reg) = kindSpad
  share : spadPast s.ctx.spad (s.hr reg) = none

/-- The block operand in a handle register passes its checks: a BLK handle with a right, of the hart's own package (R15, R95); `es i` is
the entry through which block `i` is reached. -/
structure State.BlkHandle (s : State) (reg : Nat) (acc : Acc) (right n : Nat) (es : Nat → TlbEntry) : Prop where
  fine : handleBad (s.hr reg) = false
  blk : hKind (s.hr reg) = kindBlk
  right : bitsOf (hRights (s.hr reg)) right 1 = 1
  own : hRpkg (s.hr reg) = false
  reach : ∀ i < n, s.BlockAt acc s.cur.pkg (blkVa (s.hr reg) i) (es i)
  here : ∀ i < n, pkgOfQa ((es i).phys (blkVa (s.hr reg) i).toNat) = s.cur.pkg

/-- The qualified address of block `i` of a BLK handle. -/
def State.blockQa (s : State) (reg : Nat) (es : Nat → TlbEntry) (i : Nat) : Nat := (es i).phys (blkVa (s.hr reg) i).toNat

/-- How far an expected generation is ahead of a block's, modulo 4,096 (R98). -/
def genAhead (expected current : Nat) : Nat := (((expected : Int) - current) % 4096).toNat

/-! ### Hardware queues -/

/-- The state once the cell's own copies of a descriptor's words are gone (R175). -/
def State.atQueue (s : State) (qa : Nat) : State := (pieceWords qa 64).foldl (fun t w => t.l1Drop t.myCell w) s

/-- A descriptor's home serves an operation of the current hart at once: the page is WORD_TRACKED and reached by the entry, no word of
the descriptor is in service, held, locked, LOST, registered or in error (R175). -/
structure State.QueueAt (s : State) (va : Word) (e : TlbEntry) : Prop where
  reaches : s.Reaches .amo va 64 e
  tracked : s.kindAt e (e.phys va.toNat) = kTracked
  aligned : e.phys va.toNat % 64 = 0
  idle : ∀ w ∈ pieceWords (e.phys va.toNat) 64, s.cellPending s.who w = false
  still : s.flipping (e.phys va.toNat) = false
  first : State.heldIn s.held s (e.phys va.toNat, e.phys va.toNat + 64) = false
  free : ∀ p ∈ s.busy, p.1 < e.phys va.toNat ∨ e.phys va.toNat + 64 ≤ p.1
  unlocked : s.lockHit (s.homeOf kTracked (e.phys va.toNat)) s.ctx.part va.toNat 64 = false
  home : ∀ p ∈ s.words, p.1 < e.phys va.toNat ∨ e.phys va.toNat + 64 ≤ p.1
  sound : ∀ b ∈ s.badWords, b < e.phys va.toNat ∨ e.phys va.toNat + 64 ≤ b
  listed : s.mem.wf = true

/-- A context of the active partition of a cell, which no service context has pre-empted. -/
structure State.Plain (s : State) (h : HartId) (part : Nat) : Prop where
  gang : h.hart < 32
  active : (s.getCell h.cellId).ctx.part = part
  there : lookup h.hart (s.getCell h.cellId).preempted = none

/-! ### A step -/

/-- The current hart's turn issues the instruction at its pc: it is ready, nothing of an earlier instruction is under way, no exception or
enabled interrupt is pending, it stands on no predicted path and in no loop, and its granules are there (R52, R63, R226, R277, R280). -/
structure State.Issues (s : State) : Prop where
  turn : s.turn = .hart
  ready : s.ready s.cur = true
  fresh : s.me.insn = none
  noWait : s.me.wait = none
  noLoop : s.me.loop = none
  noPath : s.me.spec = none
  here : s.me.absent = []
  noImprecise : s.me.imprecise = none
  noInterrupt : s.mipOf s.cur &&& s.me.csr.mie = 0

/-- The pc of the current hart is translated by an entry that its cell's TLB holds, and the four bytes there are those of a word, in
memory and not yet in the instruction store (R44, R271, R275). -/
structure State.FetchesAt (s : State) (e : TlbEntry) (w : Nat) : Prop where
  aligned : e.phys s.me.pc.toNat % 4 = 0
  below : s.me.pc.toNat < 2 ^ 57
  outside : inWindow s.me.pc = false
  root : s.rootValid s.cur.dieId s.ctx.part s.cur.pkg = true
  hit : tlbFind (s.getCell s.myCell).tlb s.ctx.part s.cur.pkg s.me.pc.toNat = some e
  allows : leafAllows .fetch s.me.mode e = true
  there : physFault e (e.phys s.me.pc.toNat) = false
  words : e.kind ≠ kBlock
  absent : lookup (e.phys s.me.pc.toNat) (s.getCell s.myCell).istore = none
  home : lookup (State.wordOf (e.phys s.me.pc.toNat)) s.words = none
  good : s.isBad (State.wordOf (e.phys s.me.pc.toNat)) = false
  one : s.kindAt e (e.phys s.me.pc.toNat) ≠ kReplicated
  fits : w < 2 ^ 32
  bytes : s.mem.readBytes (e.phys s.me.pc.toNat) 4 = bytesOfWord w

/-- The state in which a fetched word is executed: its processor's cycles have counted, the selection pointer stands at the hart, and
the instruction store holds the word. -/
def State.fetched (s : State) (e : TlbEntry) (w : Nat) : State :=
  s.begun.updCell s.myCell fun c => { c with istore := ((e.phys s.me.pc.toNat, w) :: c.istore).take 16384 }

/-- The same state with the word noted as the instruction under way. -/
def State.issued (s : State) (e : TlbEntry) (w : Nat) : State := (s.fetched e w).updMe fun h => { h with insn := some w }

/-- What a step does around the meaning of an instruction: the turn ends, and the next one is chosen. -/
def Out.ends (s : State) (o : Out) : Out := o.map fun t => s.goOn (State.endTurn s.cur t)

end Sys2Proof.Machine

namespace Sys2Proof

/-- The row of the opcode table that an event is. -/
def Event.Names : Event → Instr → Prop
  | .interruptTaken h, i => i = .interruptTaken h
  | .impreciseException h, i => i = .impreciseException h
  | .hartWake h, i => i = .hartWake h
  | .engineCommandStart c eng, i => i = .engineCommandStart c eng
  | .engineCommandDone c eng, i => i = .engineCommandDone c eng
  | .srcStarved c eng, i => i = .srcStarved c eng
  | .bufferedCommandStart c proc, i => i = .bufferedCommandStart c proc
  | .commitBufferCommit h, i => i = .commitBufferCommit h
  | .commitBufferDiscard h, i => i = .commitBufferDiscard h
  | .wordWrite id, i => i = .wordWrite id
  | .readRequest id, i => i = .readRequest id
  | .writeRequest id, i => i = .writeRequest id
  | .poisonRequest id, i => i = .poisonRequest id
  | .clearRequest id, i => i = .clearRequest id
  | .presenceStatusRead id, i => i = .presenceStatusRead id
  | .deferRetry id, i => i = .deferRetry id
  | .blockAnswerLands id, i => i = .blockAnswerLands id
  | .blockWriteAnswer id, i => i = .blockWriteAnswer id
  | .remoteFlagOp id, i => i = .remoteFlagOp id
  | .msendRecordArrives id, i => i = .msendRecordArrives id
  | .msendRetry id, i => i = .msendRetry id
  | .mmsendReceive id, i => i = .mmsendReceive id
  | .loadMiss id, i => i = .loadMiss id
  | .registration id, i => i = .registration id
  | .homeAtomicOp id, i => i = .homeAtomicOp id
  | .writeBack c w, i => i = .writeBack c w
  | .rangeLock id, i => i = .rangeLock id
  | .forward id, i => i = .forward id
  | .transferRecall c w, i => i = .transferRecall c w
  | .registrationGrant id, i => i = .registrationGrant id
  | .l1Fill id, i => i = .l1Fill id
  | .capacityEviction c w, i => i = .capacityEviction c w
  | .postPerform id, i => i = .postPerform id
  | .postAck id, i => i = .postAck id
  | .homeMigration pkg page die, i => i = .homeMigration pkg page die
  | .recordFetch c ch, i => i = .recordFetch c ch
  | .recordStart c ch, i => i = .recordStart c ch
  | .recordComplete c ch, i => i = .recordComplete c ch
  | .taskStealable pkg task, i => i = .taskStealable pkg task
  | .solverDecision d set, i => i = .solverDecision d set
  | .decisionWriteRetry d set, i => i = .decisionWriteRetry d set
  | .cellDone c, i => i = .cellDone c
  | .retentionExpiry c, i => i = .retentionExpiry c
  | .lotteryDraw d, i => i = .lotteryDraw d
  | .queueTailSnoop d q, i => i = .queueTailSnoop d q
  | .launchCommand d q k, i => i = .launchCommand d q k
  | .copyCommand d q k, i => i = .copyCommand d q k
  | .signalCommand d q k, i => i = .signalCommand d q k
  | .waitCommand d q k, i => i = .waitCommand d q k
  | .loadImage d q k, i => i = .loadImage d q k
  | .graphCommand d q k, i => i = .graphCommand d q k
  | .swapCommand d q k, i => i = .swapCommand d q k
  | .fenceCommand d q k, i => i = .fenceCommand d q k
  | .condNode d q k, i => i = .condNode d q k
  | .endNode d q k, i => i = .endNode d q k
  | .feWaitPoll d q k, i => i = .feWaitPoll d q k
  | .feWaitWake d q k, i => i = .feWaitWake d q k
  | .placementAttempt d q k, i => i = .placementAttempt d q k
  | .reserveRequest c d q k, i => i = .reserveRequest c d q k
  | .placementBackoffExpiry d q k, i => i = .placementBackoffExpiry d q k
  | .gangRelease d q k, i => i = .gangRelease d q k
  | .coalesceDeadline d ring, i => i = .coalesceDeadline d ring
  | .coalesceDlWrite d ring value, i => i = .coalesceDlWrite d ring value
  | .leaseBeat d, i => i = .leaseBeat d
  | .leaseClaim d, i => i = .leaseClaim d
  | .hangMonitorFire d, i => i = .hangMonitorFire d
  | .ferryDispatch d, i => i = .ferryDispatch d
  | .reboot d agent, i => i = .reboot d agent
  | .handback d, i => i = .handback d
  | .feIrq d agent value, i => i = .feIrq d agent value
  | .fuseSvn d agent value, i => i = .fuseSvn d agent value
  | .biasCmd d agent value, i => i = .biasCmd d agent value
  | .biasFlipComplete d, i => i = .biasFlipComplete d
  | .hostMemRead pkg addr size, i => i = .hostMemRead pkg addr size
  | .hostMemWrite pkg addr size value, i => i = .hostMemWrite pkg addr size value
  | .hostLinkDown pkg, i => i = .hostLinkDown pkg
  | .serviceContextStart c agent value, i => i = .serviceContextStart c agent value
  | .bankEviction h, i => i = .bankEviction h
  | .swapGraceExpiry c, i => i = .swapGraceExpiry c
  | .debugHaltRequest c agent value, i => i = .debugHaltRequest c agent value
  | .debugHaltReached c, i => i = .debugHaltReached c
  | .debugResume c agent value, i => i = .debugResume c agent value
  | .debugStep c agent value, i => i = .debugStep c agent value
  | .debugRegRead c agent value, i => i = .debugRegRead c agent value
  | .debugRegWrite c agent value, i => i = .debugRegWrite c agent value
  | .dieElogRead d, i => i = .dieElogRead d
  | .dieEinj d agent value, i => i = .dieEinj d agent value
  | .portRetrain pkg port, i => i = .portRetrain pkg port
  | .registerWrite d agent off value, i => i = .registerWrite d agent off value
  | .pageWalk d part va, i => i = .pageWalk d part va
  | .linkReplay pkg port, i => i = .linkReplay pkg port
  | .portDown pkg port, i => i = .portDown pkg port
  | .linkOperationArrive src dst lane, i => i = .linkOperationArrive src dst lane
  | .destinationUnreachable src dst, i => i = .destinationUnreachable src dst
  | .powerOn pkg, i => i = .powerOn pkg
  | .keyStoreSign d len msg, i => i = .keyStoreSign d len msg
  | .attestationRequest pkg nonce, i => i = .attestationRequest pkg nonce
  | .powerWindow pkg watts, i => i = .powerWindow pkg watts
  | .powerSurge pkg watts, i => i = .powerSurge pkg watts
  | .islandLevelChange d n level, i => i = .islandLevelChange d n level
  | .correctableError c array addr synd, i => i = .correctableError c array addr synd
  | .uncorrectableError c array addr synd, i => i = .uncorrectableError c array addr synd
  | .illegalInstruction word, i => i = .illegalInstruction word
  | .instructionFetchFault cause va, i => i = .instructionFetchFault cause va
  | .storeWriteThrough id die, i => i = .storeWriteThrough id die
  | .portUp pkg port, i => i = .portUp pkg port
  | .hostLinkUp pkg, i => i = .hostLinkUp pkg

end Sys2Proof
end

