-- ==== Sys2Proof/Certificates/Slice0/Obligations.lean ====
section
/-!
DEFINITION. The statements about the machine that are to be proved.
-/
open Sys2Proof Sys2Proof.Machine

/-- R54, R55: the integer instructions compute on x[rs1] and the sign-extended immediate or x[rs2]; shift amounts are the immediate or the low bits
of x[rs2]; the W forms sign-extend the low 32 bits; a product's halves and a quotient's corners are as the rules give them. Each completes
in every state, writing x[rd] only. -/
def Obligations.IntegerResults : Prop :=
  (∀ (rd rs1 imm amt : Nat) (s : State),
  let a := s.xr rs1
  let i := sx 12 imm
  exec (.lui rd imm) s = .next (s.wrote rd (wordOfInt (sx 32 (imm * 4096)))) ∧
  exec (.auipc rd imm) s = .next (s.wrote rd (s.me.pc + wordOfInt (sx 32 (imm * 4096)))) ∧
  exec (.addi rd rs1 imm) s = .next (s.wrote rd (wordOfInt (a.toInt + i))) ∧
  exec (.slti rd rs1 imm) s = .next (s.wrote rd (if a.toInt < i then 1 else 0)) ∧
  exec (.sltiu rd rs1 imm) s = .next (s.wrote rd (if a.toNat < (wordOfInt i).toNat then 1 else 0)) ∧
  exec (.xori rd rs1 imm) s = .next (s.wrote rd (a ^^^ wordOfInt i)) ∧
  exec (.ori rd rs1 imm) s = .next (s.wrote rd (a ||| wordOfInt i)) ∧
  exec (.andi rd rs1 imm) s = .next (s.wrote rd (a &&& wordOfInt i)) ∧
  exec (.slli rd rs1 amt) s = .next (s.wrote rd (BitVec.ofNat 64 (a.toNat * 2 ^ amt))) ∧
  exec (.srli rd rs1 amt) s = .next (s.wrote rd (BitVec.ofNat 64 (a.toNat / 2 ^ amt))) ∧
  exec (.srai rd rs1 amt) s = .next (s.wrote rd (wordOfInt (a.toInt / 2 ^ amt))) ∧
  exec (.addiw rd rs1 imm) s = .next (s.wrote rd (wordOfInt (sx 32 (a.toInt + i)))) ∧
  exec (.slliw rd rs1 amt) s = .next (s.wrote rd (wordOfInt (sx 32 (a.toNat * 2 ^ amt : Nat)))) ∧
  exec (.srliw rd rs1 amt) s = .next (s.wrote rd (wordOfInt (sx 32 (a.toNat % 2 ^ 32 / 2 ^ amt : Nat)))) ∧
  exec (.sraiw rd rs1 amt) s = .next (s.wrote rd (wordOfInt (sx 32 a.toNat / 2 ^ amt)))) ∧
  (∀ (rd rs1 rs2 : Nat) (s : State),
  let a := s.xr rs1
  let b := s.xr rs2
  exec (.add rd rs1 rs2) s = .next (s.wrote rd (wordOfInt (a.toInt + b.toInt))) ∧
  exec (.sub rd rs1 rs2) s = .next (s.wrote rd (wordOfInt (a.toInt - b.toInt))) ∧
  exec (.sll rd rs1 rs2) s = .next (s.wrote rd (BitVec.ofNat 64 (a.toNat * 2 ^ (b.toNat % 64)))) ∧
  exec (.slt rd rs1 rs2) s = .next (s.wrote rd (if a.toInt < b.toInt then 1 else 0)) ∧
  exec (.sltu rd rs1 rs2) s = .next (s.wrote rd (if a.toNat < b.toNat then 1 else 0)) ∧
  exec (.xor rd rs1 rs2) s = .next (s.wrote rd (a ^^^ b)) ∧
  exec (.srl rd rs1 rs2) s = .next (s.wrote rd (BitVec.ofNat 64 (a.toNat / 2 ^ (b.toNat % 64)))) ∧
  exec (.sra rd rs1 rs2) s = .next (s.wrote rd (wordOfInt (a.toInt / 2 ^ (b.toNat % 64)))) ∧
  exec (.or rd rs1 rs2) s = .next (s.wrote rd (a ||| b)) ∧
  exec (.and rd rs1 rs2) s = .next (s.wrote rd (a &&& b)) ∧
  exec (.addw rd rs1 rs2) s = .next (s.wrote rd (wordOfInt (sx 32 (a.toInt + b.toInt)))) ∧
  exec (.subw rd rs1 rs2) s = .next (s.wrote rd (wordOfInt (sx 32 (a.toInt - b.toInt)))) ∧
  exec (.sllw rd rs1 rs2) s = .next (s.wrote rd (wordOfInt (sx 32 (a.toNat * 2 ^ (b.toNat % 32) : Nat)))) ∧
  exec (.srlw rd rs1 rs2) s = .next (s.wrote rd (wordOfInt (sx 32 (a.toNat % 2 ^ 32 / 2 ^ (b.toNat % 32) : Nat)))) ∧
  exec (.sraw rd rs1 rs2) s = .next (s.wrote rd (wordOfInt (sx 32 a.toNat / 2 ^ (b.toNat % 32))))) ∧
  (∀ (rd rs1 rs2 : Nat) (s : State),
  let a := s.xr rs1
  let b := s.xr rs2
  let aw := sx 32 a.toNat
  let bw := sx 32 b.toNat
  let au : Nat := a.toNat % 2 ^ 32
  let bu : Nat := b.toNat % 2 ^ 32
  exec (.mul rd rs1 rs2) s = .next (s.wrote rd (wordOfInt (a.toInt * b.toInt))) ∧
  exec (.mulh rd rs1 rs2) s = .next (s.wrote rd (wordOfInt (a.toInt * b.toInt / 2 ^ 64))) ∧
  exec (.mulhsu rd rs1 rs2) s = .next (s.wrote rd (wordOfInt (a.toInt * b.toNat / 2 ^ 64))) ∧
  exec (.mulhu rd rs1 rs2) s = .next (s.wrote rd (BitVec.ofNat 64 (a.toNat * b.toNat / 2 ^ 64))) ∧
  exec (.div rd rs1 rs2) s = .next (s.wrote rd (wordOfInt (if b = 0 then -1 else Int.tdiv a.toInt b.toInt))) ∧
  exec (.divu rd rs1 rs2) s = .next (s.wrote rd (if b = 0 then wordOfInt (-1) else BitVec.ofNat 64 (a.toNat / b.toNat))) ∧
  exec (.rem rd rs1 rs2) s = .next (s.wrote rd (wordOfInt (if b = 0 then a.toInt else Int.tmod a.toInt b.toInt))) ∧
  exec (.remu rd rs1 rs2) s = .next (s.wrote rd (BitVec.ofNat 64 (if b = 0 then a.toNat else a.toNat % b.toNat))) ∧
  exec (.mulw rd rs1 rs2) s = .next (s.wrote rd (wordOfInt (sx 32 (aw * bw)))) ∧
  exec (.divw rd rs1 rs2) s = .next (s.wrote rd (wordOfInt (if bw = 0 then -1 else sx 32 (Int.tdiv aw bw)))) ∧
  exec (.divuw rd rs1 rs2) s = .next (s.wrote rd (wordOfInt (if bu = 0 then -1 else sx 32 (au / bu : Nat)))) ∧
  exec (.remw rd rs1 rs2) s = .next (s.wrote rd (wordOfInt (if bw = 0 then aw else sx 32 (Int.tmod aw bw)))) ∧
  exec (.remuw rd rs1 rs2) s = .next (s.wrote rd (wordOfInt (sx 32 (if bu = 0 then au else au % bu : Nat)))))

/-- R44, R54: a jump writes pc + 4 to x[rd] and goes to its target, a taken branch goes to its target and one not taken to the
next word; nothing else changes. A target with bit 1 set raises instruction-address-misaligned (0) with the target in mtval
and no write, and so only when the branch is taken. -/
def Obligations.JumpsAndBranches : Prop := ∀ (rd rs1 rs2 imm off : Nat) (s : State), s.me.spec = none →
  let a := s.xr rs1
  let b := s.xr rs2
  let jump := fun t : Word => if t.toNat % 4 < 2 then s.completes (s.me.writes rd (s.me.pc + 4)) t else s.raises 0 t
  let target := s.me.pc + wordOfInt (sx 13 off)
  let branch := fun taken : Bool =>
    if taken then (if target.toNat % 4 < 2 then s.completes s.me target else s.raises 0 target) else s.passed
  exec (.jal rd off) s = .next (jump (s.me.pc + wordOfInt (sx 21 off))) ∧
  exec (.jalr rd rs1 imm) s = .next (jump (BitVec.ofNat 64 ((a + wordOfInt (sx 12 imm)).toNat / 2 * 2))) ∧
  exec (.beq rs1 rs2 off) s = .next (branch (decide (a = b))) ∧
  exec (.bne rs1 rs2 off) s = .next (branch (decide (a ≠ b))) ∧
  exec (.blt rs1 rs2 off) s = .next (branch (decide (a.toInt < b.toInt))) ∧
  exec (.bge rs1 rs2 off) s = .next (branch (decide (b.toInt ≤ a.toInt))) ∧
  exec (.bltu rs1 rs2 off) s = .next (branch (decide (a.toNat < b.toNat))) ∧
  exec (.bgeu rs1 rs2 off) s = .next (branch (decide (b.toNat ≤ a.toNat)))

/-- R54, R213: a load completes with the bytes of its word, extended: from the cell's L1 where the word is OWNED or VALID; else from
the home, which serves it at once when it is free and the page is not replicated, leaving the word VALID in the L1; else with
the word that answers its miss, whose bytes the low bits of the virtual address name (R270). -/
def Obligations.LoadsComplete : Prop := ∀ (rd rs1 imm : Nat) (s : State) (e : TlbEntry),
  ∀ p ∈ [(Instr.lb rd rs1 imm, 1, true), (.lh rd rs1 imm, 2, true), (.lw rd rs1 imm, 4, true), (.ld rd rs1 imm, 8, true),
    (.lbu rd rs1 imm, 1, false), (.lhu rd rs1 imm, 2, false), (.lwu rd rs1 imm, 4, false)],
  let va := s.xr rs1 + wordOfInt (sx 12 imm)
  let qa := e.phys va.toNat
  let w := State.wordOf qa
  let value := fun d : Word => loaded p.2.1 p.2.2 (bytesAt d qa p.2.1)
  s.Reaches .load va p.2.1 e →
    (s.me.answer = none → s.ownPending s.who w = false → ∀ c, s.l1Get s.myCell w = some c →
      exec p.1 s = .next (s.wrote rd (value c.data))) ∧
    (s.me.answer = none → s.cellPending s.who w = false → s.l1Get s.myCell w = none → s.HomeFree (s.accessOf va p.2.1 e) →
      s.kindAt e qa ≠ kReplicated → s.isBad w = false → s.hostGone qa = false →
      exec p.1 s = .next ((s.l1Set s.myCell w ⟨false, s.mem.word w⟩).wrote rd (value (s.mem.word w)))) ∧
    (∀ d, s.me.answer = some (.word d) → exec p.1 s = .next (s.wrote rd (loaded p.2.1 p.2.2 (bytesAt d va.toNat p.2.1))))

/-- R54, R213: a base store on a WORD_TRACKED page. Into a word the cell owns it is written; for a word that is HOME the hart goes on, the home
registers the word to the cell when the request reaches it, and the cell holds it OWNED, with the bytes stored over the home's value, once
the grant reaches it. Other harts' reservations of the word are lost (R59). That the hart goes on before its request is served, where the home
lies on its package and the word is HOME there, or is stored whole and owned by another cell, is the model's reading of R120 and R319 (log
entry 4). Where the home lies on another package, or another cell owns a word that is stored in part, the hart waits for the answer of its
registration, with which the store completes. -/
def Obligations.TrackedStoresComplete : Prop := ∀ (rs1 rs2 imm : Nat) (s : State) (e : TlbEntry) (c : CellId),
  ∀ p ∈ [(Instr.sb rs1 rs2 imm, 1), (.sh rs1 rs2 imm, 2), (.sw rs1 rs2 imm, 4), (.sd rs1 rs2 imm, 8)],
  let va := s.xr rs1 + wordOfInt (sx 12 imm)
  let qa := e.phys va.toNat
  let w := State.wordOf qa
  (va.toNat % p.2 = 0 → inWindow va = false → s.me.answer = some .done → exec p.1 s = .next s.passed) ∧
  (s.Reaches .store va p.2 e → qa % p.2 = 0 → s.kindAt e qa = kTracked → s.me.answer = none → s.cellPending s.who w = false →
    (∀ d, s.l1Get s.myCell w = some ⟨true, d⟩ →
      exec p.1 s = .next (((s.l1Set s.myCell w ⟨true, stored d qa p.2 (s.xr rs2)⟩).loseResv w (some s.who)).passed)) ∧
    (let a := s.accessOf va p.2 e
     (∀ d, s.l1Get s.myCell w ≠ some ⟨true, d⟩) → s.HomeFree a →
      ∃ t u v, exec p.1 s = .next t ∧ exec (.registration s.nextId) t = .next u ∧ exec (.registrationGrant s.nextId) u = .next v ∧
        t = ((s.newOp (.register a (s.xr rs2) none true)).push (.registration s.nextId)).passed ∧
        lookup w u.words = some (.registered s.myCell) ∧ u.getOp s.nextId = some (.register a (s.xr rs2) (some (.word (s.mem.word w))) true) ∧
        u.mem = s.mem ∧ u.cells = t.cells ∧
        v.l1Get s.myCell w = some ⟨true, stored (s.mem.word w) qa p.2 (s.xr rs2)⟩ ∧ v.getOp s.nextId = none ∧
        v.resvs = (s.resvs.filter fun r => !(r.2.1 == w && some r.1 != some s.who))) ∧
    (let a := s.accessOf va p.2 e
     (∀ d, s.l1Get s.myCell w ≠ some ⟨true, d⟩) → p.2 = 8 → c ≠ s.myCell → a.home.pkg = s.cur.pkg → s.flipping qa = false →
      lookup w s.busy = none → State.heldIn s.held s (w, w + 8) = false → s.lockHit a.home a.part va.toNat p.2 = false →
      lookup w s.words = some (.registered c) →
      exec p.1 s = .next ((s.newOp (.register a (s.xr rs2) none true)).push (.registration s.nextId)).passed) ∧
    (let a := s.accessOf va p.2 e
     (∀ d, s.l1Get s.myCell w ≠ some ⟨true, d⟩) → s.homeCut a = false →
      a.home.pkg ≠ s.cur.pkg ∨
        (a.home.pkg = s.cur.pkg ∧ s.flipping qa = false ∧ lookup w s.busy = none ∧ State.heldIn s.held s (w, w + 8) = false ∧
          s.lockHit a.home a.part va.toNat p.2 = false ∧ lookup w s.words = some (.registered c) ∧ (p.2 ≠ 8 ∨ c = s.myCell)) →
      ∃ t, exec p.1 s = .next t ∧ t.me.pc = s.me.pc ∧ t.me.wait = some ⟨.answer, false⟩ ∧
        t.getOp s.nextId = some (.register a (s.xr rs2) none false) ∧ t.mem = s.mem ∧ t.words = s.words ∧
        (a.home.pkg = s.cur.pkg → t.pool = s.pool ++ [.registration s.nextId])))

/-- R54, R213: a base store on a WORD_UNTRACKED or WORD_REPLICATED page retires once it is written through: an operation that holds the
bytes is on its way to the home, memory is as before, and a copy of the word in the L1 takes the new value on an untracked page and is
INVALID on a replicated one. R221 does not say what becomes of a copy that an alias of the page holds OWNED: that it goes home first while the
word is registered to the cell, and is otherwise dropped, is the model's choice (log entry 18). -/
def Obligations.WrittenThroughStoresComplete : Prop := ∀ (rs1 rs2 imm : Nat) (s : State) (e : TlbEntry),
  ∀ p ∈ [(Instr.sb rs1 rs2 imm, 1), (.sh rs1 rs2 imm, 2), (.sw rs1 rs2 imm, 4), (.sd rs1 rs2 imm, 8)],
  let va := s.xr rs1 + wordOfInt (sx 12 imm)
  let qa := e.phys va.toNat
  let w := State.wordOf qa
  let a := s.accessOf va p.2 e
  s.Reaches .store va p.2 e → qa % p.2 = 0 → a.kind ≠ kTracked → s.me.answer = none → s.cellPending s.who w = false →
  s.homeCut a = false → s.flipping qa = false → s.lockHit a.home a.part va.toNat p.2 = false →
  let owned := match s.l1Get s.myCell w with
    | some ⟨true, d⟩ => if lookup w s.words = some (WordState.registered s.myCell) then some d else none
    | _ => none
  let good := (s.l1Get s.myCell w).filter fun c => !c.owned || owned.isSome
    ∃ t op, exec p.1 s = .next t ∧ t.getOp s.nextId = some op ∧
      op = .post a none (byteMask (qa % 8) p.2) (stored 0 qa p.2 (s.xr rs2)) false [] false ∧
      t.me = s.me.retired (s.me.pc + 4) ∧ t.mem = ((owned.map fun d => s.mem.setWord w d).getD s.mem) ∧
      t.words = (if owned.isSome then erase w s.words else s.words) ∧ t.resvs = s.resvs ∧
      (a.home.pkg = s.cur.pkg → t.pool = s.pool ++ [.storeWriteThrough s.nextId a.home.die]) ∧
      t.l1Get s.myCell w = (if a.kind = kUntracked then good.map fun c => ⟨false, stored c.data qa p.2 (s.xr rs2)⟩
        else none)

/-- R58, R59: an LR returns its bytes and reserves the aligned word in place of any other reservation of the hart; an SC that finds the
reservation of that word by an LR of its width stores and returns 0, one that does not stores nothing and returns 1, and either way
the hart's reservation is lost. The cell's copy becomes INVALID. rl: the hart waits until its release at ms.scope is settled; aq: it
acquires at ms.scope afterwards. On a replicated page the store is on its way to the other dies' replicas. Where the word's home is host
memory or another package, the operation is sent and the hart waits for its answer, with which it completes. An LR of a word that memory
holds with an uncorrectable error raises load access fault (the model's reading of R317, log entry 33), and one of a replicated page waits
while the replica of its die is behind (of R212, log entry 18). -/
def Obligations.ReservationsComplete : Prop := ∀ (aq rl rd rs1 rs2 : Nat) (s : State) (e : TlbEntry) (d : Word),
  ∀ p ∈ [(Instr.lrW aq rl rd rs1, Instr.scW aq rl rd rs1 rs2, 4), (.lrD aq rl rd rs1, .scD aq rl rd rs1 rs2, 8)],
  let va := s.xr rs1
  let qa := e.phys va.toNat
  let w := State.wordOf qa
  let a := s.accessOf va p.2.2 e
  let held := s.resvs.contains (s.who, w, p.2.2 == 8)
  let others := s.resvs.filter fun r => r.1 ≠ s.who
  let v := s.withoutCopy w
  let far := a.home.pkg ≠ s.cur.pkg ∨ inHost qa = true
  let sent := fun (i : Instr) (k : AtomicKind) (x : Word) => ∃ t, exec i s = .next t ∧ t.me.pc = s.me.pc ∧
    t.me.wait = some ⟨.answer, false⟩ ∧ t.getOp s.nextId = some (.atomic a k x none) ∧ t.mem = s.mem ∧ t.resvs = s.resvs ∧
    (a.home.pkg = s.cur.pkg → t.pool = s.pool ++ [.homeAtomicOp s.nextId])
  (qa % p.2.2 = 0 → inHost qa = false → s.me.answer = none → s.cellPending s.who w = false → s.HomeFree a → s.RlSettled rl →
    (s.Reaches .load va p.2.2 e → s.isBad w = false → (a.kind = kReplicated → lookup (s.cur.die, w) s.replicas = none) →
      exec p.1 s = .next ((State.aqDone { v with resvs := (s.who, w, p.2.2 == 8) :: others } aq).wrote rd
        (loaded p.2.2 true (bytesAt (s.mem.word w) qa p.2.2)))) ∧
    (s.Reaches .load va p.2.2 e → s.me.spec = none → s.isBad w = true → exec p.1 s = .next (s.raises 5 va)) ∧
    (s.Reaches .load va p.2.2 e → s.isBad w = false → a.kind = kReplicated → lookup (s.cur.die, w) s.replicas ≠ none →
      ∃ t, exec p.1 s = .next t ∧ t.me.pc = s.me.pc ∧ t.me.wait.isSome ∧ t.mem = s.mem ∧ t.resvs = s.resvs) ∧
    (s.Reaches .store va p.2.2 e → held = false →
      exec p.2.1 s = .next ((State.aqDone { v with resvs := others } aq).wrote rd 1)) ∧
    (s.Reaches .store va p.2.2 e → held = true →
      ∃ t, exec p.2.1 s = .next t ∧ t.me = (s.me.writes rd 0).retired (s.me.pc + 4) ∧
        t.mem = v.mem.setWord w (stored (v.mem.word w) qa p.2.2 (s.xr rs2)) ∧
        t.resvs = (others.filter fun r => r.2.1 != w) ∧ t.l1Get s.myCell w = none ∧ t.words = v.words ∧
        (a.kind = kReplicated → t.getOp s.nextId = some (.post a none (byteMask (qa % 8) p.2.2) (stored 0 qa p.2.2 (s.xr rs2)) false
          (State.replicaDies (stackDie w)) true)))) ∧
  (s.me.answer = none → s.cellPending s.who w = false → far → s.homeCut a = false → s.RlSettled rl →
    (s.Reaches .load va p.2.2 e → sent p.1 .lr 0) ∧ (s.Reaches .store va p.2.2 e → sent p.2.1 .sc (s.xr rs2))) ∧
  (va.toNat % p.2.2 = 0 → inWindow va = false → s.me.answer = some (.word d) →
    exec p.1 s = .next ((s.aqDone aq).wrote rd (loaded p.2.2 true (bytesAt d va.toNat p.2.2))) ∧
    exec p.2.1 s = .next ((s.aqDone aq).wrote rd d)) ∧
  (¬ s.RlSettled rl → s.me.answer = none →
    (s.Reaches .load va p.2.2 e → exec p.1 s = .next (s.await .retry false)) ∧
    (s.Reaches .store va p.2.2 e → exec p.2.1 s = .next (s.await .retry false)))

/-- R58, R60: an AMO returns the old bytes, sign-extended, and puts at the home the result of its operation on them and x[rs2]; the
cell's copy becomes INVALID, and the reservations that other harts hold of the word are lost. rl: the hart waits until its release at
ms.scope is settled; aq: it acquires at ms.scope afterwards. On a replicated page the store is on its way to the other dies' replicas.
Where the word's home is host memory or another package, the operation is sent and the hart waits for its answer, with which it
completes. An AMO of a word that memory holds with an uncorrectable error raises load access fault (the model's reading of R317, log entry
33). -/
def Obligations.AmosComplete : Prop := ∀ (aq rl rd rs1 rs2 : Nat) (s : State) (e : TlbEntry) (d : Word),
  ∀ p ∈ [(Instr.amoswapW aq rl rd rs1 rs2, 4, AtomicKind.swap), (.amoswapD aq rl rd rs1 rs2, 8, .swap),
    (.amoaddW aq rl rd rs1 rs2, 4, .add), (.amoaddD aq rl rd rs1 rs2, 8, .add), (.amoxorW aq rl rd rs1 rs2, 4, .xor),
    (.amoxorD aq rl rd rs1 rs2, 8, .xor), (.amoandW aq rl rd rs1 rs2, 4, .and), (.amoandD aq rl rd rs1 rs2, 8, .and),
    (.amoorW aq rl rd rs1 rs2, 4, .or), (.amoorD aq rl rd rs1 rs2, 8, .or), (.amominW aq rl rd rs1 rs2, 4, .min),
    (.amominD aq rl rd rs1 rs2, 8, .min), (.amomaxW aq rl rd rs1 rs2, 4, .max), (.amomaxD aq rl rd rs1 rs2, 8, .max),
    (.amominuW aq rl rd rs1 rs2, 4, .minu), (.amominuD aq rl rd rs1 rs2, 8, .minu), (.amomaxuW aq rl rd rs1 rs2, 4, .maxu),
    (.amomaxuD aq rl rd rs1 rs2, 8, .maxu)],
  let va := s.xr rs1
  let qa := e.phys va.toNat
  let w := State.wordOf qa
  let n := p.2.1
  let old := bytesAt (s.mem.word w) qa n
  let new := amoNew p.2.2 n old ((s.xr rs2).toNat % 256 ^ n)
  let a := s.accessOf va n e
  let v := s.withoutCopy w
  (s.Reaches .amo va n e → qa % n = 0 → inHost qa = false → s.me.answer = none → s.cellPending s.who w = false → s.HomeFree a →
    s.RlSettled rl → s.isBad w = true → s.me.spec = none → exec p.1 s = .next (s.raises 5 va)) ∧
  (s.Reaches .amo va n e → qa % n = 0 → inHost qa = false → s.me.answer = none → s.cellPending s.who w = false → s.HomeFree a →
    s.RlSettled rl → s.isBad w = false →
    ∃ t, exec p.1 s = .next t ∧ t.me = (s.me.writes rd (loaded n true old)).retired (s.me.pc + 4) ∧
      t.mem = v.mem.setWord w (stored (v.mem.word w) qa n (BitVec.ofNat 64 new)) ∧
      t.resvs = (s.resvs.filter fun r => r.2.1 != w || r.1 = s.who) ∧ t.l1Get s.myCell w = none ∧ t.words = v.words ∧
      (aq = 1 → fld s.me.csr.msScope 0 3 ≠ 0 → ∀ c ∈ (t.getCell s.myCell).l1, c.2.owned = true) ∧
      (a.kind = kReplicated → t.getOp s.nextId = some (.post a none (byteMask (qa % 8) n) (stored 0 qa n (BitVec.ofNat 64 new)) false
        (State.replicaDies (stackDie w)) true))) ∧
  (s.Reaches .amo va n e → s.me.answer = none → s.cellPending s.who w = false → (a.home.pkg ≠ s.cur.pkg ∨ inHost qa = true) →
    s.homeCut a = false → s.RlSettled rl →
    ∃ t, exec p.1 s = .next t ∧ t.me.pc = s.me.pc ∧ t.me.wait = some ⟨.answer, false⟩ ∧
      t.getOp s.nextId = some (.atomic a p.2.2 (s.xr rs2) none) ∧ t.mem = s.mem ∧ t.resvs = s.resvs ∧
      (a.home.pkg = s.cur.pkg → t.pool = s.pool ++ [.homeAtomicOp s.nextId])) ∧
  (va.toNat % n = 0 → inWindow va = false → s.me.answer = some (.word d) →
    exec p.1 s = .next ((s.aqDone aq).wrote rd (loaded n true (bytesAt d va.toNat n)))) ∧
  (s.Reaches .amo va n e → s.me.answer = none → ¬ s.RlSettled rl → exec p.1 s = .next (s.await .retry false))

/-- R57, R64, R66: `fence` with pred or succ zero has no effect; otherwise it completes once the release that it asks for at ms.scope is
settled, and makes the VALID words of the L1 INVALID when succ names R and the scope is above CELL. `fence.i` empties the cell's
instruction store; that it waits until the base stores of the cell have reached memory is the model's reading (log entry 21).
`wfi` completes while a bit of mie AND mip is 1 or once the hart
has been woken, and parks otherwise. None of them writes a register. -/
def Obligations.FencesAndWaitsComplete : Prop := ∀ (fm pred succ rs1 rd imm : Nat) (s : State),
  let scope := fld s.me.csr.msScope 0 3
  let group := fld s.me.csr.msScope 8 8
  let reads := fun set : Nat => set.testBit 3 || set.testBit 1
  let writes := fun set : Nat => set.testBit 2 || set.testBit 0
  let releases := writes pred || (reads pred && writes succ)
  (pred = 0 ∨ succ = 0 → exec (.fence fm pred succ rs1 rd) s = .next s.passed) ∧
  (pred ≠ 0 → succ ≠ 0 → (releases = true → s.released scope group = true) →
    ∃ t, exec (.fence fm pred succ rs1 rd) s = .next t ∧ t.me = s.me.retired (s.me.pc + 4) ∧ t.mem = s.mem ∧
      (t.getCell s.myCell).l1 = (if reads succ && scope != 0 then (s.getCell s.myCell).l1.filter fun c => c.2.owned
        else (s.getCell s.myCell).l1)) ∧
  (pred ≠ 0 → succ ≠ 0 → releases = true → s.released scope group = false →
    ∃ t, exec (.fence fm pred succ rs1 rd) s = .next t ∧ t.me.pc = s.me.pc ∧ t.me.wait.isSome ∧ t.mem = s.mem) ∧
  (s.cellStores s.myCell = false →
    exec (.fenceI imm rs1 rd) s = .next ((s.updCell s.myCell fun c => { c with istore := [], istoreBad := [] }).passed)) ∧
  (s.cellStores s.myCell = true → exec (.fenceI imm rs1 rd) s = .next (s.await .retry false)) ∧
  (s.me.csr.mie &&& s.mipOf s.cur ≠ 0 ∨ s.me.answer = some .done → exec .wfi s = .next s.passed) ∧
  (s.me.csr.mie &&& s.mipOf s.cur = 0 → s.me.answer ≠ some .done → ∃ t, exec .wfi s = .next t ∧ t.me.pc = s.me.pc ∧
    t.me.wait = some ⟨.interrupt, false⟩)

/-- R65: a CSR instruction that the mode may make of an implemented CSR returns the old value and writes the new one, but for the
set and clear forms with x0 or 0, which write nothing. That a write of minstret counts its own retirement on top of what it wrote, and that a
write of a loop's register in a live loop is overwritten as the instruction retires, are the model's readings (log entry 19).
R11, R65: which accesses to a CSR raise an illegal-instruction exception: any to a number that R11 and R12 do not list (0xC01
among them), a write to a read-only CSR, any from U mode to a machine CSR, and a read of cycle or instret from U mode while its bit of
mcounteren is 0; in every form of the instructions. -/
def Obligations.CsrAccesses : Prop :=
  (∀ (rd n rs1 u : Nat) (s : State),
  let old := s.csrGet s.cur n
  let v := s.xr rs1
  let w := BitVec.ofNat 64 u
  (s.csrLegal n true = true →
    exec (.csrrw rd n rs1) s = .next ((s.csrSet s.cur n v).wrote rd old) ∧
    exec (.csrrwi rd n u) s = .next ((s.csrSet s.cur n w).wrote rd old) ∧
    (rs1 ≠ 0 → exec (.csrrs rd n rs1) s = .next ((s.csrSet s.cur n (old ||| v)).wrote rd old) ∧
      exec (.csrrc rd n rs1) s = .next ((s.csrSet s.cur n (old &&& ~~~v)).wrote rd old)) ∧
    (u ≠ 0 → exec (.csrrsi rd n u) s = .next ((s.csrSet s.cur n (old ||| w)).wrote rd old) ∧
      exec (.csrrci rd n u) s = .next ((s.csrSet s.cur n (old &&& ~~~w)).wrote rd old))) ∧
  (s.csrLegal n false = true →
    exec (.csrrs rd n 0) s = .next (s.wrote rd old) ∧ exec (.csrrc rd n 0) s = .next (s.wrote rd old) ∧
    exec (.csrrsi rd n 0) s = .next (s.wrote rd old) ∧ exec (.csrrci rd n 0) s = .next (s.wrote rd old))) ∧
  (∀ (rd n rs1 u : Nat) (s : State), s.me.spec = none →
  let machine := [0x300, 0x301, 0x304, 0x305, 0x306, 0x340, 0x341, 0x342, 0x343, 0x344, 0xB00, 0xB02, 0xF11, 0xF12, 0xF13, 0xF14,
    0x7C0, 0x7C1, 0x7C2, 0x7C3, 0x7C4]
  let user := (List.range 16).map (0x800 + ·) ++ (List.range 10).map (0xCC0 + ·) ++ [0xC00, 0xC02]
  let readOnly := (List.range 10).map (0xCC0 + ·) ++ [0x344, 0xC00, 0xC02, 0xF11, 0xF12, 0xF13, 0xF14, 0x7C1, 0x7C2, 0x7C4]
  let counterOff := (n = 0xC00 ∧ wbit s.me.csr.mcounteren 0 = false) ∨ (n = 0xC02 ∧ wbit s.me.csr.mcounteren 2 = false)
  let unreadable := (n ∉ machine ∧ n ∉ user) ∨ (s.me.mode = .u ∧ (n ∈ machine ∨ counterOff))
  (s.csrLegal n false = false ↔ unreadable) ∧ (s.csrLegal n true = false ↔ unreadable ∨ n ∈ readOnly) ∧
  let bad := fun i : Instr => exec i s = .next (s.raises 2 (BitVec.ofNat 64 ((encode i).getD 0)))
  (unreadable ∨ n ∈ readOnly → bad (.csrrw rd n rs1) ∧ bad (.csrrwi rd n u) ∧
    (rs1 ≠ 0 → bad (.csrrs rd n rs1) ∧ bad (.csrrc rd n rs1)) ∧ (u ≠ 0 → bad (.csrrsi rd n u) ∧ bad (.csrrci rd n u))) ∧
  (unreadable → bad (.csrrs rd n 0) ∧ bad (.csrrc rd n 0) ∧ bad (.csrrsi rd n 0) ∧ bad (.csrrci rd n 0)))

/-- R11, R12, R286: what a write of a CSR leaves in it: each row's implemented bits, mstatus.MPP and mtvec.MODE made legal, misa fixed, a
SCOPE of ms.scope above 4 ignored and its reserved bits 0, and IMM, EBRK and SEL of dbg.ctl, a SEL of 24 to 31 ignored; its HREQ and the other bits
that only ask for something stay as they read before, and a cell that is not halted and is asked to halt notes the request. -/
def Obligations.CsrFields : Prop := ∀ (s : State) (h : HartId) (v : Word),
  let after := fun n : Nat => (s.csrSet h n v).csrGet h n
  after 0x300 = BitVec.ofNat 64 ((if v.getLsbD 3 then 8 else 0) + (if v.getLsbD 7 then 0x80 else 0) +
    (if v.getLsbD 11 && v.getLsbD 12 then 0x1800 else 0)) ∧
  after 0x301 = 0x8000000000101101 ∧
  (∀ p ∈ [(0x304, 0xF0808), (0x306, 5), (0x340, -1), (0x341, -4), (0x342, -1), (0x343, -1), (0xB00, -1), (0xB02, -1)],
    after p.1 = v &&& wordOfInt p.2) ∧
  after 0x305 = (if v.getLsbD 1 then v &&& wordOfInt (-4) else v) ∧
  (∀ p ∈ [(0x800, 18), (0x801, 8), (0x802, 8), (0x803, 9), (0x804, 2), (0x805, 32), (0x806, 2), (0x807, 32), (0x808, 32), (0x80A, 40),
      (0x80B, 32), (0x80C, 32), (0x80D, 4), (0x80E, 10), (0x7C0, 32)],
    after p.1 = v &&& BitVec.ofNat 64 (2 ^ p.2 - 1)) ∧
  after 0x80F = v &&& wordOfInt (-64) ∧
  (5 ≤ v.toNat % 8 → fld (after 0x809) 0 3 = fld (s.csrGet h 0x809) 0 3) ∧
  (v.toNat % 8 < 5 → fld (after 0x809) 0 3 = v.toNat % 8) ∧ fld (after 0x809) 8 8 = fld v 8 8 ∧
  fld (after 0x809) 3 5 = 0 ∧ fld (after 0x809) 16 48 = 0 ∧
  (let c := h.cellId
   let old := s.csrGet h 0x7C3
   let halted := (s.getCell c).dbg.getLsbD 17
   (after 0x7C3).getLsbD 1 = v.getLsbD 1 ∧ (after 0x7C3).getLsbD 3 = v.getLsbD 3 ∧
   fld (after 0x7C3) 8 5 = (if fld v 8 5 < 24 then fld v 8 5 else fld old 8 5) ∧
   (after 0x7C3).getLsbD 0 = old.getLsbD 0 ∧ (after 0x7C3).getLsbD 2 = old.getLsbD 2 ∧ (after 0x7C3).getLsbD 4 = old.getLsbD 4 ∧
   ((halted = false ∨ v.getLsbD 2 = false) →
     (after 0x7C3).getLsbD 17 = old.getLsbD 17 ∧ fld (after 0x7C3) 20 3 = fld old 20 3) ∧
   (halted = false → v.getLsbD 0 = true → (s.getCell c).haltCause = 0 → ((s.csrSet h 0x7C3 v).getCell c).haltCause = 1))

/-- R61, R62: `ecall` and `ebreak` enter the trap handler, with cause 8 or 11 by the mode and cause 3, mepc at the instruction and
mtval 0; with dbg.ctl.EBRK set, `ebreak` asks for a debug halt with DCAUSE 2 instead and the pc stays at it (R287).
R62, R73: `mret` in M mode restores the mode from MPP and MIE from MPIE, sets MPIE and clears MPP, and goes to mepc; with rep.state
ACT clear no loop is active, and with ACT set the loop resumes whose `rep` stands before the body mepc lies in. -/
def Obligations.TrapsAndReturns : Prop :=
  (∀ s : State, s.me.spec = none →
  exec .ecall s = .next (s.raises (match s.me.mode with | .u => 8 | .m => 11) 0) ∧
  ((s.getCell s.myCell).dbg.getLsbD 3 = false → exec .ebreak s = .next (s.raises 3 0)) ∧
  ((s.getCell s.myCell).dbg.getLsbD 3 = true → (s.getCell s.myCell).dbg.getLsbD 17 = false → (s.getCell s.myCell).haltCause = 0 →
    ∃ t, exec .ebreak s = .next t ∧ (t.getCell s.myCell).haltCause = 2 ∧ t.me = s.me ∧ t.mem = s.mem)) ∧
  (∀ s : State, s.me.mode = .m →
  let c := s.me.csr
  let target := if c.mstatus.getLsbD 11 || c.mstatus.getLsbD 12 then Mode.m else Mode.u
  let idx := fld c.repState 32 3
  let rep := s.peekInsn target (c.mepc - BitVec.ofNat 64 (4 * idx) - 4)
  ∃ t, exec .mret s = .next t ∧ t.me.mode = target ∧
    t.me.csr.mstatus = BitVec.ofNat 64 (0x80 + if c.mstatus.getLsbD 7 then 8 else 0) ∧
    t.me.x = s.me.x ∧ t.me.h = s.me.h ∧ t.me.csr.mepc = c.mepc ∧ t.me.csr.mcause = c.mcause ∧ t.me.csr.mtval = c.mtval ∧
    t.me.csr.minstret = c.minstret + 1 ∧ t.mem = s.mem ∧ (s.me.loop = none → t.me.pc = c.mepc) ∧
    (c.repState.getLsbD 35 = false → t.me.loop = none) ∧
    (c.repState.getLsbD 35 = true → ∀ w rs1 len stride mask, rep = some w → decodeWord w = .ok (.rep rs1 len stride mask) → idx ≤ len →
      t.me.loop = some ⟨c.mepc - BitVec.ofNat 64 (4 * idx), len + 1, stride, mask, fld c.repState 0 32, idx, fld c.repState 36 4⟩))

/-- R62: trap entry, for an exception and for an interrupt, and the return. mepc, mcause and mtval are written; MPIE takes MIE, MIE is 0, MPP the mode;
the mode is M and the pc at the base of mtvec, for an interrupt with MODE 1 at 4 times its code behind it. `mret` in M mode undoes
it, and in U mode is illegal. -/
def Obligations.TrapEntryAndReturn : Prop := ∀ (cause va c : Nat) (h : HartId) (before after : List Nat) (s : State),
  let entered := fun (v u : Hart) (code tval pc : Word) =>
    u.csr.mepc = v.pc &&& ~~~(3 : Word) ∧ u.csr.mcause = code ∧ u.csr.mtval = tval ∧ u.csr.mstatus.getLsbD 7 = v.csr.mstatus.getLsbD 3 ∧
      u.csr.mstatus.getLsbD 3 = false ∧ fld u.csr.mstatus 11 2 = (if v.mode = .m then 3 else 0) ∧ u.mode = .m ∧ u.pc = pc
  let base := fun v : Hart => v.csr.mtvec &&& ~~~(3 : Word)
  let v := s.getHart h
  let on := s.mipOf h &&& v.csr.mie
  let m := s.me.csr.mstatus
  (s.me.spec = none → ∃ t, exec (.instructionFetchFault cause va) s = .next t ∧
    entered s.me t.me (BitVec.ofNat 64 cause) (BitVec.ofNat 64 va) (base s.me)) ∧
  (s.interruptible h = true → s.impreciseDue h = false → (v.mode = .u ∨ v.csr.mstatus.getLsbD 3 = true) →
    [11, 3, 19, 18, 17, 16] = before ++ c :: after →
    on.getLsbD c = true → (∀ d ∈ before, on.getLsbD d = false) → ∃ t, exec (.interruptTaken h) s = .next t ∧
      entered v (t.getHart h) (BitVec.ofNat 64 (2 ^ 63 + c)) 0
        (if v.csr.mtvec.toNat % 4 = 1 then base v + BitVec.ofNat 64 (4 * c) else base v)) ∧
  (s.me.mode = .m → s.me.loop = none → ∃ t u, exec .mret s = .next t ∧ t.me = u ∧ u.mode = (if fld m 11 2 = 0 then .u else .m) ∧
    u.pc = s.me.csr.mepc ∧ u.csr.mstatus.getLsbD 3 = m.getLsbD 7 ∧ u.csr.mstatus.getLsbD 7 = true ∧ fld u.csr.mstatus 11 2 = 0) ∧
  (s.me.mode = .u → s.me.spec = none → exec .mret s = .next (s.raises 2 0x30200073))

/-- R90, R92, R93, R273: in M mode `tlbi` drops the translations it names from the TLBs within its reach; `tlbsync` completes when no store
of the hart, posted ones and drain rows among them, is unacknowledged (that the translations are gone when `tlbi` retires, so that
`tlbsync` waits for the stores alone, is the model's reading, log entry 21, DEDUCED); `elog` removes the oldest unread entry of the cell's
log and returns it, or returns 0; `einj` arms one
injection when array, address and bit numbers name a word, and changes nothing else.
In U mode each of them raises an illegal-instruction trap and does nothing else. -/
def Obligations.MachineInstructions : Prop :=
  (∀ (rd rs1 rs2 : Nat) (s : State), s.me.mode = .m →
  let op := s.xr rs2
  let named := fun e : TlbEntry => op.getLsbD 1 || (e.part == fld op 8 8 &&
    (op.getLsbD 0 || (decide (e.va ≤ (s.xr rs1).toNat) && decide ((s.xr rs1).toNat < e.va + e.size))))
  let within := fun d : DieId => decide (d = s.cur.dieId) || (op.getLsbD 2 && d.pkg == s.cur.pkg)
  let known := fld (s.xr rs1) 24 6 ≤ 8 ∧ fld (s.xr rs1) 0 24 < Config.arrayWords (fld (s.xr rs1) 24 6) ∧ fld op 0 7 < 72 ∧
    (op.getLsbD 15 = true → fld op 8 7 < 72)
  (∃ t, exec (.tlbi rs1 rs2) s = .next t ∧ t.me = s.me.retired (s.me.pc + 4) ∧ t.mem = s.mem ∧
    t.cells = (s.cells.map fun p => if within p.1.dieId then (p.1, { p.2 with tlb := p.2.tlb.filter fun e => !named e }) else p) ∧
    t.dies = (s.dies.map fun p => if within p.1 then (p.1, { p.2 with tlb := p.2.tlb.filter fun e => !named e }) else p)) ∧
  (s.basePending s.who = false → s.me.postDie = 0 → s.me.postPkg = 0 → s.me.postSys = 0 → exec .tlbsync s = .next s.passed) ∧
  (s.basePending s.who = true ∨ s.me.postDie ≠ 0 ∨ s.me.postPkg ≠ 0 ∨ s.me.postSys ≠ 0 →
    ∃ t, exec .tlbsync s = .next t ∧ t.me.pc = s.me.pc ∧ t.me.wait.isSome ∧ t.mem = s.mem) ∧
  ((s.getCell s.myCell).elog = [] → exec (.elog rd) s = .next (s.wrote rd 0)) ∧
  (∀ w rest, (s.getCell s.myCell).elog = w :: rest →
    exec (.elog rd) s = .next ((s.updCell s.myCell fun c => { c with elog := rest }).wrote rd w)) ∧
  (∃ t, exec (.einj rs1 rs2) s = .next t ∧ t.me = s.me.retired (s.me.pc + 4) ∧ t.mem = s.mem ∧ t.getCell s.myCell =
    { s.getCell s.myCell with einj := if known then some (fld (s.xr rs1) 24 6, fld (s.xr rs1) 0 24, fld op 0 16)
                                      else (s.getCell s.myCell).einj })) ∧
  (∀ (rd rs1 rs2 : Nat) (s : State), s.me.mode = .u → s.me.spec = none →
  ∀ i ∈ [Instr.mret, .tlbi rs1 rs2, .tlbsync, .elog rd, .einj rs1 rs2, .pswap rs1],
    exec i s = .next (s.raises 2 (BitVec.ofNat 64 ((encode i).getD 0))))

/-- R111: `hld` and `hst` move 32 bytes at a multiple of 32 between memory and a handle, the low word at the low address. Stated where
the cell's L1 holds the four words, which a store needs OWNED. -/
def Obligations.HandleMovesComplete : Prop := ∀ (n rs1 : Nat) (s : State) (e : TlbEntry) (d : Nat → Word) (o : Nat → Bool),
  let va := s.xr rs1
  let at' := fun i : Nat => va + BitVec.ofNat 64 (8 * i)
  let w := fun i : Nat => State.wordOf (e.phys (at' i).toNat)
  va.toNat % 32 = 0 → s.me.answer = none → s.me.op = none → (∀ i < 4, s.ownPending s.who (w i) = false) →
  (∀ i < 4, e.phys (at' i).toNat % 8 = 0) → (∀ i < 4, s.l1Get s.myCell (w i) = some ⟨o i, d i⟩) →
    ((∀ i < 4, s.Reaches .load (at' i) 8 e) →
      exec (.hld n rs1) s = .next (s.completes { s.me with h := s.me.h.setIfInBounds n (d 3 ++ d 2 ++ d 1 ++ d 0) } (s.me.pc + 4))) ∧
    ((∀ i < 4, s.Reaches .store (at' i) 8 e ∧ s.kindAt e (e.phys (at' i).toNat) = kTracked ∧ o i = true ∧ s.cellPending s.who (w i) = false) →
      s.lockedWord va 4 = none →
      ∃ t, exec (.hst n rs1) s = .next t ∧ t.me = s.me.retired (s.me.pc + 4) ∧ t.mem = s.mem ∧
        ∀ i < 4, t.l1Get s.myCell (w i) = some ⟨true, (s.hr n).extractLsb' (64 * i) 64⟩)

/-- R46, R114 to R116: `ldq` and `stp` wait while the post count that W names, the rows of the hart's drains that the
commit buffer still holds among it, is not 0. `ldq` then loads, sign-extended; `stp`, and `stpa`
(which has no W), complete once the store is sent: the count of the home's class rises by one, a VALID copy in the L1 becomes INVALID, memory is
not yet changed, and the operation that will perform at the home holds the bytes. -/
def Obligations.PostsComplete : Prop := ∀ (w sz off rs1 rs rd : Nat) (s : State) (e : TlbEntry), sz < 4 →
  let va := s.xr rs1 + wordOfInt (sx 8 off * 2 ^ sz)
  let count := fun c : Nat => s.posts c
  let sent := fun (t : State) (va : Word) (n : Nat) (val : Word) (add : Bool) =>
    let a := s.accessOf va n e
    let cls := s.postClass a.kind a.qa a.home
    t.me = (State.setPostCount s.me cls (State.postCount s.me cls + 1)).retired (s.me.pc + 4) ∧ t.mem = s.mem ∧
      t.l1Get s.myCell (State.wordOf a.qa) = none ∧
      t.getOp s.nextId = some (.post a (some cls) (byteMask (a.qa % 8) n) (stored 0 a.qa n val) add [] false) ∧
      (a.home.pkg = s.cur.pkg → t.pool = s.pool ++ [.postPerform s.nextId])
  let goes := fun (va : Word) (n : Nat) =>
    let a := s.accessOf va n e
    a.qa % n = 0 ∧ s.cellPending s.who (State.wordOf a.qa) = false ∧ State.postCount s.me (s.postClass a.kind a.qa a.home) ≠ 65535 ∧
      (∀ d, s.l1Get s.myCell (State.wordOf a.qa) ≠ some ⟨true, d⟩)
  (w ≠ 0 → count w ≠ 0 → ∀ i ∈ [Instr.ldq w sz off rs1 rd, .stp w sz off rs1 rs],
    ∃ t, exec i s = .next t ∧ t.me.pc = s.me.pc ∧ t.me.wait.isSome ∧ t.mem = s.mem ∧ t.ops = s.ops) ∧
  ((w = 0 ∨ count w = 0) → s.me.answer = none → s.Reaches .load va (2 ^ sz) e →
    s.ownPending s.who (State.wordOf (e.phys va.toNat)) = false → ∀ c, s.l1Get s.myCell (State.wordOf (e.phys va.toNat)) = some c →
    exec (.ldq w sz off rs1 rd) s = .next (s.wrote rd (loaded (2 ^ sz) true (bytesAt c.data (e.phys va.toNat) (2 ^ sz))))) ∧
  ((w = 0 ∨ count w = 0) → s.Reaches .store va (2 ^ sz) e → goes va (2 ^ sz) →
    ∃ t, exec (.stp w sz off rs1 rs) s = .next t ∧ sent t va (2 ^ sz) (s.xr rs) false) ∧
  (s.Reaches .amo (s.xr rs1) 8 e → goes (s.xr rs1) 8 →
    ∃ t, exec (.stpa rs1 rs) s = .next t ∧ sent t (s.xr rs1) 8 (s.xr rs) true)

/-- R118 to R122, R124: the instructions on post counts, registrations and orders. `inva` and `invr` make VALID words INVALID and leave
OWNED ones; `facq` does so above CELL; `frel` and `far` complete once the release is settled; `yld` gives back every OWNED word of its
range at once where the homes are on the package and free, after the hart's own stores that are still registering a word of the range; `ownq`
and `rlq` read what the L1 and the lock table hold of a word. None of them changes memory but `yld`. That bit 2 of `ownq` is the kind of the
leaf, on a page in host bias too, and which words lie in a range of `invr` and `yld`, are the model's choices (log entry 35). -/
def Obligations.OrderingInstructionsComplete : Prop := ∀ (rd rs1 rs2 scope cls : Nat) (s : State) (e : TlbEntry),
  let l1 := (s.getCell s.myCell).l1
  let kept := fun hit : Nat → Bool => l1.filter fun c => c.2.owned || !hit c.1
  let done := fun (t : State) (l : List (Nat × L1Word)) =>
    t.me = s.me.retired (s.me.pc + 4) ∧ t.mem = s.mem ∧ (t.getCell s.myCell).l1 = l
  let acquired := if scope = 0 then l1 else l1.filter fun c => c.2.owned
  let va := s.xr rs1
  let qa := e.phys va.toNat
  let a := s.accessOf va 8 e
  let first := va.toNat / 8 * 8
  let hits := s.locks.filter fun l => l.die = a.home ∧ l.part = a.part ∧ l.lo ≤ first + 7 ∧ first ≤ l.hi
  (∃ t, exec .inva s = .next t ∧ done t (l1.filter fun c => c.2.owned)) ∧
  (∃ t, exec (.invr rs1 rs2) s = .next t ∧ done t (kept (s.inRange s.myCell va.toNat (s.xr rs2).toNat))) ∧
  (∃ t, exec (.facq scope rs1) s = .next t ∧ done t acquired) ∧
  (s.released scope (fld va 0 8) = true → exec (.frel scope rs1) s = .next s.passed ∧
    ∃ t, exec (.far scope rs1) s = .next t ∧ done t acquired) ∧
  (s.released scope (fld va 0 8) = false → ∀ i ∈ [Instr.frel scope rs1, .far scope rs1],
    ∃ t, exec i s = .next t ∧ t.me.pc = s.me.pc ∧ t.me.wait.isSome ∧ t.mem = s.mem) ∧
  (s.posts cls = 0 → exec (.cntw cls) s = .next s.passed) ∧
  exec (.cntr rd cls) s = .next (s.wrote rd (BitVec.ofNat 64 (s.posts cls))) ∧
  (let ws := s.ownedIn s.myCell va.toNat (s.xr rs2).toNat
   (∀ l, s.me.op ≠ some (.yields l)) → (l1.map Prod.fst).Nodup →
    let busy := s.registersIn s.myCell va.toNat (s.xr rs2).toNat
    (busy = true → exec (.yld rs1 rs2) s = .next (s.await .retry false)) ∧
    (busy = false → ws = [] → exec (.yld rs1 rs2) s = .next s.passed) ∧
    (busy = false → (∀ p ∈ ws, s.yieldsNow s.myCell p.1 = true ∧ lookup p.1 s.words = some (.registered s.myCell)) →
      ∃ t, exec (.yld rs1 rs2) s = .next t ∧ t.me = s.me.retired (s.me.pc + 4) ∧
        t.mem = ws.foldl (fun m p => m.setWord p.1 p.2.data) s.mem ∧
        (∀ w, lookup w t.words = if w ∈ ws.map Prod.fst then none else lookup w s.words) ∧
        ∀ w, t.l1Get s.myCell w = (s.l1Get s.myCell w).map fun x => if w ∈ ws.map Prod.fst then ⟨false, x.data⟩ else x) ∧
    (busy = false → (∃ p ∈ ws, s.yieldsNow s.myCell p.1 = false) →
      ∃ t, exec (.yld rs1 rs2) s = .next t ∧ t.me.pc = s.me.pc ∧ t.me.wait.isSome ∧
        ∀ p ∈ ws, s.yieldsNow s.myCell p.1 = false → Event.writeBack s.myCell p.1 ∈ t.pool)) ∧
  (s.Reaches .load va 1 e → exec (.ownq rd rs1) s = .next (s.wrote rd (BitVec.ofNat 64
    ((match s.l1Get s.myCell (State.wordOf qa) with
      | none => 0
      | some c => if c.owned then 2 else 1) + if e.kind = kTracked then 4 else 0)))) ∧
  (s.Reaches .load va 1 e → s.homeCut a = false → exec (.rlq rd rs1) s = .next (s.wrote rd (BitVec.ofNat 64
    ((if hits = [] then 0 else 1) + if hits.any fun l => l.cell = s.myCell then 2 else 0))))

/-- R103: `bgetq` completes once its reads are sent: every destination is FILLING and a read request is under way for every block; `bget`
sends the same and waits, and completes when all are answered and none failed. -/
def Obligations.BlockReadsComplete : Prop := ∀ (hd hs n : Nat) (s : State) (es : Nat → TlbEntry),
  let sent := fun (t : State) (q : Bool) => t.mem = s.mem ∧ ∀ i < n,
    (t.getTile s.myCell (spadTile (s.hr hd) i)).st = .filling ∧
    t.getOp (s.nextId + i) = some (.block (.read q) (.hart s.who) s.ctx.part (s.blockQa hs es i) (hGen (s.hr hs))
      (spadTile (s.hr hd) i) i 0 0 0 false none) ∧
    Event.readRequest (s.nextId + i) ∈ t.pool
  ((∀ ids bad, s.me.op ≠ some (.blocks ids bad)) → n = hCount (s.hr hs) → hCount (s.hr hd) = n → s.SpadHandle hd →
    s.BlkHandle hs .load 0 n es → (∀ i < n, (s.getTile s.myCell (spadTile (s.hr hd) i)).st = .empty) →
      (∃ t, exec (.bgetq hd hs) s = .next t ∧ sent t true ∧ t.me = s.me.retired (s.me.pc + 4)) ∧
      (∃ t, exec (.bget hd hs) s = .next t ∧ sent t false ∧ t.me.pc = s.me.pc ∧ t.me.wait.isSome ∧
        t.me.op = some (.blocks ((List.range n).map (s.nextId + ·)) []))) ∧
  (s.me.op = some (.blocks [] []) → exec (.bget hd hs) s = .next s.passed)

/-- R104: `bput` sends a write of every source block that is FULL, which is DRAINING meanwhile, and waits; it completes when all are
answered and none failed. -/
def Obligations.BlockWritesComplete : Prop := ∀ (hd hs n : Nat) (s : State) (es : Nat → TlbEntry),
  let tile := fun i : Nat => s.getTile s.myCell (spadTile (s.hr hs) i)
  ((∀ ids bad, s.me.op ≠ some (.blocks ids bad)) → n = hCount (s.hr hd) → hCount (s.hr hs) = n → s.SpadHandle hs →
    s.BlkHandle hd .store 1 n es → (∀ i < n, (tile i).st = .full) →
      ∃ t, exec (.bput hd hs) s = .next t ∧ t.me.pc = s.me.pc ∧ t.me.wait.isSome ∧ t.mem = s.mem ∧
        t.me.op = some (.blocks ((List.range n).map (s.nextId + ·)) []) ∧ ∀ i < n,
          (t.getTile s.myCell (spadTile (s.hr hs) i)).st = .draining ∧
          t.getOp (s.nextId + i) = some (.block .write (.hart s.who) s.ctx.part (s.blockQa hd es i) (hGen (s.hr hd))
            (spadTile (s.hr hs) i) i (tile i).data (tile i).side 0 false none) ∧
          Event.writeRequest (s.nextId + i) ∈ t.pool) ∧
  (s.me.op = some (.blocks [] []) → exec (.bput hd hs) s = .next s.passed)

/-- R107, R109, R110: what the scratch-block instructions do in each tile state: complete, park, or trap with nothing changed. -/
def Obligations.ScratchInstructionsComplete : Prop := ∀ (rd hs rs1 rs2 : Nat) (s : State), s.me.spec = none → s.SpadHandle hs →
  let d := s.hr hs
  let b := spadTile d 0
  let t := s.getTile s.myCell b
  let st := fun i : Nat => (s.getTile s.myCell (spadTile d i)).st
  let mine := t.st = .filling ∧ t.opener = some s.who.hart
  let index := (s.xr rs1).toNat
  let code := match t.st with
    | .empty => 0
    | .filling => 1
    | .full => 2
    | .draining => 3
    | .refused => 4
    | .poison => 5
  exec (.btest rd hs) s = .next (s.wrote rd (BitVec.ofNat 64 code)) ∧
  ((∀ i < hCount d, st i = .empty ∨ st i = .full) → exec (.bwait hs) s = .next s.passed) ∧
  ((∃ i < hCount d, st i = .filling ∨ st i = .draining) →
    ∃ u, exec (.bwait hs) s = .next u ∧ u.me.pc = s.me.pc ∧ u.me.wait.isSome) ∧
  (∀ i < hCount d, (∀ j < i, st j = .empty ∨ st j = .full) → (∀ j < hCount d, st j ≠ .filling ∧ st j ≠ .draining) →
    (st i = .refused → exec (.bwait hs) s = .next (s.raises 24 (BitVec.ofNat 64 i))) ∧
    (st i = .poison → exec (.bwait hs) s = .next (s.raises 26 (BitVec.ofNat 64 i)))) ∧
  (t.st = .empty → ∃ u v, exec (.bopen hs) s = .next u ∧ u.me = s.me.retired (s.me.pc + 4) ∧ u.getTile s.myCell b = v ∧
    v.st = .filling ∧ v.opener = some s.who.hart ∧ v.data = 0 ∧ ∀ i < 64, v.side.extractLsb' (8 * i) 8 = 0x7F) ∧
  (t.st ≠ .empty → exec (.bopen hs) s = .next (s.raises 25 0)) ∧
  (511 < index → exec (.bstw hs rs1 rs2) s = .next (s.raises 32 (s.xr rs1))) ∧
  (index ≤ 511 → mine → ∃ u, exec (.bstw hs rs1 rs2) s = .next u ∧ u.me = s.me.retired (s.me.pc + 4) ∧
    (u.getTile s.myCell b).st = .filling ∧ ∀ i < 512, (u.getTile s.myCell b).data.extractLsb' (64 * i) 64 =
      if i = index then s.xr rs2 else t.data.extractLsb' (64 * i) 64) ∧
  (index ≤ 511 → ¬ mine → exec (.bstw hs rs1 rs2) s = .next (s.raises 25 0)) ∧
  (mine → ∃ u, exec (.bseal hs) s = .next u ∧ u.me.pc = (s.me.retired (s.me.pc + 4)).pc ∧
    u.getTile s.myCell b = { t with st := .full, opener := none }) ∧
  (¬ mine → exec (.bseal hs) s = .next (s.raises 25 0)) ∧
  ((t.st = .full ∨ t.st = .draining) → (s.xr rs2).toNat ≤ 511 →
    exec (.bldw rd hs rs2) s = .next (s.wrote rd (t.data.extractLsb' (64 * (s.xr rs2).toNat) 64))) ∧
  ((t.st = .empty ∨ t.st = .filling) → (s.xr rs2).toNat ≤ 511 →
    ∃ u, exec (.bldw rd hs rs2) s = .next u ∧ u.me.pc = s.me.pc ∧ u.me.wait.isSome) ∧
  (511 < (s.xr rs2).toNat → exec (.bldw rd hs rs2) s = .next (s.raises 32 (s.xr rs2))) ∧
  ((s.xr rs2).toNat ≤ 511 → (t.st = .refused → exec (.bldw rd hs rs2) s = .next (s.raises 24 0)) ∧
    (t.st = .poison → exec (.bldw rd hs rs2) s = .next (s.raises 26 0))) ∧
  ((∃ i < hCount d, st i = .draining ∨ (st i = .filling ∧ (s.getTile s.myCell (spadTile d i)).opener ≠ some s.who.hart)) →
    ∃ u, exec (.brel hs) s = .next u ∧ u.me.pc = s.me.pc ∧ u.me.wait.isSome) ∧
  ((∀ i < hCount d, st i ≠ .draining ∧ (st i = .filling → (s.getTile s.myCell (spadTile d i)).opener = some s.who.hart)) →
    ∃ u, exec (.brel hs) s = .next u ∧ u.me.pc = (s.me.retired (s.me.pc + 4)).pc ∧ ∀ i < hCount d,
      let k := spadTile d i
      (st i = .refused ∨ st i = .poison ∨ st i = .filling ∨ (st i = .full ∧ State.readersOf s.ctx k = []) →
        u.getTile s.myCell k = Tile.reset) ∧
      (st i = .empty → u.getTile s.myCell k = s.getTile s.myCell k) ∧
      (st i = .full → State.readersOf s.ctx k ≠ [] → u.getTile s.myCell k =
        { s.getTile s.myCell k with brel := some (State.readersOf s.ctx k) }))

/-- R105, R106: `bclr`, `bpois` and `bstat` send one request for block 0, wait for the home's answer, and complete with the answer word in
x[rd].
R103, R104: `bget` and `bput` report the failing block of the lowest index, with that index in mtval and the cause that its answer
gave. -/
def Obligations.BlockQuestionsAndFailures : Prop :=
  (∀ (rd hs id : Nat) (s : State) (es : Nat → TlbEntry) (w : Word),
  ∀ p ∈ [(Instr.bclr rd hs, BlockReq.clear, Acc.store, 2, Event.clearRequest s.nextId),
    (.bpois rd hs, .poison, .store, 1, .poisonRequest s.nextId), (.bstat rd hs, .status, .load, 0, .presenceStatusRead s.nextId)],
    (s.me.op = none → s.BlkHandle hs p.2.2.1 p.2.2.2.1 1 es →
      ∃ t, exec p.1 s = .next t ∧ t.me.pc = s.me.pc ∧ t.me.wait.isSome ∧ t.me.op = some (.asked s.nextId) ∧ p.2.2.2.2 ∈ t.pool ∧
        t.mem = s.mem ∧ t.getOp s.nextId = some (.block p.2.1 (.hart s.who) s.ctx.part (s.blockQa hs es 0) (hGen (s.hr hs)) 0 0 0 0 0
          false none)) ∧
    (s.me.op = some (.asked id) → s.me.answer = some (.word w) → exec p.1 s = .next (s.wrote rd w))) ∧
  (∀ (hd hs i c : Nat) (bad : List (Nat × Nat)) (s : State), s.me.spec = none →
  s.me.op = some (.blocks [] bad) → (i, c) ∈ bad → (∀ p ∈ bad, p ≠ (i, c) → i < p.1) →
    ∀ x ∈ [Instr.bget hd hs, .bput hd hs], exec x s = .next (s.raises c (BitVec.ofNat 64 i)))

/-- R112, R113: the handle instructions. A check that fails raises HANDLE with the register in mtval and changes nothing. -/
def Obligations.HandleInstructionsComplete : Prop := ∀ (hd hs rd rs1 sel : Nat) (s : State), s.me.spec = none →
  let wrote := fun (h : BitVec 256) => Host.Outcome.next (φ := Fault) (ρ := Refusal)
    (s.completes { s.me with h := s.me.h.setIfInBounds hd h } (s.me.pc + 4))
  let bad := fun r : Nat => Host.Outcome.next (φ := Fault) (ρ := Refusal) (s.raises 31 (BitVec.ofNat 64 r))
  let h := s.hr hd
  let g := s.hr hs
  let x := (s.xr rs1).toInt
  let i := (s.xr rs1).toNat % 2 ^ 32
  let n := (s.xr rs1).toNat / 2 ^ 32 % 2 ^ 16
  let base := fun (h : BitVec 256) (by' : Int) => hPut h 0 64 (((hBase h : Int) + by') % 2 ^ 64).toNat
  exec (.hmov hd hs) s = wrote g ∧
  exec (.hadv hd rs1) s = (match hKind h with
    | 1 => wrote (base h (x * hStride h * 4096))
    | 2 => wrote (base h (x * 4096))
    | 3 => wrote (base h x)
    | 4 => wrote (hPut h 192 24 (((hPix0 h : Int) + x) % 2 ^ 24).toNat)
    | _ => bad hd) ∧
  exec (.hginc hd) s = (if hKind h = 1 then wrote (hPut h 64 12 ((hGen h + 1) % 4096)) else bad hd) ∧
  exec (.hsub hd hs rs1) s = (if n = 0 then bad hs else match hKind g with
    | 1 => if i + n ≤ hCount g then wrote (hPut (base g (i * hStride g * 4096)) 96 16 n) else bad hs
    | 2 => if i + n ≤ hCount g then wrote (hPut (base g (i * 4096)) 96 16 n) else bad hs
    | 3 => if i + n ≤ hWrows g then wrote (hPut (base g (i * hPitch g)) 160 16 n) else bad hs
    | _ => bad hs) ∧
  exec (.hgetf rd hs sel) s = (match selField (hKind g) sel with
    | none => bad hs
    | some (lo, len) => .next (s.wrote rd (if sel = 8 ∧ (hKind g = 1 ∨ hKind g = 3) then wordOfInt (sx len (hField g lo len))
        else BitVec.ofNat 64 (hField g lo len)))) ∧
  exec (.hsetf hd rs1 sel) s = (match selField (hKind h) sel with
    | none => bad hd
    | some (lo, len) => wrote (hPut h lo len (s.xr rs1).toNat))

/-- R98 to R100: what the home of a block does with a read, a write, a poison and a clear that it takes up, by the generation and the
presence state; an answer reaches the operation that asked. -/
def Obligations.PresenceTable : Prop := ∀ (id blk gen part tile idx retries : Nat) (who : Requester) (data : BitVec 32768)
    (side : BitVec 512) (q : Bool) (s : State),
  let b := s.getBlock blk
  let d := genAhead gen b.gen
  let ask := fun req : BlockReq => s.getOp id = some (.block req who part blk gen tile idx data side retries false none)
  let answered := fun (t : State) (req : BlockReq) (a : BlockAns) =>
    t.getOp id = some (.block req who part blk gen tile idx data side retries true (some a))
  let coded := fun (t : State) (req : BlockReq) (code : Nat) => answered t req (.coded (BitVec.ofNat 64
    (code + (t.getBlock blk).gen % 4096 * 2 ^ 16 + (t.getBlock blk).code * 2 ^ 30)))
  let same := fun t : State => t.getBlock blk = b ∧ t.mem = s.mem
  let ahead := b.list.filter fun e => e.egen ≠ b.gen
  pkgOfQa blk = State.reqPkg who → s.inTurn id = true → s.mem.wf = true →
    (ask (.read q) → ∃ t, exec (.readRequest id) s = .next t ∧
      (2047 < d → answered t (.read q) .stale ∧ same t) ∧
      (d = 0 → b.poison → answered t (.read q) .poison ∧ same t) ∧
      (d = 0 → b.poison = false → b.full → ∃ c, answered t (.read q) (.data c b.side) ∧
        dataBytes c = s.mem.readBytes blk 4096 ∧ same t) ∧
      (d ≤ 2047 → ¬ (d = 0 ∧ (b.full ∨ b.poison)) → (s.getDie (stackDie blk)).sillage < 65536 →
        t.getBlock blk = { b with list := b.list ++ [⟨q, id, gen, none⟩] } ∧ t.mem = s.mem)) ∧
    (ask .write → ∃ t, exec (.writeRequest id) s = .next t ∧
      (d ≠ 0 → answered t .write (if d ≤ 2047 then .ahead else .stale) ∧ same t) ∧
      (d = 0 → b.full ∨ b.poison → answered t .write .doubleFill ∧ same t) ∧
      (d = 0 → b.full = false → b.poison = false → answered t .write .written ∧ t.mem.readBytes blk 4096 = dataBytes data ∧
        t.getBlock blk = { b with full := true, side := side, list := ahead })) ∧
    (ask .poison → ∃ t, exec (.poisonRequest id) s = .next t ∧
      (d ≠ 0 → coded t .poison 3 ∧ same t) ∧
      (d = 0 → b.full ∨ b.poison → coded t .poison 4 ∧ same t) ∧
      (d = 0 → b.full = false → b.poison = false → coded t .poison 0 ∧ t.mem = s.mem ∧
        t.getBlock blk = { b with poison := true, list := ahead })) ∧
    (ask .clear → ∃ t, exec (.clearRequest id) s = .next t ∧
      (d ≠ 0 → coded t .clear 3 ∧ same t) ∧
      (d = 0 → b.full = false → b.poison = false → coded t .clear (if b.list = [] then 2 else 1) ∧ same t) ∧
      (d = 0 → b.full ∨ b.poison → coded t .clear 0 ∧ t.mem = s.mem ∧
        t.getBlock blk = { b with gen := (b.gen + 1) % 4096, full := false, poison := false })) ∧
    (ask .status → ∃ t, exec (.presenceStatusRead id) s = .next t ∧ same t ∧
      answered t .status (.coded (BitVec.ofNat 64 (b.presence + min b.list.length 65535 * 2 ^ 16))))

/-- R103 to R106: an answer that lands. Data makes a FILLING scratch block FULL, poison POISON, a refusal REFUSED, and the request has
ended; the coded answer of `bclr`, `bpois` or `bstat` reaches the hart that waits for it.
R101, R102: a read that found no room in its home's list asks again, and is appended once there is room. -/
def Obligations.BlockAnswersAndRetries : Prop :=
  (∀ (id part blk gen tile idx retries : Nat) (h : HartId) (data data' : BitVec 32768)
    (side side' : BitVec 512) (req : BlockReq) (a : BlockAns) (w : Word) (s : State), s.Plain h part →
  (s.getOp id = some (.block (.read true) (.hart h) part blk gen tile idx data side retries true (some a)) →
    (s.getTile h.cellId tile).st = .filling →
      ∃ t, exec (.blockAnswerLands id) s = .next t ∧ t.getOp id = none ∧ t.mem = s.mem ∧
        (a = .data data' side' → t.getTile h.cellId tile = ⟨.full, data', side', none, none⟩) ∧
        (a = .poison → (t.getTile h.cellId tile).st = .poison) ∧
        (a = .stale → (t.getTile h.cellId tile).st = .refused)) ∧
  (req = .clear ∨ req = .poison ∨ req = .status →
    s.getOp id = some (.block req (.hart h) part blk gen tile idx data side retries true (some (.coded w))) →
    (∀ ids bad, (s.getHart h).op ≠ some (.blocks ids bad)) →
      ∃ t, exec (.blockWriteAnswer id) s = .next t ∧ t.getOp id = none ∧
        t.getHart h = { s.getHart h with wait := none, answer := some (.word w) })) ∧
  (∀ (id blk gen part tile idx retries : Nat) (who : Requester) (data : BitVec 32768)
    (side : BitVec 512) (q : Bool) (s : State),
  s.getOp id = some (.block (.read q) who part blk gen tile idx data side retries true none) → retries ≠ 0 →
  (∀ x ∈ (s.getBlock blk).list, x.op ≠ id) → genAhead gen (s.getBlock blk).gen ≤ 2047 →
  ¬ (genAhead gen (s.getBlock blk).gen = 0 ∧ (s.getBlock blk).filled = true) → (s.getDie (stackDie blk)).sillage < 65536 →
    ∃ t, exec (.deferRetry id) s = .next t ∧ t.mem = s.mem ∧
      t.getBlock blk = { s.getBlock blk with list := (s.getBlock blk).list ++ [⟨q, id, gen, none⟩] })

/-- R213, R214, R215: a load miss at the home of a tracked word: HOME answers with memory, a registered word is forwarded to its owner, who
answers with its own value and keeps the word, a LOST word answers OWNER_LOST; a load access fault comes before the range lock (R52); the
answer makes the word VALID in the hart's cell,
but for one invalidated in flight, or one whose value is no longer the word's value when it lands (R212; the second is the model's
reading, log entry 18). Memory is unchanged throughout, but for a word that a full L1 gives up. -/
def Obligations.LoadMissEvents : Prop := ∀ (id : Nat) (a : Access) (inv : Bool) (c : CellId) (v : Word) (x : L1Word) (s : State),
  let w := State.wordOf a.qa
  let answered := fun (t : State) (r : Answer) => t.getOp id = some (.load a inv (some r)) ∧ t.mem = s.mem ∧ t.words = s.words
  let asked := s.getOp id = some (.load a inv none)
  a.kind = kTracked → s.flipping a.qa = false → s.wordBusy w (some id) = false →
    (asked → s.lockHit a.home a.part a.va.toNat a.size = false → ∃ t, exec (.loadMiss id) s = .next t ∧
      (lookup w s.words = none → s.hostGone a.qa = false → s.isBad w = false → answered t (.word (s.mem.word w))) ∧
      (lookup w s.words = none → s.hostGone a.qa = true ∨ s.isBad w = true → answered t (.trap 5 a.va)) ∧
      (lookup w s.words = some .lost → answered t (.trap 29 a.va)) ∧
      (lookup w s.words = some (.registered c) → a.home.pkg = c.pkg → t.pool = s.pool ++ [.forward id] ∧ t.mem = s.mem)) ∧
    (asked → s.lockHit a.home a.part a.va.toNat a.size = true →
      ∃ t, exec (.loadMiss id) s = .next t ∧
        (s.hostGone a.qa = false → s.isBad w = false → answered t (.trap 28 a.va)) ∧
        (lookup w s.words = none → s.hostGone a.qa = true ∨ s.isBad w = true → answered t (.trap 5 a.va))) ∧
    (asked → lookup w s.words = some (.registered c) → s.l1Get c w = some ⟨true, v⟩ → ∃ t, exec (.forward id) s = .next t ∧
      answered t (.supplied c v) ∧ t.l1Get c w = some ⟨true, v⟩) ∧
    (∀ r ∈ [Answer.word v, .supplied c v], s.getOp id = some (.load a inv (some r)) → s.Plain a.hart a.part → ∃ t, exec (.l1Fill id) s = .next t ∧
      t.getOp id = none ∧ ((s.getCell a.hart.cellId).l1.length < s.l1Words a.hart.cellId → t.mem = s.mem) ∧
      (s.l1Get a.hart.cellId w = none → (t.getHart a.hart).answer = some (.word v) ∧
        t.l1Get a.hart.cellId w = if inv ∨ s.servedValue a.hart.cellId.dieId a.kind w ≠ v then none else some ⟨false, v⟩) ∧
      (s.l1Get a.hart.cellId w = some x → (t.getHart a.hart).answer = some (.word x.data) ∧ t.l1Get a.hart.cellId w = some x))

/-- R213 to R215, R319: a registration at the home: from HOME it is granted with memory's value; from another owner the word is first recalled; the
grant makes the word OWNED in the hart's cell with the store's bytes over that value. An owner's recall puts its value in memory, leaves
its copy INVALID, and lets the request that waited go on. A hart on the home's package is told that it may go on once its store can be
refused no longer, so that the grant finds it at later work (the model's reading of R120 and R319, log entry 4). A store of part of a LOST
word is refused with OWNER_LOST; one whose hart has gone on before the word was LOST is dropped (the model's choice, log entry 4). -/
def Obligations.RegistrationEvents : Prop := ∀ (id : Nat) (a : Access) (val v : Word) (c : CellId) (early : Bool) (s : State),
  let w := State.wordOf a.qa
  let asked := s.getOp id = some (.register a val none early)
  let me := a.hart.cellId
  a.kind = kTracked → s.flipping a.qa = false → a.home.pkg = a.hart.pkg → a.home.pkg = c.pkg →
    (asked → s.wordBusy w (some id) = false → s.lockHit a.home a.part a.va.toNat a.size = false →
      ∃ t, exec (.registration id) s = .next t ∧ t.mem = s.mem ∧
      (lookup w s.words = none → lookup w t.words = some (.registered me) ∧
        t.getOp id = some (.register a val (some (.word (s.mem.word w))) true) ∧ t.pool = s.pool ++ [.registrationGrant id] ∧
        (early = false → s.Plain a.hart a.part → (t.getHart a.hart).answer = some .done)) ∧
      (lookup w s.words = some (.registered c) → c ≠ me → t.words = s.words ∧ lookup w t.busy = some id ∧
        t.pool = s.pool ++ [.transferRecall c w] ∧ (a.size = 8 → t.getOp id = some (.register a val none true) ∧
          (early = false → s.Plain a.hart a.part → (t.getHart a.hart).answer = some .done)) ∧
        (a.size ≠ 8 → t.getOp id = s.getOp id ∧ t.harts = s.harts)) ∧
      (lookup w s.words = some .lost → a.size ≠ 8 → t.words = s.words ∧ (early = true → t.getOp id = none) ∧
        (early = false → t.getOp id = some (.register a val (some (.trap 29 a.va)) false)))) ∧
    (asked → lookup w s.busy = some id → s.forwardsOut w = false → lookup w s.words = some (.registered c) →
      s.l1Get c w = some ⟨true, v⟩ → ∃ t, exec (.transferRecall c w) s = .next t ∧ t.mem = s.mem.setWord w v ∧
        lookup w t.busy = none ∧ lookup w t.words = some (.registered me) ∧ t.l1Get c w = none ∧
        t.getOp id = some (.register a val (some (.word ((s.mem.setWord w v).word w))) true) ∧ (∀ r ∈ t.resvs, r.2.1 ≠ w)) ∧
    (s.getOp id = some (.register a val (some (.word v)) early) → s.Plain a.hart a.part → (∀ d, s.l1Get me w ≠ some ⟨true, d⟩) →
      a.qa % a.size = 0 → a.size ∈ [1, 2, 4, 8] → ∃ t, exec (.registrationGrant id) s = .next t ∧ t.getOp id = none ∧
        ((s.getCell me).l1.length < s.l1Words me → t.mem = s.mem) ∧ t.l1Get me w = some ⟨true, stored v a.qa a.size val⟩ ∧
          (early = false → (t.getHart a.hart).answer = some .done) ∧
          (early = true → (s.getHart a.hart).status ≠ .tracked → t.getHart a.hart = s.getHart a.hart))

/-- R60, R213 to R215, R317: an atomic operation at the home of a HOME word is performed there and answers its hart, and an LR reserves the word;
where memory holds the word with an uncorrectable error, the load of an LR or AMO faults (the model's reading, log entry 33), and an LR of a
replicated page waits while the replica of its die is behind (the model's reading of R212, log entry 18); a
capacity eviction and a write-back return an OWNED word to its home, the first leaving the copy INVALID and the second VALID; a VALID word is dropped. -/
def Obligations.AtomicAndEvictionEvents : Prop := ∀ (id : Nat) (a : Access) (k : AtomicKind) (val v : Word) (c : CellId) (w : Nat)
    (s : State),
  let old := s.mem.word (State.wordOf a.qa)
  let u := s.ownHome a.hart.cellId (State.wordOf a.qa)
  let quiet := s.flipping w = false ∧ s.wordBusy w none = false ∧ lookup w s.words = some (.registered c)
  (s.getOp id = some (.atomic a k val none) → a.home.pkg = a.hart.pkg → s.hostGone a.qa = false →
    a.qa % a.size = 0 → a.size = 4 ∨ a.size = 8 → s.flipping a.qa = false → s.wordBusy (State.wordOf a.qa) (some id) = false →
    s.lockHit a.home a.part a.va.toNat a.size = false → lookup (State.wordOf a.qa) s.words = none → k ≠ .sc →
    s.Plain a.hart a.part →
    (s.isBad (State.wordOf a.qa) = true → ∃ t, exec (.homeAtomicOp id) s = .next t ∧ t.getOp id = none ∧
      (t.getHart a.hart).answer = some (.trap 5 a.va) ∧ t.mem = s.mem) ∧
    (s.isBad (State.wordOf a.qa) = false → (k = .lr → a.kind = kReplicated → lookup (a.hart.die, State.wordOf a.qa) s.replicas = none) →
     ∃ t, exec (.homeAtomicOp id) s = .next t ∧ t.getOp id = none ∧
      (t.getHart a.hart).answer = some (.word old) ∧
      (k = .lr → t.mem = u.mem ∧ (a.hart, State.wordOf a.qa, a.size == 8) ∈ t.resvs) ∧
      (k ≠ .lr → t.mem = u.mem.setWord (State.wordOf a.qa) (stored (u.mem.word (State.wordOf a.qa)) a.qa a.size
        (BitVec.ofNat 64 (amoNew k a.size (bytesAt old a.qa a.size) (val.toNat % 256 ^ a.size))))))) ∧
  (s.l1Get c w = some ⟨true, v⟩ → quiet → ∃ t, exec (.capacityEviction c w) s = .next t ∧
    t.mem = s.mem.setWord w v ∧ t.l1Get c w = none ∧ lookup w t.words = none ∧ t.resvs = s.resvs) ∧
  (s.l1Get c w = some ⟨false, v⟩ → ∃ t, exec (.capacityEviction c w) s = .next t ∧ t.mem = s.mem ∧ t.l1Get c w = none) ∧
  (s.l1Get c w = some ⟨true, v⟩ → quiet → ∃ t, exec (.writeBack c w) s = .next t ∧ t.mem = s.mem.setWord w v ∧
    t.l1Get c w = some ⟨false, v⟩ ∧ lookup w t.words = none)

/-- R114, R115, R213, R216: a posted store or add performs at its home, when the word is HOME and unlocked, and a base store at the
memory controller: the word takes the bytes, other reservations of it are lost, and the acknowledgement is on its way; it lowers the
hart's count of the class. On a page that is neither pinned nor held, a migration moves the home to a die that draws it (which die
that is, is the model's reading of R265, log entry 34); to any other die nothing moves.
R74, R123, R139: what reaches a home or a cell for one operation. A row of a drain takes its range lock and its bytes are then written,
those bytes only; a flag of another cell is set or cleared, once no older operation of the hart for that cell is under way. What an
acknowledgement does to a VALID copy of the word is the model's reading of R212 and R213 (log entry 18). -/
def Obligations.StoresPerform : Prop :=
  (∀ (id cls : Nat) (a : Access) (mask val : Word) (add : Bool) (die pkg page : Nat)
    (s : State),
  let w := State.wordOf a.qa
  let old := s.mem.word w
  let p := pkg * 2 ^ 40 + page
  (s.getOp id = some (.post a (some cls) mask val add [] false) → a.home.pkg = a.hart.pkg → a.kind ≠ kReplicated →
    s.flipping a.qa = false → s.wordBusy w (some id) = false → s.lockHit a.home a.part a.va.toNat a.size = false →
    s.hostGone a.qa = false → lookup w s.words = none → ∃ t, exec (.postPerform id) s = .next t ∧
      t.mem = s.mem.setWord w (if add then old + val else (old &&& ~~~mask) ||| (val &&& mask)) ∧ (∀ r ∈ t.resvs, r.2.1 ≠ w) ∧
      t.getOp id = some (.post a (some cls) mask val add [] true) ∧ t.pool = s.pool ++ [.postAck id]) ∧
  (s.getOp id = some (.post a (some cls) mask val add [] true) → s.Plain a.hart a.part → 1 ≤ cls → cls ≤ 3 →
    (s.getHart a.hart).status = .running → ∃ t, exec (.postAck id) s = .next t ∧ t.getOp id = none ∧ t.mem = s.mem ∧
      State.postCount (t.getHart a.hart) cls = State.postCount (s.getHart a.hart) cls - 1) ∧
  (s.getOp id = some (.post a none mask val add [] true) → s.Plain a.hart a.part → (s.getHart a.hart).status = .running →
    ∃ t, exec (.postAck id) s = .next t ∧ t.getOp id = none ∧ t.mem = s.mem ∧ ∀ d, s.l1Get a.hart.cellId w = some ⟨false, d⟩ →
      t.l1Get a.hart.cellId w = if a.kind = kUntracked then some ⟨false, old⟩ else none) ∧
  (s.getOp id = some (.post a none mask val false [] false) → a.home.pkg = a.hart.pkg → a.kind ≠ kReplicated →
    s.flipping a.qa = false → s.hostGone a.qa = false →
    (a.kind = kTracked → lookup w s.words = none ∧ s.wordBusy w (some id) = false) → ∃ t, exec (.storeWriteThrough id die) s = .next t ∧
      t.mem = s.mem.setWord w ((old &&& ~~~mask) ||| (val &&& mask)) ∧ (∀ r ∈ t.resvs, r.2.1 = w → r.1 = a.hart) ∧
      t.getOp id = some (.post a none mask val false [] true) ∧ t.pool = s.pool ++ [.postAck id]) ∧
  (inHbm (p * 4096) = true → s.pagePinned p = false → die < 16 → s.pageLocked p = false → (∀ b ∈ s.busy, b.1 / 4096 ≠ p) →
    (s.draws p die = true → ∃ t, exec (.homeMigration pkg page die) s = .next t ∧
      (∀ k, k ≠ kReplicated → t.homeOf k (p * 4096) = ⟨pkg, die⟩) ∧ t.mem = s.mem ∧ (∀ r ∈ t.resvs, r.2.1 / 4096 ≠ p) ∧
      t.pool = (s.pool.filter fun x => !s.forPage p x) ∧
      (t.held.map fun x => x.2) = (s.held.map fun x => x.2) ++ s.pool.filter (s.forPage p)) ∧
    (s.draws p die = false → exec (.homeMigration pkg page die) s = .next s))) ∧
  (∀ (id part cls n lock : Nat) (h : HartId) (c : CellId) (va : Word) (g : Seg) (bytes : List Byte)
    (ob : Option (List Byte)) (done v : Bool) (s : State),
  (s.getOp id = some (.row h part cls c va g 0 ob done) → s.locks = [] → s.readHeld g = false → s.ownedWords g = [] → s.lostIn g = false →
    g.kind = kUntracked → ∃ t, exec (.rangeLock id) s = .next t ∧ t.getOp id = some (.row h part cls c va g 1 ob done) ∧ t.mem = s.mem ∧
      t.locks = [⟨g.home, part, va.toNat, va.toNat + g.len - 1, id, c⟩]) ∧
  (s.getOp id = some (.row h part cls c va g lock (some bytes) done) → s.mem.wf = true → s.flipping g.qa = false → s.hostGone g.qa = false →
    g.kind = kUntracked → ∃ t, exec (.wordWrite id) s = .next t ∧
      t.getOp id = some (.row h part cls c va g lock (some bytes) true) ∧ t.mem.readBytes g.qa bytes.length = bytes ∧
      (∀ a, a < g.qa ∨ g.qa + bytes.length ≤ a → t.mem.read a = s.mem.read a) ∧
      (g.home.pkg = c.pkg → t.pool = s.pool ++ [.postAck id])) ∧
  (s.getOp id = some (.flag h part c n v) → h.hart < 64 → (s.getCell c).ctx.part = part → (s.getCell c).ctx.flagWaiters = [] → n < 1024 →
    (∀ o ∈ s.ops, o.1 < id → ∀ part' n' v', o.2 ≠ .flag h part' c n' v') →
    ∃ t, exec (.remoteFlagOp id) s = .next t ∧ t.getOp id = none ∧ t.mem = s.mem ∧
      ∀ k < 1024, (t.getCell c).ctx.flags.getLsbD k = (if k = n then v else (s.getCell c).ctx.flags.getLsbD k)))

/-- R74 to R76: the flag instructions. A local `fset` or `fclr` writes the flag of its cell, a remote one leaves for a cell of the gang
and retires, and one to another cell raises REMOTE; `ftst` reads, `fwait` and `fwclr` complete on a flag that is 1, the second
clearing it, and park on one that is 0; `bfs` and `bfc` branch on it. Stated once the hart's earlier accesses and commands have passed
(R71) and no compare of its is still to write a flag.
R75: setting a flag on which harts are parked: every `fwait` waiter completes, and of the `fwclr` waiters only the first, which leaves
the flag 0; the others stay parked. -/
def Obligations.FlagsComplete : Prop :=
  (∀ (n off rd rs1 : Nat) (s : State), n < 1024 → s.me.answer = none → s.me.spec = none →
  s.handOffReady = true → s.flagsPending s.who = false →
  let f := s.ctx.flags
  let target := s.me.pc + wordOfInt (4 * sx 12 off)
  let branch := fun taken : Bool => if taken then (if target.toNat % 4 = 0 then s.completes s.me target else s.raises 0 target) else s.passed
  let here := fun (t : State) (v : Bool) => t.mem = s.mem ∧ t.me.pc = (s.me.retired (s.me.pc + 4)).pc ∧
    ∀ i < 1024, t.ctx.flags.getLsbD i = if i = n then v else f.getLsbD i
  ((∀ w ∈ s.ctx.flagWaiters, w.1 ≠ n) → ∃ t, exec (.fset n 0) s = .next t ∧ here t true) ∧
  (∃ t, exec (.fclr n 0) s = .next t ∧ here t false) ∧
  (rs1 ≠ 0 → ∀ p ∈ [(Instr.fset n rs1, true), (.fclr n rs1, false)],
    (∀ c, s.gangTarget (s.xr rs1) = some c → ∃ t, exec p.1 s = .next t ∧ t.me = s.me.retired (s.me.pc + 4) ∧ t.ctx = s.ctx ∧
      t.getOp s.nextId = some (.flag s.who s.ctx.part c n p.2)) ∧
    (s.gangTarget (s.xr rs1) = none → exec p.1 s = .next (s.raises 38 (s.xr rs1)))) ∧
  exec (.ftst rd n) s = .next (s.wrote rd (if f.getLsbD n then 1 else 0)) ∧
  (f.getLsbD n = true → exec (.fwait n) s = .next s.passed ∧ ∃ t, exec (.fwclr n) s = .next t ∧ here t false) ∧
  (f.getLsbD n = false → ∀ p ∈ [(Instr.fwait n, false), (.fwclr n, true)], ∃ t, exec p.1 s = .next t ∧ t.me.pc = s.me.pc ∧
    t.me.wait = some ⟨.flag n, true⟩ ∧ t.ctx.flags = f ∧ t.ctx.flagWaiters = s.ctx.flagWaiters ++ [(n, s.who.hart, p.2)]) ∧
  exec (.bfs n off) s = .next (branch (f.getLsbD n)) ∧
  exec (.bfc n off) s = .next (branch (!f.getLsbD n))) ∧
  (∀ (c : CellId) (part n a b d : Nat) (s : State), n < 1024 → s.Plain (c.hart a) part →
  s.Plain (c.hart b) part → s.Plain (c.hart d) part → a ≠ b → b ≠ d → a ≠ d →
  (s.getCell c).ctx.flagWaiters = [(n, a, false), (n, b, true), (n, d, true)] →
    let t := s.setFlag c part n
    (t.getHart (c.hart a)).wait = none ∧ (t.getHart (c.hart a)).answer = some .done ∧
    (t.getHart (c.hart b)).wait = none ∧ (t.getHart (c.hart b)).answer = some .done ∧
    t.getHart (c.hart d) = s.getHart (c.hart d) ∧ (t.getCell c).ctx.flagWaiters = [(n, d, true)] ∧
    (t.getCell c).ctx.flags.getLsbD n = false)

/-- R77, R78: barriers. An arrival needs the release at GROUP scope; it sets the pending bit, and the last one completes the phase. `barw`
completes at once with no arrival pending or with a completed one, whose pending bit it clears; `barvw` does both; `barany` of any mask
takes, of the selected barriers with an arrival pending, the first completed one from the rotation pointer on, and moves the pointer past
it; it parks while none of them has completed, and writes all ones where none is pending. An unbound barrier, or a hart that is no
member, is illegal. -/
def Obligations.BarriersComplete : Prop := ∀ (rd rs1 mask b i grp : Nat) (g : Gang) (s : State), s.me.spec = none →
  let p := State.barPhase g b
  let members := (State.groupCells g grp).flatMap fun c => (List.range 24).filterMap fun n =>
    if (State.barBinding g b).any (fun x => x.2.testBit n) then some (c.hart n) else none
  let last := ∀ m ∈ members, m = s.cur ∨ m ∈ p.2 ∨ m ∈ g.gone
  let pcAfter := (s.me.retired (s.me.pc + 4)).pc
  let phase := fun t : State => (lookup i t.gangs).map fun x => State.barPhase x b
  (s.barFor b = none → ∀ x ∈ [Instr.barv b, .barw b, .barvw b],
    exec x s = .next (s.raises 2 (BitVec.ofNat 64 ((encode x).getD 0)))) ∧
  (s.barFor b = some (i, g, grp) →
    (s.released 1 grp = true → s.cur ∉ p.2 → ∃ t, exec (.barv b) s = .next t ∧ t.me.pc = pcAfter ∧
      lookup b t.me.bars = some p.1 ∧ t.mem = s.mem ∧
      (last → phase t = some (p.1 + 1, [])) ∧ (¬ last → phase t = some (p.1, p.2 ++ [s.cur]))) ∧
    (s.released 1 grp = true → s.cur ∈ p.2 → exec (.barv b) s = .next s.passed) ∧
    (s.released 1 grp = false → ∃ t, exec (.barv b) s = .next t ∧ t.me.pc = s.me.pc ∧ t.gangs = s.gangs) ∧
    (lookup b s.me.bars = none → exec (.barw b) s = .next s.passed) ∧
    (∀ n, lookup b s.me.bars = some n → n < p.1 → ∃ t, exec (.barw b) s = .next t ∧ t.me.pc = pcAfter ∧ lookup b t.me.bars = none ∧
      (t.getCell s.myCell).l1 = (s.getCell s.myCell).l1.filter fun c => c.2.owned) ∧
    (∀ n, lookup b s.me.bars = some n → p.1 ≤ n → ∃ t, exec (.barw b) s = .next t ∧ t.me.pc = s.me.pc ∧
      t.me.wait = some ⟨.barrier b, true⟩) ∧
    (s.released 1 grp = true → s.cur ∉ p.2 → last → s.me.op = none → s.me.resumed = [] → ∃ t, exec (.barvw b) s = .next t ∧
      t.me.pc = pcAfter ∧ lookup b t.me.bars = none ∧ phase t = some (p.1 + 1, []))) ∧
  (let num := fun j : Nat => (s.xr rs1).toNat + j
   let turn := fun d : Nat => (s.me.baranyPtr + d) % 8
   let cand := fun j : Nat => j < 8 ∧ mask.testBit j = true ∧ (lookup (num j) s.me.bars).isSome = true
   let ended := fun j : Nat => cand j ∧ ∃ n, lookup (num j) s.me.bars = some n ∧ n < (State.barPhase g (num j)).1
   ((∃ j < 8, mask.testBit j = true ∧ (47 < num j ∨ s.barFor (num j) = none)) →
      exec (.barany rd rs1 mask) s = .next (s.raises 2 (BitVec.ofNat 64 ((encode (.barany rd rs1 mask)).getD 0)))) ∧
   ((∀ j < 8, mask.testBit j = true → num j ≤ 47 ∧ s.barFor (num j) ≠ none) → s.gangOf s.myCell = some g →
    ((∀ j, ¬ cand j) → exec (.barany rd rs1 mask) s = .next (s.wrote rd (-1))) ∧
    (∀ d < 8, ended (turn d) → (∀ d' < d, ¬ ended (turn d')) → ∃ t, exec (.barany rd rs1 mask) s = .next t ∧ t.me.pc = pcAfter ∧
      t.me.x = (s.me.writes rd (BitVec.ofNat 64 (num (turn d)))).x ∧ t.me.baranyPtr = (turn d + 1) % 8 ∧
      (∀ n, lookup n t.me.bars = if n = num (turn d) then none else lookup n s.me.bars) ∧
      (t.getCell s.myCell).l1 = ((s.getCell s.myCell).l1.filter fun c => c.2.owned) ∧ t.mem = s.mem) ∧
    ((∃ j, cand j) → (∀ j, ¬ ended j) → ∃ t, exec (.barany rd rs1 mask) s = .next t ∧ t.me.pc = s.me.pc ∧
      (∃ bs, t.me.wait = some ⟨.anyBarrier bs, true⟩ ∧ ∀ n, n ∈ bs ↔ ∃ j, cand j ∧ n = num j) ∧
      t.me.bars = s.me.bars ∧ t.me.baranyPtr = s.me.baranyPtr ∧ t.gangs = s.gangs ∧ t.mem = s.mem)))

/-- R79, R80: semaphores and mutexes. Where no hart is parked on it, `semp` and `semtry` take one from a count above 0, `semv` adds one below
65,535, and at 0 `semtry` writes 0 and `semp` parks; a `semv` with a `semp` parked completes that hart and leaves the count. `mtxl` and
`mtxtry` take a free mutex, `mtxtry` of a held one writes 0; `mtxu` by the holder frees it or passes it to the first waiter; `mtxl` by
the holder and `mtxu` by another are illegal. -/
def Obligations.SemaphoresAndMutexesComplete : Prop := ∀ (rd n k : Nat) (rest : List Nat) (s : State), s.me.answer = none → s.me.spec = none →
  s.handOffReady = true → s.me.service = false → s.cur.hart < 32 → lookup s.cur.hart (s.getCell s.myCell).preempted = none →
  let sem := s.getSem n
  let mtx := s.myMutex n
  let pcAfter := (s.me.retired (s.me.pc + 4)).pc
  let me := s.cur.hart
  let done := fun t : State => t.me.pc = pcAfter ∧ t.mem = s.mem
  (sem = ⟨k, [], []⟩ →
    (0 < k → (∃ t, exec (.semp n) s = .next t ∧ done t ∧ t.getSem n = ⟨k - 1, [], []⟩) ∧
      ∃ t, exec (.semtry rd n) s = .next t ∧ t.me = (s.me.writes rd 1).retired (s.me.pc + 4) ∧ t.getSem n = ⟨k - 1, [], []⟩) ∧
    (k = 0 → exec (.semtry rd n) s = .next (s.wrote rd 0) ∧ ∃ t, exec (.semp n) s = .next t ∧ t.me.pc = s.me.pc ∧ t.me.wait.isSome ∧
      t.getSem n = ⟨0, [me], []⟩) ∧
    (k < 65535 → ∃ t, exec (.semv n) s = .next t ∧ done t ∧ t.getSem n = ⟨k + 1, [], []⟩) ∧
    (k = 65535 → ∃ t, exec (.semv n) s = .next t ∧ t.me.pc = s.me.pc ∧ t.me.wait.isSome ∧ t.getSem n = ⟨k, [], [me]⟩)) ∧
  (∀ h, sem = ⟨0, h :: rest, []⟩ → h ≠ me → s.Plain (s.myCell.hart h) s.ctx.part → ∃ t, exec (.semv n) s = .next t ∧ done t ∧
    t.getSem n = ⟨0, rest, []⟩ ∧ (t.getHart (s.myCell.hart h)).wait = none ∧ (t.getHart (s.myCell.hart h)).answer = some .done) ∧
  (mtx.holder = none → (∃ t, exec (.mtxl n) s = .next t ∧ done t ∧ t.myMutex n = ⟨some me, mtx.waiters⟩) ∧
    ∃ t, exec (.mtxtry rd n) s = .next t ∧ t.me = (s.me.writes rd 1).retired (s.me.pc + 4) ∧ t.myMutex n = ⟨some me, mtx.waiters⟩) ∧
  (mtx.holder.isSome → exec (.mtxtry rd n) s = .next (s.wrote rd 0)) ∧
  (∀ h, mtx.holder = some h → h ≠ me → (∃ t, exec (.mtxl n) s = .next t ∧ t.me.pc = s.me.pc ∧ t.me.wait.isSome ∧
    t.myMutex n = ⟨some h, mtx.waiters ++ [me]⟩) ∧
    exec (.mtxu n) s = .next (s.raises 2 (BitVec.ofNat 64 ((encode (.mtxu n)).getD 0)))) ∧
  (mtx.holder = some me → exec (.mtxl n) s = .next (s.raises 2 (BitVec.ofNat 64 ((encode (.mtxl n)).getD 0))) ∧
    (mtx.waiters = [] → ∃ t, exec (.mtxu n) s = .next t ∧ done t ∧ t.myMutex n = ⟨none, []⟩) ∧
    (∀ h, mtx.waiters = h :: rest → h ≠ me → s.Plain (s.myCell.hart h) s.ctx.part → ∃ t, exec (.mtxu n) s = .next t ∧ done t ∧
      t.myMutex n = ⟨some h, rest⟩ ∧ (t.getHart (s.myCell.hart h)).answer = some .done))

/-- R81: queue registers. An open queue takes and gives in order, up to 8 entries; full, `qpush` parks, and empty, `qpop` parks; `qtry` counts;
the user of a named pipe that it is not bound to raises QUEUE_SCOPE. -/
def Obligations.QueueRegistersComplete : Prop := ∀ (rd q rs1 : Nat) (es : List Word) (w : Word) (s : State), s.me.answer = none →
  s.me.spec = none → s.handOffReady = true → s.me.service = false →
  let v := s.getQueue q
  let me := s.cur.hart
  exec (.qtry rd q) s = .next (s.wrote rd (BitVec.ofNat 64 v.entries.length)) ∧
  (v = ⟨es, none, [], []⟩ →
    (es.length < 8 → ∃ t, exec (.qpush q rs1) s = .next t ∧ t.me = s.me.retired (s.me.pc + 4) ∧ t.mem = s.mem ∧
      t.getQueue q = ⟨es ++ [s.xr rs1], none, [], []⟩) ∧
    (8 ≤ es.length → ∃ t, exec (.qpush q rs1) s = .next t ∧ t.me.pc = s.me.pc ∧ t.me.wait.isSome ∧
      t.getQueue q = ⟨es, none, [(me, s.xr rs1)], []⟩) ∧
    (es = [] → ∃ t, exec (.qpop rd q) s = .next t ∧ t.me.pc = s.me.pc ∧ t.me.wait.isSome ∧ t.getQueue q = ⟨[], none, [], [me]⟩)) ∧
  (v = ⟨w :: es, none, [], []⟩ → ∃ t, exec (.qpop rd q) s = .next t ∧ t.me = (s.me.writes rd w).retired (s.me.pc + 4) ∧
    t.mem = s.mem ∧ t.getQueue q = ⟨es, none, [], []⟩) ∧
  (∀ producer consumer, v.pipe = some (producer, consumer) →
    (producer ≠ me → exec (.qpush q rs1) s = .next (s.raises 30 (BitVec.ofNat 64 q))) ∧
    (consumer ≠ me → exec (.qpop rd q) s = .next (s.raises 30 (BitVec.ofNat 64 q))))

/-- R82 to R84: messages. `msend` completes when its record has been accepted and raises REMOTE for a target outside the gang, a LEN of 0 or
a reserved bit, once the loads of its payload have their values (R52); `mpoll` reads the header of the first record; `mrecv` of a record
whose payload is stored consumes it and returns its
header. An arriving record is placed in an empty ring at 0, and refused by a full one, which it meets again later. -/
def Obligations.MessagesComplete : Prop := ∀ (rd rs1 rs2 id part ch retries : Nat) (src : HartId) (dst : CellId) (ws done : List Word)
    (r : MsgRing) (s : State),
  let w := s.xr rs2
  let mine := (s.xr rs1).toNat % 64
  let ring := s.getRing s.myCell s.ctx.part mine
  let hdr := (lookup r.head r.ring).getD 0
  (s.me.op = some (.asked id) → s.me.answer = some .done → exec (.msend rs1 rs2) s = .next s.passed) ∧
  (s.me.op = none ∧ fld w 24 5 = 0 ∨ s.me.op = some (.words done) ∧ done.length = fld w 24 5 → s.me.spec = none →
    s.gangTarget w = none ∨ fld w 24 5 = 0 ∨ fld w 29 35 ≠ 0 →
    exec (.msend rs1 rs2) s = .next (s.raises 38 w)) ∧
  (ring.used = 0 → exec (.mpoll rd rs1) s = .next (s.wrote rd 0)) ∧
  (ring = r → r.used ≠ 0 → hdr.getLsbD 5 = false →
    exec (.mpoll rd rs1) s = .next (s.wrote rd hdr) ∧
    (s.channelTaken mine = false → s.me.op = some (.receiving mine done) → done.length = fld hdr 0 5 →
      ∃ t u, exec (.mrecv rd rs1) s = .next t ∧ t.me = (s.me.writes rd hdr).retired (s.me.pc + 4) ∧ t.mem = s.mem ∧
        t.getRing s.myCell s.ctx.part mine = u ∧ (r.used = done.length + 1 → u.head = 0 ∧ u.tail = 0 ∧ u.used = 0) ∧
        (done.length + 1 < r.used → u.head = (r.head + done.length + 1) % 32 ∧ u.tail = r.tail ∧ u.used = r.used - (done.length + 1)))) ∧
  (s.channelTaken mine = false → ring.used = 0 → s.me.op = none →
    ∃ t, exec (.mrecv rd rs1) s = .next t ∧ t.me.pc = s.me.pc ∧ t.me.wait = some ⟨.message mine, true⟩) ∧
  (s.getOp id = some (.message src part dst ch ws retries false) → (s.getCell dst).ctx.part = part → ws.length ≤ 31 →
    (s.getRing dst part ch = ⟨0, 0, 0, []⟩ → ∃ t u, exec (.msendRecordArrives id) s = .next t ∧ t.getOp id = none ∧ t.mem = s.mem ∧
      t.getRing dst part ch = u ∧ u.head = 0 ∧ u.tail = (ws.length + 1) % 32 ∧ u.used = ws.length + 1 ∧
      lookup 0 u.ring = some (State.msgHeader src ws.length) ∧ ∀ i < ws.length, lookup (i + 1) u.ring = ws[i]?) ∧
    ((s.getRing dst part ch).used = 32 → ∃ t, exec (.msendRecordArrives id) s = .next t ∧ t.pool = s.pool ++ [.msendRetry id] ∧
      t.getRing dst part ch = s.getRing dst part ch ∧ t.getOp id = some (.message src part dst ch ws (retries + 1) true))) ∧
  (s.getOp id = some (.message src part dst ch ws retries true) → src.pkg = dst.pkg → src.hart < 1024 →
    ∃ t, exec (.msendRetry id) s = .next t ∧ t.pool = s.pool ++ [.msendRecordArrives id] ∧
      t.getOp id = some (.message src part dst ch ws retries false))

/-- R72, R87 to R89: `rep` starts a loop at the next word, or skips the body when its count is 0; `yield` passes the round-robin point of
its level; `prio` sets the level, 0 becoming 1 in U mode; `grpq` reads the groups of a rank, or sets bit 63 for a rank outside the gang. -/
def Obligations.ControlInstructionsComplete : Prop := ∀ (rd rs1 len stride mask : Nat) (g : Gang) (s : State),
  let n := (s.xr rs1).toNat % 2 ^ 32
  let start := s.me.pc + 4
  let level := (s.xr rs1).toNat % 4
  let rank := (s.xr rs1).toNat
  let groups := ((List.range 256).filter fun i => i = 0 ∨ ∃ rs ∈ lookup i g.lpb.groups, rank ∈ rs).take 4
  (n = 0 → exec (.rep rs1 len stride mask) s = .next (s.completes s.me (start + BitVec.ofNat 64 (4 * (len + 1))))) ∧
  (n ≠ 0 → s.me.loop = none → ∃ t, exec (.rep rs1 len stride mask) s = .next t ∧ t.me.pc = start ∧
    t.me.loop = some ⟨start, len + 1, stride, mask, n, 0, 0⟩ ∧ t.me.csr.repState = BitVec.ofNat 64 (2 ^ 35 + n) ∧
    t.me.csr.minstret = s.me.csr.minstret + 1 ∧ t.me.x = s.me.x ∧ t.mem = s.mem) ∧
  (∃ t, exec .yield s = .next t ∧ t.me = s.me.retired (s.me.pc + 4) ∧ t.mem = s.mem ∧
    lookup (4 * (s.cur.hart % 32 / 8) + s.me.prio) (t.getCell s.myCell).rr = some s.cur.hart) ∧
  exec (.prio rs1) s = .next (s.completes { s.me with prio := if s.me.mode = .u ∧ level = 0 then 1 else level } (s.me.pc + 4)) ∧
  (s.gangOf s.myCell = some g → g.cells.length ≤ rank → exec (.grpq rd rs1) s = .next (s.wrote rd (BitVec.ofNat 64 (2 ^ 63)))) ∧
  (s.gangOf s.myCell = some g → rank < g.cells.length → exec (.grpq rd rs1) s = .next (s.wrote rd (BitVec.ofNat 64
    (groups.foldr (fun x r => x + 256 * r) 0 + groups.length * 2 ^ 32))))

/-- R72: how a loop goes on. An instruction of the body that completes moves IDX on; the last one of a pass lowers REM, of 32 bits,
adds the stride to OFS modulo 16 and goes back to the start, or, where REM is then 0, ends the loop after the body; a REM that software
has made 0 is all ones then, and the loop goes on. rep.state shows the loop, and minstret rises by
one whatever happens. -/
def Obligations.LoopPasses : Prop := ∀ (h : Hart) (l : Loop) (npc : Word),
  let r := h.retired npc
  let l' := fun (m : Loop) => r.loop = some m ∧ r.csr.repState =
    BitVec.ofNat 64 (m.rem % 2 ^ 32 + m.idx % 8 * 2 ^ 32 + 2 ^ 35 + m.ofs % 16 * 2 ^ 36)
  r.csr.minstret = h.csr.minstret + 1 ∧ r.x = h.x ∧ r.h = h.h ∧ r.mode = h.mode ∧ r.wait = none ∧ r.op = none ∧
  (h.loop = none → r.pc = npc ∧ r.loop = none ∧ r.csr.repState = h.csr.repState) ∧
  (h.loop = some l → h.pc = l.start + BitVec.ofNat 64 (4 * l.idx) →
    (l.idx + 1 < l.len → r.pc = npc ∧ l' { l with idx := l.idx + 1 }) ∧
    (l.len ≤ l.idx + 1 → l.rem = 0 → r.pc = l.start ∧
      l' { l with rem := 2 ^ 32 - 1, idx := 0, ofs := (l.ofs + l.stride) % 16 }) ∧
    (l.len ≤ l.idx + 1 → 1 < l.rem → l.rem < 2 ^ 32 → r.pc = l.start ∧ l' { l with rem := l.rem - 1, idx := 0, ofs := (l.ofs + l.stride) % 16 }) ∧
    (l.len ≤ l.idx + 1 → l.rem = 1 → r.pc = l.start + BitVec.ofNat 64 (4 * l.len) ∧ r.loop = none ∧
      r.csr.repState.getLsbD 35 = false ∧ fld r.csr.repState 0 32 = 0)) ∧
  (h.loop = some l → h.pc ≠ l.start + BitVec.ofNat 64 (4 * l.idx) → r.pc = npc ∧ l' l)

/-- R85, R86: `halt` of a gang context ends it once its stores have performed: its reservation is lost, the mutexes it holds are free or
pass on, it counts as arrived in its gang's barriers, and the last hart of the cell makes the cell report. `tail` does the same in a
launch with TEST, is illegal in any other, and frees the context at once while the tracker follows its stores. -/
def Obligations.HartEndComplete : Prop := ∀ (rs1 n i : Nat) (g : Gang) (s : State), s.me.service = false → s.cur.hart < 24 →
  s.me.spec = none → lookup s.cur.hart (s.getCell s.myCell).preempted = none →
  let ends := fun (t : State) (st : HartStatus) => t.me.status = st ∧ t.me.x = s.me.x ∧ t.mem = s.mem ∧
    (∀ r ∈ t.resvs, r.1 ≠ s.cur)
  let freed := fun t : State => (n < 8 → s.myMutex n = ⟨some s.cur.hart, []⟩ → t.myMutex n = ⟨none, []⟩) ∧
    (s.ctx.gang = some i → lookup i s.gangs = some g → ∃ x, lookup i t.gangs = some x ∧ s.cur ∈ x.gone)
  let test := (s.gangOf s.myCell).any fun g => g.lpb.test
  let settled := s.storesDone s.who s.ctx.part
  (settled = true → ∃ t, exec (.halt rs1) s = .next t ∧ ends t .halted ∧ freed t ∧
    ((∀ p ∈ s.harts, p.1.cellId = s.myCell → p.1 = s.cur ∨ (p.2.status ≠ .running ∧ p.2.status ≠ .tracked)) →
      (s.getCell s.myCell).preempted = [] → Event.cellDone s.myCell ∈ t.pool ∧
        ((s.xr rs1).getLsbD 0 = true → t.ctx.retainBit = true ∧ t.ctx.succ = (s.xr rs1).toNat / 2 ^ 32))) ∧
  (settled = false → ∃ t, exec (.halt rs1) s = .next t ∧ t.me.pc = s.me.pc ∧ t.me.wait.isSome ∧ t.me.status = s.me.status) ∧
  (test = false → exec .tail s = .next (s.raises 2 (BitVec.ofNat 64 ((encode .tail).getD 0)))) ∧
  (test = true → settled = true → s.copiesOut s.who s.ctx.part = false → ∃ t, exec .tail s = .next t ∧ ends t .halted ∧ freed t) ∧
  (test = true → settled = false → s.tracked s.myCell (s.cur.hart / 8) < 4 → ∃ t, exec .tail s = .next t ∧ ends t .tracked)

/-- R62, R63, R276: an interrupt that is pending, enabled and allowed, the first in the order 11, 3, 19, 18, 17, 16, is taken between
instructions: mepc holds the pc, mcause the code with bit 63 set, mtval 0, the handler is the base of mtvec or, vectored, 4 times
the code behind it, and the hart's registers are as before.
R64, R228: a hart parked by `wfi` is woken once a bit of mie AND mip is 1, and goes on after the `wfi` whatever becomes of the bit; it stays
parked until then. -/
def Obligations.InterruptsAndWakes : Prop :=
  (∀ (h : HartId) (c : Nat) (before after : List Nat) (s : State),
  let v := s.getHart h
  let on := s.mipOf h &&& v.csr.mie
  s.interruptible h = true → s.impreciseDue h = false → (v.mode = .u ∨ v.csr.mstatus.getLsbD 3 = true) →
  [11, 3, 19, 18, 17, 16] = before ++ c :: after → on.getLsbD c = true → (∀ d ∈ before, on.getLsbD d = false) →
    ∃ t u, exec (.interruptTaken h) s = .next t ∧ t.getHart h = u ∧ t.mem = s.mem ∧ u.x = v.x ∧ u.h = v.h ∧ u.mode = .m ∧
      u.pc = (v.csr.mtvec &&& ~~~(3 : Word)) + (if v.csr.mtvec.toNat % 4 = 1 then BitVec.ofNat 64 (4 * c) else 0) ∧
      u.csr.mepc = v.pc &&& ~~~(3 : Word) ∧ u.csr.mcause = BitVec.ofNat 64 (2 ^ 63 + c) ∧ u.csr.mtval = 0 ∧
      u.csr.mstatus = entryStatus v.csr.mstatus v.mode ∧ u.csr.mip.getLsbD c = false ∧ u.wait = none) ∧
  (∀ (h : HartId) (ab : Bool) (s : State),
  let v := s.getHart h
  (v.wait = some ⟨.interrupt, ab⟩ → v.csr.mie &&& s.mipOf h ≠ 0 →
    (∃ t, exec (.hartWake h) s = .next t ∧ t = s.setHart h { v with wait := none, answer := some .done } ∧
      (h = s.cur → exec .wfi t = .next t.passed))) ∧
  (v.wait = some ⟨.interrupt, ab⟩ → v.csr.mie &&& s.mipOf h = 0 → exec (.hartWake h) s = .next s) ∧
  (∀ k, v.wait = some ⟨k, ab⟩ → k ≠ .interrupt → exec (.hartWake h) s = .next s))

/-- R277: a pending imprecise exception is taken by a gang hart in U mode. With ef.ptr 0, or in host memory while the link is down, no record
is written, mtval is 0 and the cell's log has one more entry; where the record's place is free its words are there when the handler starts,
and mtval holds ef.ptr. The trap itself is as every trap, with bit 63 of mcause clear. -/
def Obligations.ImpreciseExceptionTaken : Prop := ∀ (h : HartId) (r : FaultRecord) (g : Seg) (s : State),
  let v := s.getHart h
  let taken := fun (t : State) (tval : Word) => ∃ u, t.getHart h = u ∧ u.mode = .m ∧ u.pc = v.csr.mtvec &&& ~~~(3 : Word) ∧
    u.csr.mepc = v.pc &&& ~~~(3 : Word) ∧ u.csr.mcause = BitVec.ofNat 64 r.cause ∧ u.csr.mtval = tval ∧ u.imprecise = none ∧
    u.x = v.x ∧ u.csr.mstatus = entryStatus v.csr.mstatus v.mode
  v.imprecise = some r → v.service = false → v.mode = .u → s.interruptible h = true →
    (v.csr.efPtr = 0 → s.recordPlace h = none) ∧
    (∀ e, s.translateFor h.dieId (s.getCell h.cellId).ctx.part h.pkg v.csr.efPtr = some e → s.hostGone (e.phys v.csr.efPtr.toNat) = true →
      s.recordPlace h = none) ∧
    (s.recordPlace h = none → (s.getCell h.cellId).elog.length < 16 → ∃ t, exec (.impreciseException h) s = .next t ∧ taken t 0 ∧
      t.mem = s.mem ∧ (t.getCell h.cellId).elog.length = (s.getCell h.cellId).elog.length + 1) ∧
    (s.mem.wf = true → s.recordPlace h = some g → s.readHeld g = false → s.ownedWords g = [] → g.kind = kUntracked → g.qa % 64 = 0 →
      ∃ t, exec (.impreciseException h) s = .next t ∧ taken t v.csr.efPtr ∧
        t.mem.word g.qa = BitVec.ofNat 64 (r.cause + r.sub * 2 ^ 8 + r.src * 2 ^ 16 + r.ovf * 2 ^ 24 + r.seq % 2 ^ 32 * 2 ^ 32) ∧
        t.mem.word (g.qa + 8) = r.addr ∧ t.mem.word (g.qa + 16) = r.tgt ∧ t.mem.word (g.qa + 24) = BitVec.ofNat 64 r.insn ∧
        (∀ i ∈ [32, 40, 48, 56], t.mem.word (g.qa + i) = 0) ∧
        ∀ a, a < g.qa ∨ g.qa + 64 ≤ a → t.mem.read a = s.mem.read a)

/-- R127, R128, R131, R134, R135, R140, R141, R144 to R155: an engine instruction whose operands pass their checks retires, and the command
that has captured its operands (R13) stands at the end of its engine's queue; a bad handle raises HANDLE with the register, and a
destination past the share SPAD_RANGE with the block. Model's choice: with two bad handles it is the one checked first, d before a, that
mtval names (log entry 35). -/
def Obligations.EngineInstructionsComplete : Prop := ∀ (d a b acc rs rs1 rs2 f g n m q : Nat) (s : State),
  let c := s.me.csr.veC.toNat
  let is := fun r f n : Nat => s.SpadHandle r ∧ hFmt (s.hr r) = f ∧ hCount (s.hr r) = n
  let vec := fun r f n : Nat => is r f n ∧ isVec f = true
  let virta := fun r : Nat => handleBad (s.hr r) = false ∧ hKind (s.hr r) = kindVirta ∧ spadPast s.ctx.spad (s.hr r) = none
  let float := isFp f = true
  let wide := fun f n blocks : Nat => (f = 0x08 ∧ n = 1024 * blocks) ∨ (f = 0x09 ∧ n = 2048 * blocks)
  let up := fun x y : Nat => (x + y - 1) / y
  let drain := fld s.me.csr.mxDrn 0 8
  let rows := (s.xr rs2).toNat % 2 ^ 13
  let all : List (Instr × Nat × Prop) := [
    (.mma acc a b, 0, s.SpadHandle a ∧ s.SpadHandle b), (.mmaz acc a b, 0, s.SpadHandle a ∧ s.SpadHandle b),
    (.mmav acc a b, 0, virta a ∧ s.SpadHandle b), (.mmavz acc a b, 0, virta a ∧ s.SpadHandle b),
    (.mdrn d acc b, 0, s.SpadHandle d ∧ (drain ∈ [0x06, 0x10, 0x11, 0x12, 0x13, 0x14, 0x15] → s.SpadHandle b)),
    (.mmrg acc a, 0, is a 0x06 2), (.aclr acc, 0, True),
    (.vadd d a b, 1, vec d f n ∧ vec a f n ∧ vec b f n), (.vsub d a b, 1, vec d f n ∧ vec a f n ∧ vec b f n),
    (.vmul d a b, 1, vec d f n ∧ vec a f n ∧ vec b f n), (.vmax d a b, 1, vec d f n ∧ vec a f n ∧ vec b f n),
    (.vmin d a b, 1, vec d f n ∧ vec a f n ∧ vec b f n), (.vaxpy d a b, 1, vec d f n ∧ vec a f n ∧ vec b f n),
    (.vsel d a b, 1, vec d f n ∧ vec a f n ∧ vec b f n), (.vfma d a b, 1, vec d f n ∧ vec a f n ∧ vec b f n ∧ vec c f n),
    (.vscl d a rs2, 1, vec d f n ∧ vec a f n), (.vcopy d a, 1, vec d f n ∧ vec a f n), (.vreds d a, 1, vec d f n ∧ vec a f n),
    (.vredm d a, 1, vec d f n ∧ vec a f n), (.vtrn d a, 1, vec d f n ∧ vec a f n),
    (.vexp2 d a, 1, vec d f n ∧ vec a f n ∧ float), (.vrcp d a, 1, vec d f n ∧ vec a f n ∧ float),
    (.vrsq d a, 1, vec d f n ∧ vec a f n ∧ float), (.vfill d rs1, 1, vec d f n),
    (.vcmplt rs a b, 1, vec a f n ∧ vec b f n), (.vcmpeq rs a b, 1, vec a f n ∧ vec b f n),
    (.vargm d a, 1, vec d 0x05 n ∧ vec a f n), (.verrs d a b, 1, vec d 0x08 n ∧ vec a f n ∧ vec b f n ∧ float),
    (.vcvt d a, 1, vec d g m ∧ vec a f n ∧ m = up (n * vecBits g) (vecBits f)),
    (.cvala d a b, 2, is d 0x02 n ∧ n ≤ 64 ∧ is a f m ∧ wide f (2048 * n) m),
    (.cvalb d a b, 2, is d 0x02 n ∧ n ≤ 64 ∧ is a f m ∧ isMx f = true ∧ m = up (2048 * n) (fmtElems f) ∧ is b 0x18 q ∧ q = up (64 * n) 4096),
    (.cvqmx d a b, 2, is d g m ∧ isMx g = true ∧ is a f n ∧ isWide f = true ∧ m = up (n * fmtElems f) (fmtElems g) ∧ is b 0x18 q ∧
      q = up (n * fmtElems f / 32) 4096),
    (.cvdq d a b, 2, is d f n ∧ isWide f = true ∧ is a g m ∧ isMx g = true ∧ m = up (n * fmtElems f) (fmtElems g) ∧ is b 0x18 q ∧
      q = up (n * fmtElems f / 32) 4096),
    (.cvi8 d a, 2, is d 0x01 m ∧ is a 0x08 n ∧ m = up n 4), (.cvrns d a b, 2, is d 0x06 1 ∧ is a 0x05 1 ∧ is b 0x06 1),
    (.cvcrt d a, 2, is d 0x05 1 ∧ is a 0x06 1),
    (.cvlay d a rs2, 2, is d f n ∧ is a f n ∧ fmtBits f ∈ [some 8, some 16, some 32] ∧ 1 ≤ rows ∧ rows ≤ 4096 ∧
      n * fmtElems f % rows = 0)]
  s.me.spec = none →
    (∀ p ∈ all, p.2.2 → s.hasBuffered s.who = false → s.queueFull s.myCell p.2.1 = false →
      ∃ t, exec p.1 s = .next t ∧ t.me = s.me.retired (s.me.pc + 4) ∧ t.mem = s.mem ∧ t.ctx.tiles = s.ctx.tiles ∧
        t.ctx.queue p.2.1 = s.ctx.queue p.2.1 ++ [s.mkCmd p.1] ∧ (∀ e < 3, e ≠ p.2.1 → t.ctx.queue e = s.ctx.queue e) ∧
        t.pool = s.pool ++ [.engineCommandStart s.myCell p.2.1]) ∧
    (∀ i ∈ [Instr.vadd d a b, .vsub d a b, .vmul d a b, .vmax d a b, .vmin d a b, .vaxpy d a b, .vsel d a b, .vfma d a b],
      (handleBad (s.hr d) = true → exec i s = .next (s.raises 31 (BitVec.ofNat 64 d))) ∧
      (handleBad (s.hr d) = false → handleBad (s.hr a) = true → exec i s = .next (s.raises 31 (BitVec.ofNat 64 a)))) ∧
    (∀ i, vec a f n → vec b f n → handleBad (s.hr d) = false → hKind (s.hr d) = kindSpad → hFmt (s.hr d) = f → hCount (s.hr d) = n →
      spadPast s.ctx.spad (s.hr d) = some i → exec (.vadd d a b) s = .next (s.raises 32 (BitVec.ofNat 64 i)))

/-- R128 to R132, R141, R146, R149: what the command at the head of its queue computes when it starts, its sources FULL and its
destinations EMPTY: its destinations are FILLING, and it will write saturated integer results, a filled or copied block, or flags;
`mmaz` on 8-bit integers leaves the dot products in the tile, each as its residues modulo 1023, 1024 and 1025, and the product bound in
BUDGET; `aclr` clears a tile. -/
def Obligations.EngineCommandsStart : Prop := ∀ (c : CellId) (d a b acc rs rs1 n f : Nat) (k : Cmd) (rest : List Cmd) (s : State),
  let e := engineOf k.instr
  let w := vecBits f
  let x := fun i j : Nat => sx w (elemOf (s.getTile c (spadTile k.ha i)).data w j)
  let y := fun i j : Nat => sx w (elemOf (s.getTile c (spadTile k.hb i)).data w j)
  let started := fun (t : State) (r : EngineResult) => t.mem = s.mem ∧
    (t.getCell c).ctx.queue e = { k with result := some r } :: rest ∧ t.pool = s.pool ++ [.engineCommandDone c e] ∧
    ∀ i ∈ k.writes, (t.getTile c i).st = .filling
  let fills := fun (value : Nat → Nat → Nat) => ∃ t r, exec (.engineCommandStart c e) s = .next t ∧ started t r ∧ r.late = 0 ∧
    r.blocks.length = n ∧ ∀ i < n, ∃ D, r.blocks[i]? = some (spadTile k.hd i, some (D, BitVec.ofNat 512 (0x7F * ((2 ^ 512 - 1) / 255)))) ∧
      ∀ j < 32768 / w, elemOf D w j = value i j
  (s.getCell c).ctx.queue e = k :: rest → k.result = none → k.rows = [] → s.enginesPaused c = false →
  (∀ i ∈ k.reads, (s.getTile c i).st = .full) → (∀ i ∈ k.writes, (s.getTile c i).st = .empty) →
    (∀ p ∈ [(Instr.vadd d a b, fun x y : Int => x + y), (.vsub d a b, fun x y => x - y), (.vmul d a b, fun x y => x * y),
        (.vmax d a b, max), (.vmin d a b, min)],
      k.instr = p.1 → f = 0x01 ∨ f = 0x05 → (∀ h ∈ [k.hd, k.ha, k.hb], hFmt h = f ∧ hCount h = n) →
      fills fun i j => (BitVec.ofInt w (max (-(2 ^ (w - 1))) (min (2 ^ (w - 1) - 1) (p.2 (x i j) (y i j))))).toNat) ∧
    (k.instr = .vfill d rs1 → isVec f = true → hFmt k.hd = f → hCount k.hd = n → fills fun _ _ => k.xv.toNat % 2 ^ w) ∧
    (k.instr = .vcopy d a → hCount k.hd = n → hCount k.ha = n → ∃ t r, exec (.engineCommandStart c e) s = .next t ∧ started t r ∧
      r.blocks.length = n ∧ ∀ i < n, r.blocks[i]? = some (spadTile k.hd i, some ((s.getTile c (spadTile k.ha i)).data,
        (s.getTile c (spadTile k.ha i)).side))) ∧
    (k.instr = .vcmplt rs a b → f = 0x01 ∨ f = 0x05 → (∀ h ∈ [k.ha, k.hb], hFmt h = f ∧ hCount h = n) →
      ∃ t r, exec (.engineCommandStart c e) s = .next t ∧ started t r ∧ r.blocks = [] ∧ r.late = 0 ∧ ∀ i < n, ∀ j < 32768 / w,
        let o := i * (32768 / w) + j
        r.flags[o]? = some ((k.xv.toNat + o) % 1024, decide (x i j < y i j))) ∧
    (k.instr = .mmaz acc a b → k.csr.fmt % 2 ^ 16 = 0x0101 → ∃ t v, exec (.engineCommandStart c e) s = .next t ∧ started t noResult ∧
      t.getAcc c acc = v ∧ v.latched = true ∧ fld v.status 32 29 = 128 * 128 * 128 ∧ v.status.getLsbD 63 = false ∧
      ∀ i < 32, ∀ j < 32,
        let sum : Int := ((List.range 128).map fun l => sx 8 (elemOf (s.getTile c (spadTile k.ha 0)).data 8 (128 * i + l)) *
          sx 8 (elemOf (s.getTile c (spadTile k.hb 0)).data 8 (128 * j + l))).sum
        v.vals[32 * i + j]? = some ((sum % 1023).toNat, (sum % 1024).toNat, (sum % 1025).toNat)) ∧
    (k.instr = .aclr acc → ∃ t, exec (.engineCommandStart c e) s = .next t ∧ started t noResult ∧ t.getAcc c acc = ⟨[], 0, false, [], []⟩)

/-- R71, R128 to R130, R141 to R143, R156 to R158: how a command ends. Done, its blocks are FULL or POISON and it leaves its queue; starved of a
source, it leaves it with its EMPTY destinations POISON; `astat` at the head answers the status word, with which its hart completes.
A buffered command is staged only while its engine holds no committed one: it is staged then, and is not while there is one; a branch that
resolves as predicted lets the buffer's entries that wait for no other branch into their queues, and otherwise takes the hart back with its
registers; a hart that was handed work meanwhile takes the branch again (the model's reading of R71, log entry 5); where the event is the
wrong one of the two, the right one follows (the model's choice, log entry 23). `mmsend` retires once its
descriptor and handles are
loaded, and the command reaches the matrix queue of a cell whose CAPIN it names. -/
def Obligations.EngineCommandsEnd : Prop := ∀ (c : CellId) (h : HartId) (e i id acc rd rs1 rs2 part cap : Nat) (w : Word) (ws : List Word)
    (sp : Spec) (b : Buffered) (k : Cmd) (rest : List Cmd) (v : Option (BitVec 32768 × BitVec 512)) (s : State),
  let x := (s.getCell c).ctx
  let word := fun j => ws.getD j 0
  (x.queue e = k :: rest → k.result = some ⟨[(i, v)], [], [], 0⟩ → (s.getCell c).dbg.getLsbD 17 = false → (s.getTile c i).st = .filling →
    (∀ j ∈ k.reads, (s.getTile c j).brel = none) →
    ∃ t, exec (.engineCommandDone c e) s = .next t ∧ (t.getCell c).ctx.queue e = rest ∧ t.mem = s.mem ∧
      (∀ d z, v = some (d, z) → t.getTile c i = ⟨.full, d, z, none, none⟩) ∧ (v = none → (t.getTile c i).st = .poison)) ∧
  (x.queue e = k :: rest → s.enginesPaused c = true → exec (.srcStarved c e) s = .next (s.push (.srcStarved c e))) ∧
  (x.queue e = k :: rest → s.enginesPaused c = false → k.result = none → k.rows = [] → s.starved c k = true →
    ∃ t, exec (.srcStarved c e) s = .next t ∧ (t.getCell c).ctx.queue e = rest ∧ t.mem = s.mem ∧
      ∀ j ∈ k.writes, (s.getTile c j).st = .empty → (t.getTile c j).st = .poison) ∧
  (x.queue 0 = k :: rest → k.result = none → s.enginesPaused c = false → k.instr = .astat rd acc → k.src.cellId = c → k.part = x.part →
    s.Plain k.src k.part →
    ∃ t, exec (.engineCommandStart c 0) s = .next t ∧ (t.getCell c).ctx.queue 0 = rest ∧
      (t.getHart k.src).answer = some (.word (s.getAcc c acc).status) ∧ (t.getHart k.src).wait = none) ∧
  (s.me.answer = some (.word w) → exec (.astat rd acc) s = .next (s.wrote rd w)) ∧
  (s.me.answer = none → s.hasBuffered s.who = false → s.queueFull s.myCell 0 = false → ∃ t, exec (.astat rd acc) s = .next t ∧
    t.ctx.queue 0 = s.ctx.queue 0 ++ [s.mkCmd (.astat rd acc)] ∧ t.me.wait.isSome ∧ t.me.pc = s.me.pc) ∧
  (x.commit = [b] → b.staged = false → x.queue b.eng = [] → ∃ t, exec (.bufferedCommandStart c (b.cmd.src.hart % 32 / 8)) s = .next t ∧
    (t.getCell c).ctx.commit = [{ b with staged := true }] ∧ (t.getCell c).ctx.tiles = x.tiles ∧ t.harts = s.harts ∧ t.mem = s.mem) ∧
  (x.commit = [b] → x.queue b.eng ≠ [] → exec (.bufferedCommandStart c (b.cmd.src.hart % 32 / 8)) s = .next s) ∧
  (h.cellId = c → s.Plain h x.part → (s.getHart h).spec = some sp → s.resolvable h (s.getHart h) = true →
    let right := sp.flag.elim (sp.expect = true) fun n => x.flags.getLsbD n = sp.expect
    (right → exec (.commitBufferDiscard h) s = .next (s.pushOnce (.commitBufferCommit h))) ∧
    (right → sp.handed = true → x.commit = [] → ∃ t, exec (.commitBufferCommit h) s = .next t ∧ (t.getHart h).spec = none ∧
      (t.getHart h).younger = [] ∧ (t.getHart h).x = sp.savedX ∧ (t.getHart h).pc = sp.branchPc) ∧
    (right → sp.handed = false →
      (x.commit = [] → ∃ t, exec (.commitBufferCommit h) s = .next t ∧
        (t.getHart h).spec = (s.getHart h).younger.head? ∧ (t.getHart h).younger = (s.getHart h).younger.tail ∧
          (t.getHart h).x = (s.getHart h).x ∧ (t.getHart h).pc = (s.getHart h).pc) ∧
      (x.commit = [b] → b.cmd.src = h → s.queueFull c b.eng = false → b.eng = engineOf b.cmd.instr → b.tag = 1 → b.rows = [] →
        b.cmd.rows = [] → ∃ t, exec (.commitBufferCommit h) s = .next t ∧ (t.getHart h).spec = (s.getHart h).younger.head? ∧
          (t.getCell c).ctx.commit = [] ∧
          (t.getCell c).ctx.queue b.eng = x.queue b.eng ++ [b.cmd])) ∧
    (¬ right → exec (.commitBufferCommit h) s = .next (s.pushOnce (.commitBufferDiscard h)) ∧
      ∃ t, exec (.commitBufferDiscard h) s = .next t ∧ (t.getHart h).spec = none ∧ (t.getHart h).x = sp.savedX ∧
        (t.getHart h).pc = sp.otherPc ∧ (t.getHart h).csr.minstret = sp.savedMinstret ∧
        (t.getHart h).younger = [] ∧
        (∀ y ∈ (t.getCell c).ctx.commit, y.cmd.src = h → y.tag = 0) ∧ t.mem = s.mem)) ∧
  (s.me.op = some (.words ws) → (s.xr rs1).toNat % 64 = 0 → s.gangTarget (s.xr rs2) = some c → fld (word 0) 32 32 = 0 →
    fld (word 5) 16 48 = 0 → word 6 = 0 → word 7 = 0 →
    (∀ p ∈ [(Instr.aclr acc, 8), (.mma acc 0 0, 16), (.mmaz acc 0 0, 16)], acc < 16 → encode p.1 = some (word 0).toNat → ws.length = p.2 →
      (p.2 = 16 → word 1 ≠ 0 ∧ word 2 ≠ 0 ∧ (word 1).toNat % 32 = 0 ∧ (word 2).toNat % 32 = 0) →
      ∃ t k, exec (.mmsend rs1 rs2) s = .next t ∧ t.me = s.me.retired (s.me.pc + 4) ∧ t.mem = s.mem ∧
        t.getOp s.nextId = some (.matrix s.who s.ctx.part c s.me.csr.mxCapout.toNat k) ∧ k.instr = p.1 ∧ k.desc = some (s.xr rs1) ∧
        k.csr.fmt = (word 3).toNat % 2 ^ 18 ∧ k.csr.aexp = fld (word 5) 0 8 ∧ k.csr.bexp = fld (word 5) 8 8 ∧
        (p.2 = 16 → (∀ j < 4, k.ha.extractLsb' (64 * j) 64 = word (8 + j)) ∧ ∀ j < 4, k.hb.extractLsb' (64 * j) 64 = word (12 + j)))) ∧
  (s.getOp id = some (.matrix h part c cap k) → x.part = part → cap = x.capin → s.allHalted c = false → k.instr = .aclr acc → k.rows = [] →
    k.hd = 0 → k.hb = 0 → s.queueFull c 0 = false →
    (∀ o ∈ s.ops, o.1 < id → ∀ part' cap' k', o.2 ≠ .matrix h part' c cap' k') → ∃ t l, exec (.mmsendReceive id) s = .next t ∧ t.mem = s.mem ∧
      (t.getCell c).ctx.queue 0 = x.queue 0 ++ [l] ∧
      l = { k with id := s.nextId })

/-- R170 to R172: the channel instructions. `cpgo` starts a chain on an idle channel and gives an empty list END 1; on a busy one it parks, as
`cpwait` does, which completes on an idle one; `cpstat` shows the channel; `cpstop` makes it prefetch and start no more, and ends it when
no record is in flight. Model's choices: that `cpgo` with head 0 changes END alone (log entry 24), and what END of a busy channel `cpstat`
shows (log entries 12 and 24). -/
def Obligations.ChannelInstructionsComplete : Prop := ∀ (rd rs1 rs2 : Nat) (s : State), s.me.answer = none → s.me.spec = none →
  let ch := (s.xr rs1).toNat % 4
  let head := s.xr rs2
  let v := s.getChan s.myCell ch
  let flags := (if v.busy then 32 else 0) + (if v.corrupt then 2 else 0)
  let parks := fun i : Instr => ∃ t, exec i s = .next t ∧ t.me.pc = s.me.pc ∧ t.me.wait = some ⟨.channel ch, true⟩ ∧ t.cells = s.cells
  (head.toNat % 64 ≠ 0 → exec (.cpgo rs1 rs2) s = .next (s.raises 4 head)) ∧
  (head.toNat % 64 = 0 → s.handOffReady = true →
    (v.busy = true → parks (.cpgo rs1 rs2)) ∧
    (v.busy = false → ∃ t, exec (.cpgo rs1 rs2) s = .next t ∧ t.me = s.me.retired (s.me.pc + 4) ∧ t.mem = s.mem ∧
      (head = 0 → t.getChan s.myCell ch = { v with ended := 1 }) ∧
      (head ≠ 0 → .recordFetch s.myCell ch ∈ t.pool ∧ ∃ u, t.getChan s.myCell ch = u ∧ u.busy = true ∧ u.fetch = head.toNat ∧
        u.cache = [] ∧ u.cur = none ∧ u.stopping = false ∧ u.owner = some s.who ∧ u.mode = s.me.mode ∧ u.recAddr = v.recAddr))) ∧
  (v.busy = true → parks (.cpwait rs1)) ∧ (v.busy = false → exec (.cpwait rs1) s = .next s.passed) ∧
  (v.busy = false → exec (.cpstat rd rs1) s = .next (s.wrote rd (BitVec.ofNat 64 (v.recAddr / 64 * 64 + v.ended * 4 + flags)))) ∧
  (v.busy = true → ∃ n < 5, exec (.cpstat rd rs1) s = .next (s.wrote rd (BitVec.ofNat 64 (v.recAddr / 64 * 64 + n * 4 + flags)))) ∧
  (v.busy = false → exec (.cpstop rs1) s = .next s.passed) ∧
  (v.busy = true → ∃ t u, exec (.cpstop rs1) s = .next t ∧ t.me.pc = (s.me.retired (s.me.pc + 4)).pc ∧ t.getChan s.myCell ch = u ∧
    u.fetch = 0 ∧ u.cache = [] ∧ (v.cur = none → u.busy = false ∧ u.ended = 3) ∧
    (v.cur ≠ none → u.busy = true ∧ u.stopping = true ∧ u.cur = v.cur))

/-- R163 to R168, R173: how a chain goes on. A fetched record with OWN set is cached and its LINK fetched next, one with OWN clear ends the
prefetch; the records are taken in order, and an end of the list, an unowned record or a stop gives END 1, 2 or 3, a record that
fails its checks END 4; a record makes its scratch destinations FILLING, and a scratch block moves with its sideband; at its end OWN is cleared, its
flag set and its owner told. That a record moves one unit in a step, in ascending order, each read whole before it is written, is the model's
reading (log entry 24). -/
def Obligations.ChainsProceed : Prop := ∀ (c : CellId) (ch a l : Nat) (b : BitVec 2048) (rest : List (Nat × BitVec 2048 × Nat)) (r : RecRun)
    (gs : List Seg) (d : BitVec 32768) (z : BitVec 512) (h : HartId) (s : State),
  let x := (s.getCell c).ctx
  let v := s.getChan c ch
  let runs := fun (e : Instr) (p : State → Channel → Prop) => ∃ t, exec e s = .next t ∧ p t (t.getChan c ch)
  let ends := fun n : Nat => runs (.recordStart c ch) fun _ u => u.busy = false ∧ u.ended = n ∧ u.cur = none
  let bytes := fun t : State => BitVec.ofNat 2048 (bytesToNat (gs.flatMap fun g => t.pieceBytes c.dieId g))
  v.busy = true → s.enginesPaused c = false →
    (∀ t, v.stopping = false → v.fetch ≠ 0 → v.cache.length < 8 → s.recordPieces c x.part v.mode v.fetch = .ok gs →
      s.tryLock [] s.nextId c x.part v.fetch (v.fetch + 255) gs = .held t → runs (.recordFetch c ch) fun _ u => u.cur = v.cur ∧
        (gs.any t.badIn = true → u.cache = v.cache ∧ u.fetch = 0 ∧ u.failed = some (v.fetch, 7)) ∧
        (gs.any t.badIn = false →
          ((bytes t).getLsbD 0 = true → u.cache = v.cache ++ [(v.fetch, bytes t, s.nextId)] ∧ u.fetch = (bytes t).toNat % 2 ^ 64 / 64 * 64) ∧
          ((bytes t).getLsbD 0 = false → u.cache = v.cache ∧ u.fetch = 0 ∧ u.unowned = true))) ∧
    (v.cur = none →
      (v.stopping = true → ends 3) ∧
      (v.stopping = false → v.cache = (a, b, l) :: rest → runs (.recordStart c ch) fun _ u => u.cache = rest ∧ u.recAddr = a ∧
        u.cur = some ⟨a, b, l, [], 0, 0, none, none, none, [], none, none, none, 0⟩) ∧
      (v.stopping = false → v.cache = [] → v.unowned = true → ends 2) ∧
      (v.stopping = false → v.cache = [] → v.unowned = false → v.failed = none → v.fetch = 0 → ends 1)) ∧
    (v.cur = some r →
      (r.stage = 0 → s.recordBadFor c ch r.bytes = true → ends 4) ∧
      (r.stage = 0 → s.recordBadFor c ch r.bytes = false → Rec.kind r.bytes = 2 ∨ Rec.kind r.bytes = 3 →
        runs (.recordStart c ch) fun t u => u.cur = some { r with stage := 3 } ∧ .recordComplete c ch ∈ t.pool) ∧
      (r.stage = 0 → s.recordBadFor c ch r.bytes = false → Rec.kind r.bytes = 0 →
        (∀ i ∈ State.filledTiles r.bytes, (s.getTile c i).st = .empty) →
        runs (.recordStart c ch) fun t u => u.cur = some { r with stage := 1, engine := (s.decodeEngine c).getD 0 } ∧
          ∀ i ∈ State.filledTiles r.bytes, (t.getTile c i).st = .filling) ∧
      (r.stage = 2 → Rec.kind r.bytes = 0 → r.reading = none → r.writing = none → r.next < State.units r.bytes →
        let src := Rec.saddr r.bytes / 4096 + r.next
        let dst := Rec.daddr r.bytes / 4096 + r.next
        (r.ready = none → Rec.sform r.bytes = 2 → (s.getTile c src).st = .full → runs (.recordStart c ch) fun t u =>
          u.cur = some { r with ready := some ⟨(s.getTile c src).data, (s.getTile c src).side, false⟩, draining := some src } ∧
          (t.getTile c src).st = .draining) ∧
        (r.ready = some ⟨d, z, false⟩ → Rec.dform r.bytes = 2 → r.draining = none → runs (.recordStart c ch) fun t u =>
          u.cur = some { r with ready := none, next := r.next + 1 } ∧ t.getTile c dst = ⟨.full, d, z, none, none⟩)) ∧
      (r.stage = 2 → r.reading = none → r.writing = none → State.units r.bytes ≤ r.next →
        runs (.recordStart c ch) fun _ u => u.cur = some { r with stage := 3 }) ∧
      (r.stage = 3 → s.postsOut c r (Rec.scope r.bytes) (Rec.group r.bytes) = false →
        runs (.recordComplete c ch) fun t u => u.cur = some { r with stage := 4 } ∧ t.mem = s.mem) ∧
      (∀ p lo hi n g, r.stage = 4 → s.getOp r.lock = some (.lock c ch p lo hi (g :: gs) n) → s.readHeld { g with len := 8 } = false →
        g.kind = kTracked → g.qa % 8 = 0 → runs (.recordComplete c ch) fun t u => u.cur = some { r with stage := 5 } ∧
          t.mem = s.mem.setWord g.qa (s.mem.word g.qa &&& ~~~(1 : Word)) ∧ ∀ k ∈ t.locks, k.op ≠ r.lock ∧ k.op ∉ r.sides) ∧
      (r.stage = 5 → Rec.fset r.bytes = true ∨ Rec.kind r.bytes = 2 → Rec.frem r.bytes = false → x.flagWaiters = [] →
        runs (.recordComplete c ch) fun t u => u.cur = some { r with stage := 6 } ∧ (t.getCell c).ctx.flags.getLsbD (Rec.flag r.bytes) = true) ∧
      (r.stage = 6 → Rec.tdec r.bytes = false → Rec.kind r.bytes ≠ 3 →
        runs (.recordComplete c ch) fun t u => u.cur = some { r with stage := 7 } ∧ t.mem = s.mem) ∧
      (r.stage = 7 → v.owner = some h → s.Plain h x.part → h.cellId = c → runs (.recordComplete c ch) fun t u => u.cur = none ∧
        (t.getHart h).csr.mip.getLsbD 17 = (Rec.intr r.bytes || (s.getHart h).csr.mip.getLsbD 17) ∧ .recordStart c ch ∈ t.pool))

/-- R175 to R180: hardware queues at the home of their descriptor. `hqmake` makes a valid descriptor and clears its counts; `hqrsv` reserves
tickets while there is room and parks otherwise; `hqpub` counts published tickets from the front and marks those behind a gap; `hqpop`
returns the oldest published entry, or parks. A descriptor that is not made, or not in its scope, raises QUEUE_SCOPE. -/
def Obligations.HardwareQueuesComplete : Prop := ∀ (rd rs1 rs2 : Nat) (e : TlbEntry) (v : Word) (sc : Nat) (s : State), s.me.spec = none →
  let va := s.xr rs1
  let qa := e.phys va.toNat
  let q := s.hqAt qa
  let w := s.xr rs2
  let tickets := 2 ^ 48
  let rsv := q.rsv.toNat % tickets
  let pub := q.pub.toNat % tickets
  let pop := q.pop.toNat % tickets
  let made := q.made = true ∧ State.inExtent (s.gangOf s.myCell) q.cell q.scope q.group s.myCell = true
  let parks := fun i : Instr => ∃ t, exec i s = .next t ∧ t.me.pc = s.me.pc ∧ t.me.wait.isSome ∧ t.mem = s.mem
  let num := fun n : Nat => BitVec.ofNat 64 n
  let done := fun (i : Instr) (h : Hart) (q' : Hq) => ∃ t, exec i s = .next t ∧ t.me = h.retired (s.me.pc + 4) ∧ t.hqAt qa = q' ∧
    ∀ a, a < qa ∨ qa + 64 ≤ a → t.mem.read a = s.mem.read a
  s.me.answer = none → s.QueueAt va e → va.toNat % 64 = 0 →
    (q.invalid = true → done (.hqmake rd rs1) (s.me.writes rd 1) q) ∧
    (q.invalid = false → q.made = true → done (.hqmake rd rs1) (s.me.writes rd 2) q) ∧
    (q.invalid = false → q.made = false → done (.hqmake rd rs1) (s.me.writes rd 0) { q with
      ctl := q.ctl ||| num (2 ^ 32), rsv := 0, pub := 0, pop := 0, pend := 0, creator := num (hartNumber { s.cur with hart := s.cur.hart % 32 }) }) ∧
    (¬ made → ∀ i ∈ [Instr.hqrsv rd rs1 rs2, .hqpub rs1 rs2, .hqpop rd rs1], ∃ t, exec i s = .next t ∧ t.me.csr.mcause = 30 ∧
      t.me.csr.mtval = va ∧ t.me.mode = .m ∧ t.mem = s.mem) ∧
    (made → 1 ≤ w.toNat → w.toNat ≤ 64 → w.toNat ≤ q.cap →
      let room := (rsv + w.toNat + tickets - pop) % tickets ≤ q.cap ∧ (rsv + w.toNat + tickets - pub) % tickets ≤ 64
      (room → done (.hqrsv rd rs1 rs2) (s.me.writes rd (num (rsv + w.toNat * tickets))) { q with rsv := num ((rsv + w.toNat) % tickets) }) ∧
      (¬ room → parks (.hqrsv rd rs1 rs2))) ∧
    (made → s.released q.scope q.group = true → s.poppersOf qa = [] → q.pend = 0 → fld w 55 9 = 0 →
      let n := fld w 48 7
      let off := (fld w 0 48 + tickets - pub) % tickets
      1 ≤ n → off + n ≤ (rsv + tickets - pub) % tickets → off + n ≤ 64 →
        (off = 0 → done (.hqpub rs1 rs2) s.me { q with pub := num ((pub + n) % tickets) }) ∧
        (off ≠ 0 → done (.hqpub rs1 rs2) s.me { q with pub := num pub, pend := num ((2 ^ n - 1) * 2 ^ off) })) ∧
    (made → s.poppersOf qa = [] →
      (let ea := q.entryVa q.pop.toNat
       let held := tlbFind (s.getCell s.myCell).tlb s.ctx.part s.cur.pkg ea.toNat
       pub ≠ pop → ea.toNat % 8 = 0 → s.walked s.cur.dieId s.ctx.part s.cur.pkg ea = true →
        (∀ e', held = some e' → (s.atQueue qa).entryRead s.who s.ctx.part ea e' = .value v →
          done (.hqpop rd rs1) (s.me.writes rd v) { q with pop := num ((pop + 1) % tickets) }) ∧
        (held = none → tlbFind (s.getDie s.cur.dieId).tlb s.ctx.part s.cur.pkg ea.toNat = none → s.me.walkFault = none →
          parks (.hqpop rd rs1))) ∧
      (pub = pop → parks (.hqpop rd rs1) ∧ ∃ t, exec (.hqpop rd rs1) s = .next t ∧ t.hqWaiters = s.hqWaiters ++ [(qa, s.who, s.ctx.part)])) ∧
    (∀ u, u = s.setHart s.cur { s.me with answer := some (.word v), op := some (.stage sc) } → ∃ t, exec (.hqpop rd rs1) u = .next t ∧
      t.me = (u.me.writes rd v).retired (u.me.pc + 4) ∧ t.mem = u.mem)

/-- R181 to R186: tasks. `tspawn` takes a free slot of the owner's die, writes the id into its record and into x[rd] and enters the task, ready when
its count is 0; `tdep` changes the count of a task that is not ready, and 0 makes it ready; `tdone` of the hart that took a task frees
it and counts its successor down; `tnext` takes the cell's own task that became ready first, gives 0 when none is left, and parks
otherwise; a ready task may be stolen after its age. A wrong id raises TASK. -/
def Obligations.TasksComplete : Prop := ∀ (rd rs1 rs2 id id' n m : Nat) (e : TlbEntry) (d : Nat → Word) (o : Nat → Bool) (t t' : Task)
    (s : State), s.me.spec = none → s.me.answer = none →
  let va := s.xr rs1
  let pkg := s.cur.pkg
  let at' := fun i : Nat => va + BitVec.ofNat 64 (8 * i)
  let w := fun i : Nat => State.wordOf (e.phys (at' i).toNat)
  let ws := [d 0, d 1, d 2, d 3]
  let task := s.recordTask va ws
  let nearOwner := State.inExtent (s.gangOf s.myCell) t.owner t.scope t.group s.myCell
  let retired := fun u : State => u.me = s.me.retired (s.me.pc + 4) ∧ u.mem = s.mem
  (s.me.op = none → va.toNat % 64 = 0 → (∀ i < 4, s.Reaches .load (at' i) 8 e) → s.Reaches .store (va + 24) 4 e →
    s.kindAt e (e.phys va.toNat) = kTracked → (∀ i < 4, s.kindAt e (e.phys (at' i).toNat) = kTracked) →
    (∀ i < 4, e.phys (at' i).toNat = e.phys va.toNat + 8 * i) → e.phys va.toNat % 64 = 0 →
    (∀ i < 4, s.cellPending s.who (w i) = false) → (∀ i < 4, s.l1Get s.myCell (w i) = some ⟨o i, d i⟩) → o 3 = true →
    (s.recordBad ws = true → ∃ u, exec (.tspawn rd rs1) s = .next u ∧ u.me.csr.mcause = 35 ∧ u.me.csr.mtval = va ∧ u.mem = s.mem) ∧
    (s.recordBad ws = false → s.released task.scope task.group = true → task.owner.pkg = pkg → task.owner.die < 16 →
      (s.getDie task.owner.dieId).tasks.length < 16384 → ∃ u i x, exec (.tspawn rd rs1) s = .next u ∧ i / 2 ^ 16 = task.owner.die ∧ i % 2 ^ 16 < 16384 ∧
        lookup (i % 2 ^ 16) (s.getDie task.owner.dieId).tasks = none ∧ u.me = (s.me.writes rd (BitVec.ofNat 64 i)).retired (s.me.pc + 4) ∧
        u.mem = s.mem ∧ u.getTask pkg i = some x ∧ x.record = va ∧ x.owner = task.owner ∧ x.count = fld (d 2) 0 16 ∧ x.taken = none ∧
        x.ready.isSome = decide (fld (d 2) 0 16 = 0) ∧
        u.l1Get s.myCell (w 3) = some ⟨true, stored (d 3) (e.phys (va + 24).toNat) 4 (BitVec.ofNat 64 i)⟩)) ∧
  (s.getTask pkg (s.xr rs1).toNat = none → exec (.tdep rs1 rs2) s = .next (s.raises 35 (s.xr rs1)) ∧
    exec (.tdone rs1) s = .next (s.raises 35 (s.xr rs1))) ∧
  (s.getTask pkg (s.xr rs1).toNat = some t → s.released t.scope t.group = true → t.ready = none → t.taken = none →
    (t.count : Int) + (s.xr rs2).toInt = n → n ≤ 65535 → ∃ u x, exec (.tdep rs1 rs2) s = .next u ∧ retired u ∧
      u.getTask pkg (s.xr rs1).toNat = some x ∧ x.count = n ∧ x.ready.isSome = decide (n = 0) ∧ x.producers = t.producers ++ [s.who] ∧
      (n = 0 → t.nosteal = false → .taskStealable pkg (s.xr rs1).toNat ∈ u.pool)) ∧
  (s.getTask pkg (s.xr rs1).toNat = some t → t.taken ≠ some s.who → exec (.tdone rs1) s = .next (s.raises 35 (s.xr rs1))) ∧
  (s.getTask pkg (s.xr rs1).toNat = some t → t.taken = some s.who → s.released t.scope t.group = true →
    (t.succ = 0xFFFFFFFF → ∃ u, exec (.tdone rs1) s = .next u ∧ retired u ∧ u.getTask pkg (s.xr rs1).toNat = none) ∧
    (t.succ ≠ (s.xr rs1).toNat → s.getTask pkg t.succ = some t' → s.released t'.scope t'.group = true → t'.ready = none → t'.taken = none →
      t'.count = n + 1 → n < 65535 → ∃ u x, exec (.tdone rs1) s = .next u ∧ retired u ∧ u.getTask pkg (s.xr rs1).toNat = none ∧
        u.getTask pkg t.succ = some x ∧ x.count = n ∧ x.ready.isSome = decide (n = 0))) ∧
  (s.me.op = none → s.cur.die < 16 → id < 16384 → (s.getDie s.cur.dieId).tasks = [(id', t'), (id, t)] → id ≠ id' → s.mayTake t = true →
    s.mayTake t' = true → t.owner = s.myCell → t'.owner = s.myCell → t.ready = some n → t'.ready = some m → n < m → nearOwner = true →
    ∃ u, exec (.tnext rd) s = .next u ∧ u.me = (s.me.writes rd t.record).retired (s.me.pc + 4) ∧ u.mem = s.mem ∧
      u.getTask pkg (s.cur.die * 2 ^ 16 + id) = some { t with taken := some s.who }) ∧
  (s.me.op = none → s.nextTask = none → (s.tasksLeft = false → exec (.tnext rd) s = .next (s.wrote rd 0)) ∧
    (s.tasksLeft = true → ∃ u, exec (.tnext rd) s = .next u ∧ u.me.pc = s.me.pc ∧ u.me.wait.isSome ∧ u.mem = s.mem)) ∧
  (s.getTask pkg id = some t → t.ready.isSome → t.taken = none → t.nosteal = false → ∃ u, exec (.taskStealable pkg id) s = .next u ∧
    u.getTask pkg id = some { t with stealable := true } ∧ u.mem = s.mem)

/-- R188 to R196: the drydown sequencer. Tables and sets are loaded whole, a set is armed COLLECTING or DONE and NSAMP 0 disarms it; `sqcoef`
gives h times a coefficient, and a code out of range SOLVER 4; `sqhdl` gives a role's handle, `sqdec` a decision's block, `sqstat` the
sample's state; `sqpart` adds a slice, and the last one makes the sample READY and the decision due; the decision moves the time
and state of every READY sample of the set on and leaves the others; a write that came ahead of its block is sent again, and a set that stops, since
its block does not translate, writes none of its later decisions. -/
def Obligations.SolverComplete : Prop := ∀ (rd hd rs1 rs2 n : Nat) (ws : List Word) (w0 : Word) (v : SampleSet) (x : Sample) (t : SolverTable)
    (k k' : Decision) (e : TlbEntry) (dd : DieId) (i : Nat) (s : State), s.me.spec = none →
  let w := s.xr rs1
  let d := s.solverDie w
  let arm := s.xr rs2
  let armDie := s.solverDie arm
  let set := fld w 8 2
  let image := fun off : Nat => fld (ws.getD (off / 8) 0) (8 * (off % 8)) 32
  let solver := fun (i : Instr) (sub : Nat) => exec i s = .next (s.raises 36 (BitVec.ofNat 64 sub))
  let done := fun (i : Instr) (p : State → Prop) => ∃ u, exec i s = .next u ∧ u.me = s.me.retired (s.me.pc + 4) ∧ u.mem = s.mem ∧ p u
  let sets := fun (u : State) (d : DieId) (i : Nat) => lookup i (u.getDie d).sets
  let j := fld (s.xr rs2) 4 4
  let l := fld (s.xr rs2) 0 4
  let slice := fld w 16 16
  let val := (s.xr rs2).toNat % 2 ^ 32
  let aligned := w.toNat % 64 = 0
  (aligned → s.me.op = some (.words ws) → ws.length = 48 →
      let busy := (s.getDie armDie).sets.any fun p => p.2.table == fld arm 0 2
      (tableBad ws || busy → solver (.sqltab rs1 rs2) 2) ∧
      (tableBad ws = false → busy = false → done (.sqltab rs1 rs2) fun u => ∃ y, lookup (fld arm 0 2) (u.getDie armDie).tables = some y ∧
        y.s = image 0 % 16 ∧ y.fsal = (image 0).testBit 12 ∧ (∀ i < 5, y.tau[i]? = some (image (4 + 4 * i))) ∧
        (∀ i < 8, y.c[i]? = some (image (24 + 4 * i)) ∧ y.b[i]? = some (image (56 + 4 * i)) ∧ y.bhat[i]? = some (image (88 + 4 * i)) ∧
          ∀ m < 8, y.a[8 * i + m]? = some (image (128 + 32 * i + 4 * m))))) ∧
    (aligned → s.me.op = some (.words [w0]) → fld w0 0 16 = 0 → done (.sqarm rs1 rs2) fun u => sets u armDie (fld arm 0 2) = none) ∧
    (aligned → s.me.op = some (.words ws) → fld (ws.getD 0 0) 0 16 = n → n ≠ 0 → ws.length = 8 + 48 * n →
      ((sets s armDie (fld arm 0 2)).any SampleSet.outstanding = true → solver (.sqarm rs1 rs2) 8) ∧
      ((sets s armDie (fld arm 0 2)).any SampleSet.outstanding = false → setBad ws = true → solver (.sqarm rs1 rs2) 3) ∧
      ((sets s armDie (fld arm 0 2)).any SampleSet.outstanding = false → setBad ws = false →
        lookup (fld arm 2 2) (s.getDie armDie).tables = some t → (∀ i < n, sampleBad t ws (8 + 48 * i) = false) →
        done (.sqarm rs1 rs2) fun u => ∃ y, sets u armDie (fld arm 0 2) = some y ∧ y.table = fld arm 2 2 ∧ y.attempt = 0 ∧ y.err = 0 ∧
          y.slices = image 2 % 2 ^ 16 ∧ y.nelem = image 4 ∧ y.dbase = (ws.getD 2 0).toNat ∧ y.samples.length = n ∧
          ∀ i < n, ∃ z, y.samples[i]? = some z ∧ z.t = clean32 (image (64 + 384 * i)) ∧ z.h = image (68 + 384 * i) ∧ z.tend = image (72 + 384 * i) ∧
            z.parts = [] ∧ z.stage0 = 1 ∧ z.st = (if le32 z.tend z.t then .done else .collecting))) ∧
    (sets s d set = none → (∀ i ∈ [Instr.sqcoef rd rs1 rs2, .sqhdl hd rs1, .sqpart rs1 rs2, .sqdec hd rs1], solver i 1) ∧
      exec (.sqstat rd rs1) s = .next (s.wrote rd 0)) ∧
    (sets s d set = some v → v.samples[fld w 0 8]? = some x → lookup v.table (s.getDie d).tables = some t →
      let out := fun b : Nat => exec (.sqcoef rd rs1 rs2) s = .next (s.wrote rd (BitVec.ofNat 64 b))
      (1 ≤ l → l ≤ t.s →
        (1 ≤ j → j ≤ t.s → t.s ≤ 8 → out (mul32 x.h (t.at j l))) ∧ (t.s < j → j ≤ 8 → solver (.sqcoef rd rs1 rs2) 4) ∧
          (j = 9 → out (mul32 x.h (t.b.getD (l - 1) 0))) ∧
        (j = 10 → out (mul32 x.h (t.bhat.getD (l - 1) 0))) ∧ (j = 11 → out (mul32 x.h (t.d.getD (l - 1) 0))) ∧
        (j = 12 → out (mul32 x.h (t.c.getD (l - 1) 0)))) ∧
      (j = 13 → out x.atol) ∧ (j = 14 → out x.rtol) ∧ (j = 15 → out x.t) ∧
      (j < 13 → l = 0 ∨ t.s < l ∨ j = 0 → solver (.sqcoef rd rs1 rs2) 4) ∧
      (10 ≤ fld w 10 4 → solver (.sqhdl hd rs1) 4) ∧
      (fld w 10 4 < 10 → exec (.sqhdl hd rs1) s = .next (s.completes { s.me with h := s.me.h.setIfInBounds hd (x.hdl.getD (fld w 10 4) 0) }
        (s.me.pc + 4))) ∧
      (∃ r, exec (.sqstat rd rs1) s = .next (s.wrote rd r) ∧ r.toNat % 8 = (match x.st with
        | .collecting => 1 | .ready => 2 | .done => 3 | .failed => 4) ∧ (x.parts.length < 2 ^ 16 → fld r 32 16 = v.attempt % 2 ^ 16)) ∧
      (v.err = 7 → solver (.sqpart rs1 rs2) 7) ∧
      (v.err ≠ 7 → x.st = .done ∨ x.st = .failed → solver (.sqpart rs1 rs2) 6) ∧
      (v.err ≠ 7 → x.st = .collecting →
        (v.slices ≤ slice ∨ (lookup slice x.parts).isSome → solver (.sqpart rs1 rs2) 5) ∧
        (slice < v.slices → lookup slice x.parts = none → done (.sqpart rs1 rs2) fun u => ∃ y z, sets u d set = some y ∧
          y.samples[fld w 0 8]? = some z ∧ z.parts = store slice val x.parts ∧
          z.st = (if x.parts.length + 1 = v.slices then .ready else .collecting) ∧
          (y.due = true → .solverDecision d set ∈ u.pool))) ∧
      (v.dcount ≠ 0 → ∃ u h, exec (.sqdec hd rs1) s = .next u ∧ u.me = { s.me with h := s.me.h.setIfInBounds hd h }.retired (s.me.pc + 4) ∧
        hBase h = (v.dbase + 4096 * (fld w 48 16 % v.dcount)) % 2 ^ 64 ∧ hGen h = (v.dgen + fld w 48 16 / v.dcount) % 4096 ∧
        hKind h = kindBlk ∧ hCount h = 1)) ∧
    (sets s dd i = some v → lookup v.table (s.getDie dd).tables = some t → v.err = 0 → (∀ x ∈ v.samples, x.st ≠ .collecting) →
      (∃ x ∈ v.samples, x.st = .ready) →
      ∃ (u : State) (y : SampleSet), exec (.solverDecision dd i) s = .next u ∧ sets u dd i = some y ∧ y.samples.length = v.samples.length ∧
        y.attempt = v.attempt + 1 ∧ ∀ (m : Nat) (x : Sample), v.samples[m]? = some x → ∃ z, y.samples[m]? = some z ∧ (x.st ≠ .ready → z = x) ∧
          (x.st = .ready → z.parts = [] ∧
            ((verdict t v x).failed = true → z.st = .failed ∧ z.t = x.t) ∧
            ((verdict t v x).failed = false → (verdict t v x).acc = false → z.t = x.t) ∧
            ((verdict t v x).failed = false → (verdict t v x).acc = true → z.t = add32 x.t x.h ∧
              (le32 x.tend z.t = true → z.st = .done)))) ∧
    ((s.getDie dd).decisions = [k, k'] → k.op = none → k.set = i → k'.op = none → k'.set = i → k'.arm = k.arm → k' ≠ k →
      (s.updDie dd fun x => { x with decisions := [k'] }).translateFor dd k.part dd.pkg (BitVec.ofNat 64 k.va) = none →
      ∃ u, exec (.decisionWriteRetry dd i) s = .next u ∧ (u.getDie dd).decisions = [] ∧ u.mem = s.mem ∧ u.ops = s.ops ∧
        ∀ y, sets s dd i = some y → y.arm = k.arm → sets u dd i = some { y with err := 7 }) ∧
    ((s.getDie dd).decisions = [k] → k.op = none → k.set = i →
      (s.updDie dd fun x => { x with decisions := [] }).translateFor dd k.part dd.pkg (BitVec.ofNat 64 k.va) = some e → e.kind = kBlock →
      physFault e (e.phys k.va) = false → ∃ u, exec (.decisionWriteRetry dd i) s = .next u ∧
        (u.getDie dd).decisions = [{ k with op := some s.nextId }] ∧ u.mem = s.mem ∧ (u.getOp s.nextId).isSome)

/-- R248 to R253, R262, R282: the front end. A draw moves the generator on and dispatches a ready queue's command; a command acts and ends with
its CODE and DETAIL; ending, it writes STATUS and, once that is acknowledged, HEADA and leaves its queue, and a node passes to its successor.
Each command completes under the conditions named here. That a COPY with head 0 is done at once and that a misaligned COPY head or RES is a
BAD_COMMAND is log entry 27, which DETAIL a LOAD reports is log entry 28: the model's choices. -/
def Obligations.FrontEndCommandsComplete : Prop := ∀ (d : DieId) (q k ring i n : Nat) (r : Running) (g : GraphRun) (e : QEntry) (w : Word)
    (c : CellId) (seg : Seg) (l ss bb rr : List Byte) (xs : List Section) (bs : List BlockEntry) (pl : List (Section × List Byte))
    (a b : State) (s : State),
  let part := s.qPart d q
  let v := s.getFe d q
  let is := fun (op : Nat) => fld (r.word 0) 0 4 = op
  let ends := fun (ev : Instr) (code detail : Nat) => exec ev s = .next (s.complete d q k r code detail false)
  let wordIs := s.feRead d part (r.word 1) 8 = .bytes l
  let x := BitVec.ofNat 64 (bytesToNat l)
  let rg := s.feRing d ring
  let drawn := s.updDie d fun v => { v with lottery := State.lotteryNext v.lottery }
  let at' := s.qEntry d q = some e
  let told := r.word 1 = 0 ∨ r.step = 1 ∧ s.feAcked d part (r.word 1) = true
  let img := fun (off len : Nat) => s.imageRead d part (r.word 1) (Image.num rr off 8) len
  let pages := (pl.flatMap fun p => Image.pagesOf p.1).eraseDups
  let ipart := fld (r.word 2) 0 8
  let root := (lookup ipart (s.getDie d).ptroot).getD 0
  (s.dieRuns d = true → (s.getDie d).ferry = false → s.ferrying d = false → s.readyQueues d = [(q, n)] → n ≠ 0 → at' → v.graph = none →
    drawn.feRead d e.part (State.commandVa e v.disp) 64 = .bytes l → reservedAt false (State.wordsOf 8 l) = none →
    ∃ t, exec (.lotteryDraw d) s = .next t ∧ (t.getDie d).lottery = State.lotteryNext (s.getDie d).lottery ∧ (t.getFe d q).disp = v.disp + 1 ∧
      t.pool = s.pool ++ [cmdEvent false (fld ((State.wordsOf 8 l).getD 0 0) 0 4) d q s.nextId] ∧
      ∃ y, t.getRun d q s.nextId = some y ∧ y.idx = v.disp ∧ y.words = State.wordsOf 8 l ∧ y.node = none ∧ y.finish = none) ∧
  (s.dieRuns d = true → at' → s.readTail d e = some w → (w - BitVec.ofNat 64 v.head).toNat ≤ 2 ^ e.log2n →
    ∃ t, exec (.queueTailSnoop d q) s = .next t ∧ t.getFe d q = { v with tail := v.head + (w - BitVec.ofNat 64 v.head).toNat, outOfRange := false } ∧
      (s.tailHeld d e = true → t.mem = s.mem ∧ t.words = s.words) ∧
      (s.chanPiece (feCell d) e.part .m .load e.taila.toNat 8 = .ok seg → seg.kind = kTracked → seg.qa % 8 = 0 →
        lookup seg.qa t.words = some (.registered (feCell d)))) ∧
  (s.dieRuns d = true → at' → s.readTail d e = some w → 2 ^ e.log2n < (w - BitVec.ofNat 64 v.head).toNat → v.outOfRange = false →
    ((s.setFe d q { v with outOfRange := true }).logDie d false 50 q 0 0 0).feStore d e.part e.heada (BitVec.ofNat 64 v.head) = .done a →
    a.tailHeld d e = true → exec (.queueTailSnoop d q) s = .next a) ∧
  (s.getRun d q k = some r → r.finish = none →
    (is 2 → r.step = 0 → (r.word 1).toNat % 64 ≠ 0 → ends (.copyCommand d q k) 4 8) ∧
    (is 2 → r.step = 0 → r.word 1 = 0 → ends (.copyCommand d q k) 1 0) ∧
    (is 2 → r.step = 0 → r.word 1 ≠ 0 → (r.word 1).toNat % 64 = 0 → (s.getDie d).feCopy = none → ∃ t u, exec (.copyCommand d q k) s = .next t ∧
      (t.getDie d).feCopy = some (q, k) ∧ t.getRun d q k = some { r with step := 1 } ∧ t.getChan (feCell d) 0 = u ∧ u.busy = true ∧
      u.fetch = (r.word 1).toNat ∧ .copyCommand d q k ∈ t.pool ∧ .recordFetch (feCell d) 0 ∈ t.pool) ∧
    (is 2 → r.step ≠ 0 → (s.getChan (feCell d) 0).busy = false →
      ends (.copyCommand d q k) (if (s.getChan (feCell d) 0).sub = 0 then 1 else 6) (s.getChan (feCell d) 0).sub) ∧
    (is 3 → (r.word 1).toNat % 8 ≠ 0 → ends (.signalCommand d q k) (if r.node.isSome then 5 else 4) 8) ∧
    (is 3 → (r.word 1).toNat % 8 = 0 → (r.word 3).toNat % 8 = 0 →
      (r.step = 0 → r.word 1 ≠ 0 → s.feStore d part (r.word 1) (r.word 2) = .done a → ∃ t, exec (.signalCommand d q k) s = .next t ∧
        t.mem = a.mem ∧ .signalCommand d q k ∈ t.pool) ∧
      (r.step = 0 → r.word 1 ≠ 0 → s.feStore d part (r.word 1) (r.word 2) = .fault → ends (.signalCommand d q k) 7 8) ∧
      (r.step = 1 → r.word 1 ≠ 0 → s.feAcked d part (r.word 1) = false → exec (.signalCommand d q k) s = .next (s.push (.signalCommand d q k))) ∧
      (told → (r.word 4).getLsbD 0 = false → ends (.signalCommand d q k) 1 0) ∧
      (told → (r.word 4).getLsbD 0 = true → r.ferry = false → r.word 3 = 0 → ring = fld (r.word 4) 8 6 →
        rg.thr ≤ 1 → rg.count = 0 → exec (.signalCommand d q k) s =
          .next (((s.setFeRing d ring { rg with timer := 0 }).emit (.msix d rg.vector)).complete d q k r 1 0 false))) ∧
    (is 4 → fld (r.word 4) 0 2 < 2 → (r.word 1).toNat % 8 = 0 → wordIs →
      let holds := decide (x &&& r.word 3 = r.word 2) = decide (fld (r.word 4) 0 2 = 0)
      ∀ ev ∈ [Instr.waitCommand d q k, .feWaitWake d q k], (holds → ends ev 1 0) ∧
        (¬ holds → ∃ t, exec ev s = .next t ∧ t.getRun d q k = some { r with waiting := true } ∧ t.pool = s.pool ++ [.feWaitWake d q k])) ∧
    (is 4 → fld (r.word 4) 0 2 = 2 → (r.word 1).toNat % 4096 = 0 → s.chanBlock (feCell d) part .m .load d.pkg (r.word 1).toNat = .ok i →
      let holds := (s.getBlock i).filled = true ∧ (s.getBlock i).gen = fld (r.word 2) 0 12
      ∀ ev ∈ [Instr.waitCommand d q k, .feWaitPoll d q k], (holds → ends ev 1 0) ∧
        (¬ holds → ∃ t, exec ev s = .next t ∧ t.getRun d q k = some { r with waiting := true } ∧ t.pool = s.pool ++ [.feWaitPoll d q k])) ∧
    (is 4 → fld (r.word 4) 0 2 = 3 → ends (.waitCommand d q k) 4 32) ∧
    (is 7 → (r.word 1).toNat % 64 = 0 →
      (fld (r.word 2) 0 16 ≤ fld (r.word 2) 16 16 → ends (.graphCommand d q k) 4 16) ∧
      (fld (r.word 2) 16 16 < fld (r.word 2) 0 16 → v.graph = none → ∃ t, exec (.graphCommand d q k) s = .next t ∧
        (t.getFe d q).graph = some ⟨k, r.word 1, fld (r.word 2) 0 16, fld (r.word 2) 16 16, [], false⟩)) ∧
    (is 5 → r.node = some i → (r.word 1).toNat % 8 = 0 → s.feReadHome d part (r.word 1) = .bytes l → v.graph = some g →
      let succ := if x = 0 then fld (r.word 0) 24 16 else fld (r.word 0) 8 16
      l.length = 8 → succ < g.n → i < succ → ∃ t, exec (.condNode d q k) s = .next t ∧
        (t.getFe d q).graph = some { g with next := succ, done := i :: g.done } ∧ t.getRun d q k = none ∧ t.mem = s.mem) ∧
    (is 6 → exec (.endNode d q k) s = .next ((s.dropRun d q k).finishGraph d q (if v.graph.any (·.faulted) then 9 else 1) 0)) ∧
    (is 8 → r.step = 0 → s.berthing d.pkg (fld (r.word 1) 0 8) = [] → ends (.swapCommand d q k) 8 0) ∧
    (is 8 → r.step = 0 → s.berthing d.pkg (fld (r.word 1) 0 8) = [c] → (s.getCell c).swap = 0 → ∃ t, exec (.swapCommand d q k) s = .next t ∧
      (t.getCell c).swap = 1 ∧ .swapGraceExpiry c ∈ t.pool ∧ t.getRun d q k = some { r with step := 1, swaps := [c] }) ∧
    (is 8 → r.step ≠ 0 → (∀ y ∈ r.swaps, (s.getCell y).swap = 0) → ends (.swapCommand d q k) 1 0) ∧
    (is 9 → (∀ p ∈ v.running, p.1 = k ∨ r.idx ≤ p.2.idx) → ends (.fenceCommand d q k) 1 0) ∧
    (is 9 → (∃ p ∈ v.running, p.1 ≠ k ∧ p.2.idx < r.idx) → exec (.fenceCommand d q k) s = .next (s.push (.fenceCommand d q k))) ∧
    (is 5 → r.node = none → (r.word 3).toNat % 8 ≠ 0 → ends (.loadImage d q k) 4 24) ∧
    (is 5 → r.node = none → (r.word 3).toNat % 8 = 0 → r.step = 1 → s.feAcked d part (r.word 3) = true → ends (.loadImage d q k) 1 0) ∧
    (is 5 → r.node = none → (r.word 3).toNat % 8 = 0 → r.step = 0 →
      (s.feRead d part (r.word 1) 64 = .fault → ends (.loadImage d q k) 7 8) ∧
      (s.feRead d part (r.word 1) 64 = .bytes rr →
        (∀ off, Image.headerBad rr = some off → ends (.loadImage d q k) 10 off) ∧
        (Image.headerBad rr = none → img 16 (32 * Image.num rr 6 2) = .bytes ss → img 24 (16 * Image.num rr 8 4) = .bytes bb →
          (∃ y, img 32 (16 * Image.num rr 12 4) = .bytes y) → (Image.entries 32 (Image.num rr 6 2) ss).mapM Image.sectionOf = some xs →
          (Image.entries 16 (Image.num rr 8 4) bb).mapM Image.blockOf = some bs → (∀ y ∈ bs, Image.blocksPlaced xs y = true) →
          s.sectionBytes d part (r.word 1) xs = .inr pl → (∀ p ∈ pages, s.pageFree d ipart p = true) →
          fld root 0 1 = 1 →
          a = bs.foldl (fun t b => t.placeBlocks d ipart b) (pages.foldl (fun t p => t.placePage d ipart pl p) s) →
          a.feStore d (a.qPart d q) (r.word 3) (BitVec.ofNat 64 (Image.num rr 40 8)) = .done b →
            exec (.loadImage d q k) s = .next (if Config.shareSupplies ipart pages.length = false then s.complete d q k r 10 0xFE false
              else if b.feAcked d (b.qPart d q) (r.word 3) then b.complete d q k r 1 0 false
              else (b.setRun d q k { r with step := 1 }).push (.loadImage d q k)))))) ∧
  (r.node = none → r.told = 0 → at' → v.completed = [] → v.head = r.idx →
    s.feStore d part (r.va + 56) (BitVec.ofNat 64 (ring % 256 * 256 + n)) = .done a →
    a.feAcked d part (r.va + 56) = true → a.feStore d part e.heada (BitVec.ofNat 64 (v.head + 1)) = .done b →
    (b.passHead d q (v.head + 1, [])).feAcked d part e.heada = true →
      ((s.complete d q k r n ring false).getFe d q).head = v.head + 1 ∧ (s.complete d q k r n ring false).getRun d q k = none ∧
      (s.complete d q k r n ring false).mem = b.mem) ∧
  (s.chanPiece (feCell d) part .m .store w.toNat 8 = .ok seg → w.toNat % 8 = 0 → seg.qa % 8 = 0 → seg.kind = kUntracked →
    s.readHeld seg = false → s.lockHit seg.home part w.toNat 8 = false → s.hostGone seg.qa = false → s.ownedWords seg = [] →
    ∃ t, s.feStore d part w x = .done t ∧ t.mem = s.mem.setWord seg.qa x) ∧
  (rg.count ≠ 0 → rg.dl ≠ 0 → ∃ t, exec (.coalesceDeadline d ring) s = .next t ∧ t.emitted = s.emitted ++ [.msix d rg.vector] ∧
    (t.feRing d ring).count = 0 ∧ (t.feRing d ring).vector = rg.vector ∧ t.mem = s.mem) ∧
  (ring < 64 → s.dieRuns d = true → rg.count = 0 → ∃ t, exec (.coalesceDlWrite d ring n) s = .next t ∧ t.feRing d ring = { rg with dl := n % 2 ^ 32 } ∧
    t.emitted = s.emitted)

/-- R85, R256 to R261, R310: a launch from its check to its end. A block that is misaligned or fails a check is refused with its CODE and DETAIL, an
accepted one is logged and placed; each cell grants a reservation or refuses it, a refusal releases the grants and backs off, and the last
grant sets the cells up; the release starts the harts that the masks name at their PC with a0 and a1, or waits for a bank; the last cell that reports
ends the LAUNCH; a retention that expires frees its cell. That a launch without a rectangle chooses again in a step that may come at any
time is log entry 29, the model's choice. -/
def Obligations.LaunchesProceed : Prop := ∀ (d : DieId) (q k code detail gi n : Nat) (c c' : CellId) (r : Running) (run : LaunchRun) (lp : Lpb)
    (g : Gang) (l : List Byte) (wanted granted : List CellId) (cs : List CellId) (refused : Bool) (s : State),
  let part := s.qPart d q
  let x := (s.getCell c).ctx
  let ends := fun (ev : Instr) (code detail : Nat) => exec ev s = .next (s.complete d q k r code detail false)
  let stage := fun (t : State) (st : LaunchStage) => t.getRun d q k = some { r with launch := some { run with stage := st } }
  (s.getRun d q k = some r → r.finish = none →
    (fld (r.word 0) 0 4 = 1 → r.launch = none →
      ((r.word 1).toNat % 64 ≠ 0 → ends (.launchCommand d q k) 7 8) ∧
      ((r.word 1).toNat % 64 = 0 → s.feRead d part (r.word 1) 256 = .fault → ends (.launchCommand d q k) 7 8) ∧
      ((r.word 1).toNat % 64 = 0 → s.feRead d part (r.word 1) 256 = .bytes l → Image.num l 48 8 = 0 → Image.num l 56 8 = 0 →
        Image.num l 30 2 % 16 ≠ 0 ∨ 304 < Image.num l 30 2 → ends (.launchCommand d q k) 2 30) ∧
      (s.checkLpb d part (r.word 1) = .bad code detail → ends (.launchCommand d q k) code detail) ∧
      (s.checkLpb d part (r.word 1) = .ok lp → s.feRead d part (r.word 1) 256 = .bytes l → ∃ t, exec (.launchCommand d q k) s = .next t ∧
        t.getRun d q k = some { r with launch := some ⟨lp, 0, .choosing, s.launchText d part lp⟩ } ∧ t.pool = s.pool ++ [.placementAttempt d q k] ∧ t.mem = s.mem ∧
        ((t.getDie d).launchLog.filter fun y => y.1 == part) = ((part, lp.kid, State.launchDigest l (s.launchText d part lp)) ::
          (s.getDie d).launchLog.filter fun y => y.1 == part).take 256)) ∧
    (r.launch = some run →
      (run.stage = .choosing → State.scatters r run = false →
        (s.chooseRect d part run.lpb = none → exec (.placementAttempt d q k) s = .next (s.push (.placementAttempt d q k))) ∧
        (s.chooseRect d part run.lpb = some cs → ∃ t, exec (.placementAttempt d q k) s = .next t ∧ stage t (.reserving cs [] cs false false) ∧
          t.pool = s.pool ++ cs.map (.reserveRequest · d q k))) ∧
      (run.stage = .reserving wanted granted [c, c'] refused false → c ≠ c' →
        (s.grants c part run.lpb.kid = true → x.use = .idle → ∃ t, exec (.reserveRequest c d q k) s = .next t ∧
          (t.getCell c).ctx.use = .reserved d q k none ∧ stage t (.reserving wanted (granted ++ [c]) [c'] refused false)) ∧
        (s.grants c part run.lpb.kid = false → ∃ t, exec (.reserveRequest c d q k) s = .next t ∧ t.cells = s.cells ∧
          stage t (.reserving wanted granted [c'] true false))) ∧
      (run.stage = .reserving wanted [c'] [c] refused false → s.grants c part run.lpb.kid = false → (s.getCell c').ctx.use = .reserved d q k none →
        ∃ t, exec (.reserveRequest c d q k) s = .next t ∧ (t.getCell c').ctx.use = .idle ∧ .placementBackoffExpiry d q k ∈ t.pool ∧
          t.getRun d q k = some { r with launch := some { run with attempts := run.attempts + 1, stage := .backoff } }) ∧
      (run.stage = .reserving [c] [] [c] false false → s.grants c part run.lpb.kid = true → ∃ t y z, exec (.reserveRequest c d q k) s = .next t ∧
        stage t (.setup s.nextId) ∧ lookup s.nextId t.gangs = some y ∧ y.cells = [c] ∧ y.part = part ∧ y.lpb = run.lpb ∧
        (t.getCell c).ctx = z ∧ z.gang = some s.nextId ∧ z.rank = 0 ∧ z.part = part ∧ z.spad = run.lpb.spadKib / 4 ∧ z.capin = run.lpb.cap ∧
        z.flags = 0 ∧ .gangRelease d q k ∈ t.pool) ∧
      (run.stage = .backoff → ∃ t, exec (.placementBackoffExpiry d q k) s = .next t ∧ stage t .choosing ∧
        t.pool = s.pool ++ [.placementAttempt d q k] ∧ t.mem = s.mem) ∧
      (run.stage = .setup gi → lookup gi s.gangs = some g → g.cells = [c] → g.started = [] → x.gang = some gi →
        (s.startCell run.lpb c = none → exec (.gangRelease d q k) s = .next (s.push (.gangRelease d q k))) ∧
        ((∀ m < 24, (s.getHart (c.hart m)).service = false) →
          (∀ p < 3, ((s.getCell c).preempted.filter fun x => procOf x.1 == p && decide (x.2.status = .running) && !x.2.evicted).length < 4) →
          ∃ t, exec (.gangRelease d q k) s = .next t ∧ stage t (.running gi) ∧
          (n < 24 → (run.lpb.masks.getD (n / 8) 0).testBit (n % 8) = true → ∃ h, t.getHart (c.hart n) = h ∧ h.status = .running ∧
            h.pc = run.lpb.pcs.getD (n / 8) 0 ∧ h.mode = .u ∧ h.x[10]? = some run.lpb.va ∧ h.x[11]? = some (BitVec.ofNat 64 n) ∧
            h.x[5]? = some 0) ∧
          (n < 24 → (run.lpb.masks.getD (n / 8) 0).testBit (n % 8) = false → t.getHart (c.hart n) = s.getHart (c.hart n)))))) ∧
  (x.lastHalted = true → s.allHalted c = true → s.cellIdle c = true → x.gang = some gi → lookup gi s.gangs = some g →
    (g.doneCells.length + 1 ≠ g.cells.length → ∃ t, exec (.cellDone c) s = .next t ∧
      lookup gi t.gangs = some { g with doneCells := c :: g.doneCells } ∧ (t.getCell c).ctx.lastHalted = false) ∧
    (g.cells = [c] → g.doneCells = [] → x.part = g.part → s.getRun g.die g.queue g.cmd = some r → r.finish = none → ∃ u : State,
      exec (.cellDone c) s = .next (u.complete g.die g.queue g.cmd r (if g.faulted then 9 else 1) 0 false) ∧ lookup gi u.gangs = none ∧
      (u.getCell c).ctx.gang = none ∧ (x.retainBit = false → (u.getCell c).ctx.use = .idle ∧ (u.getCell c).ctx.tiles = []) ∧
      (x.retainBit = true → ∃ y, (u.getCell c).ctx.use = .retained y ∧ y.part = g.part ∧ y.succ = x.succ ∧ (u.getCell c).ctx.tiles = x.tiles))) ∧
  (∀ y, x.use = .retained y → ∃ t, exec (.retentionExpiry c) s = .next t ∧ (t.getCell c).ctx.use = .idle ∧ (t.getCell c).ctx.tiles = [] ∧
    t.mem = s.mem)

/-- R91, R278 to R285: swaps and service contexts. `pswap` asks for the swap of another cell and completes when it has taken place; after its notice a
swap exchanges context and harts with the berth, drops the L1 whole and leaves the homes of its OWNED words LOST. CTXCTL starts a service
context on a slot, whose gang context is kept; a bank that is evicted is written to its save area. The three steps of a swap, what it waits
for and a `pswap` of a cell that is swapping are log entry 31, the PRIO and CTXPC of a start's GO are log entry 30: the model's choices. -/
def Obligations.SwapsAndServiceContexts : Prop := ∀ (rs1 agent value part : Nat) (c : CellId) (h : HartId) (y : CellCtx) (hs : List (Nat × Hart))
    (e : Starting) (g : Hart) (s : State),
  let n := (s.xr rs1).toNat % 2 ^ 12
  let target : CellId := ⟨s.cur.pkg, n / 144, n % 144⟩
  let v := s.getCell c
  let w := BitVec.ofNat 64 value
  let retry := fun (k : Nat) => ∃ t, exec (.swapGraceExpiry c) s = .next t ∧ (t.getCell c).swap = k ∧ .swapGraceExpiry c ∈ t.pool
  (s.me.mode = .m → s.me.spec = none → 2303 < n ∨ target = s.myCell → exec (.pswap rs1) s = .next (s.raises 38 (s.xr rs1))) ∧
  (s.me.mode = .m → n ≤ 2303 → target ≠ s.myCell →
    (s.me.answer = some .done → exec (.pswap rs1) s = .next s.passed) ∧
    (s.me.answer = none → (s.getCell target).swap = 0 → ∃ t, exec (.pswap rs1) s = .next t ∧ t.me.pc = s.me.pc ∧
      t.me.wait = some ⟨.answer, true⟩ ∧ (t.getCell target).swap = 1 ∧ (t.getCell target).swapWaiter = some (s.who, s.ctx.part) ∧
      t.pool = s.pool ++ [.swapGraceExpiry target]) ∧
    (s.me.answer = none → (s.getCell target).swap ≠ 0 → ∃ t, exec (.pswap rs1) s = .next t ∧ t.me.pc = s.me.pc ∧ t.me.wait.isSome ∧
      t.cells = s.cells)) ∧
  (v.swap = 1 → s.swapWaits c = false → retry 2 ∧ ∀ n < 24, State.liveHart (s.getHart (c.hart n)) = true →
    ∃ t, exec (.swapGraceExpiry c) s = .next t ∧ (t.getHart (c.hart n)).csr.mip.getLsbD 18 = true) ∧
  (v.swap = 1 → s.swapWaits c = true → retry 1) ∧ (v.swap = 2 → s.swapWaits c = false → retry 3) ∧
  (v.swap = 3 → s.swapWaits c = true ∨ s.unfinished c = true ∨ s.betweenPoints c = true ∨ s.pathWaits c = true → retry 3) ∧
  (v.swap = 3 → s.swapWaits c = false → s.unfinished c = false → s.betweenPoints c = false → s.pathWaits c = false → v.berth = some (y, hs) →
    v.ctx.part ≠ 0xFF → v.ctx.use = .busy →
    ∃ t z l, exec (.swapGraceExpiry c) s = .next t ∧ (t.getCell c).ctx = y ∧ (t.getCell c).swap = 0 ∧ (t.getCell c).l1 = [] ∧
      (t.getCell c).istore = [] ∧ (t.getCell c).berth = some (z, l) ∧ z.part = v.ctx.part ∧ z.flags = v.ctx.flags ∧ z.tiles = v.ctx.tiles ∧
      z.mq = v.ctx.mq ∧ t.mem = s.mem ∧ (∀ r ∈ t.resvs, r.1.cellId ≠ c) ∧
      (∀ w d, lookup w v.l1 = some ⟨true, d⟩ → lookup w t.words = some .lost) ∧
      (v.swapWaiter = none → ∀ n g, lookup n hs = some g → ∃ u, t.getHart (c.hart n) = u ∧ u.pc = g.pc ∧ u.x = g.x ∧ u.h = g.h ∧ u.csr = g.csr) ∧
      (v.swapWaiter = none → ∀ n < 24, ∀ g, lookup (c.hart n) s.harts = some g → g.spec = none → ∃ u, lookup n l = some u ∧ u.pc = g.pc ∧
        u.x = g.x ∧ u.h = g.h ∧ u.csr = g.csr) ∧
      (v.swapWaiter = some (h, part) → h.cellId ≠ c → s.Plain h part → (t.getHart h).answer = some .done ∧ (t.getHart h).wait = none)) ∧
  (agent ≠ c.die → agent ≠ 17 → exec (.serviceContextStart c agent value) s = .next s) ∧
  (agent = c.die → agent ≠ 17 → s.dieRuns c.dieId = true → w.getLsbD 63 = true → fld w 0 5 < 24 → s.slotBusy c (fld w 0 5) = false →
    ∃ t b, exec (.serviceContextStart c agent value) s = .next t ∧ (t.getCell c).starting = v.starting ++ [b] ∧ b.slot = fld w 0 5 ∧
      b.prio = fld w 5 2 ∧ b.pc = v.ctxPc ∧ t.pool = s.pool ++ [.serviceContextStart c 17 0]) ∧
  (v.starting = [e] → s.startWaits c e = false → s.banksUsed c (e.slot % 32 / 8) < 12 →
    ∃ t u, exec (.serviceContextStart c 17 value) s = .next t ∧ t.getHart (c.hart e.slot) = u ∧ u.service = true ∧ u.mode = .m ∧ u.pc = e.pc ∧
      u.prio = e.prio ∧ u.status = .running ∧ u.x[10]? = some v.csave ∧ (t.getCell c).starting = [] ∧
      lookup e.slot (t.getCell c).preempted = some (s.getHart (c.hart e.slot)) ∧ ∀ i ∈ e.tiles, t.getAcc c i = ⟨[], 0, false, [], []⟩) ∧
  (((s.getCell h.cellId).starting.any fun x => procOf x.slot == procOf h.hart) = true → 12 ≤ s.banksUsed h.cellId (procOf h.hart) →
    s.evictee h.cellId (procOf h.hart) = some h.hart → lookup h.hart (s.getCell h.cellId).preempted = some g → g.postDie = 0 → g.postPkg = 0 →
    g.postSys = 0 → s.requestsOut h = false → g.absent = [] → s.mem.wf = true → (s.getCell h.cellId).csave.toNat % 2 ^ 18 = 0 →
    ∃ t, exec (.bankEviction h) s = .next t ∧
      lookup h.hart (t.getCell h.cellId).preempted = some { g with evicted := true, absent := [0, 1, 2, 3, 4, 5] } ∧
      ∀ i < 32, t.mem.word (s.saveBase h + 8 * i) = (g.x[i]?).getD 0)

/-- R286 to R288: the debugger. HREQ asks for a halt, which is reached with its DCAUSE when the cell stands still; RESUME and STEP act on a halted
cell; a register access of a halted cell reads into DBGDATA or writes from it, and one that names nothing, or of a cell that runs, sets ERR.
Writes of other agents are ignored. That DCAUSE is 0 after RESUME and that an access to a hart that does not exist sets ERR is log entry 30,
the model's choice. -/
def Obligations.DebuggerComplete : Prop := ∀ (c : CellId) (agent value : Nat) (s : State),
  let v := s.getCell c
  let w := BitVec.ofNat 64 value
  let may := (agent = 16 ∨ agent = c.die) ∧ s.dieRuns c.dieId = true
  let halted := v.dbg.getLsbD 17 = true
  let h := c.hart (fld w 16 5)
  let g := s.getHart h
  let num := fld w 0 16
  let read := fun (d : Word) => ∃ t, exec (.debugRegRead c agent value) s = .next t ∧ (t.getCell c).dbgData = d ∧
    t.emitted = s.emitted ++ [.debugRead c d] ∧ fld (t.getCell c).dbgCmd 61 1 = 0 ∧ t.harts = s.harts ∧ t.mem = s.mem
  let write := fun (g' : Hart) => ∃ t, exec (.debugRegWrite c agent value) s = .next t ∧ t.getHart h = g' ∧
    fld (t.getCell c).dbgCmd 61 1 = 0 ∧ t.mem = s.mem ∧ ∀ k, k ≠ h → t.getHart k = s.getHart k
  (¬ may → ∀ i ∈ [Instr.debugHaltRequest c agent value, .debugResume c agent value, .debugStep c agent value, .debugRegRead c agent value,
    .debugRegWrite c agent value], exec i s = .next s) ∧
  (may → ¬ halted → v.haltCause = 0 → w.getLsbD 0 = true → ∃ t, exec (.debugHaltRequest c agent value) s = .next t ∧
    (t.getCell c).haltCause = 1 ∧ .debugHaltReached c ∈ t.pool ∧ t.harts = s.harts) ∧
  (v.haltCause ≠ 0 → v.haltCause < 8 → s.haltReady c = true → ∃ t, exec (.debugHaltReached c) s = .next t ∧
    (t.getCell c).dbg.getLsbD 17 = true ∧ fld (t.getCell c).dbg 20 3 = v.haltCause ∧ (t.getCell c).haltCause = 0 ∧ t.mem = s.mem ∧
    ∀ n, (s.getHart (c.hart n)).spec = none → t.getHart (c.hart n) = s.getHart (c.hart n)) ∧
  (v.haltCause ≠ 0 → s.haltReady c = false → exec (.debugHaltReached c) s = .next (s.push (.debugHaltReached c))) ∧
  (may → halted → w.getLsbD 2 = true → ∃ t, exec (.debugResume c agent value) s = .next t ∧ (t.getCell c).dbg.getLsbD 17 = false ∧
    fld (t.getCell c).dbg 20 3 = 0 ∧ (t.getCell c).stepping = false ∧ t.harts = s.harts) ∧
  (may → halted → w.getLsbD 2 = false → w.getLsbD 4 = true → ∃ t, exec (.debugStep c agent value) s = .next t ∧
    (t.getCell c).dbg.getLsbD 17 = true ∧ (t.getCell c).stepping = true ∧ t.harts = s.harts) ∧
  (may → w.getLsbD 63 = true → ¬ halted ∨ 24 ≤ fld w 16 5 ∨ s.gangThere h = false → ∀ i ∈ [Instr.debugRegRead c agent value,
    .debugRegWrite c agent value], ∃ t, exec i s = .next t ∧ fld (t.getCell c).dbgCmd 61 1 = 1 ∧ t.harts = s.harts ∧ t.mem = s.mem) ∧
  (may → w.getLsbD 63 = true → w.getLsbD 62 = false → halted → fld w 16 5 < 24 → lookup h.hart v.preempted = none → g.status ≠ .absent → g.absent = [] →
    (num < 32 → read (if num = 0 then 0 else (g.x[num]?).getD 0)) ∧
    (0x100 ≤ num → num < 0x140 → read (((g.h[(num - 0x100) / 4]?).getD 0).extractLsb' (64 * (num % 4)) 64)) ∧
    (num = 0x2000 → read g.pc) ∧ (num = 0x1341 → read g.csr.mepc) ∧ (num = 0x1342 → read g.csr.mcause)) ∧
  (may → w.getLsbD 63 = true → w.getLsbD 62 = true → halted → fld w 16 5 < 24 → lookup h.hart v.preempted = none → g.status ≠ .absent →
    g.absent = [] →
    (num = 0 → write g) ∧
    (num ≠ 0 → num < 32 → write { g with
      x := g.x.setIfInBounds num v.dbgData
      spec := g.spec.map fun sp => { sp with savedX := sp.savedX.setIfInBounds num v.dbgData }
      younger := g.younger.map fun sp => { sp with savedX := sp.savedX.setIfInBounds num v.dbgData } }) ∧
    (num = 0x2000 → write { g with pc := v.dbgData, insn := none }))

/-- R290 to R305, R307: the host link and the links between packages. A host read of an address that the HDM decoder maps returns the bytes of HBM,
or poison while the die does not run, and a host write changes its bytes only, there or in the host's own memory; a bias flip is asked
for and performs, and requests not yet served go on under the new bias; the link goes down and up. Ports train, go down with traffic pending and
count replays, the 16th on end taking the port down; an operation goes on from package to package, is dropped at its fifth hop and applied in its
turn, a copy of one already applied is dropped, and one for an unreachable package fails. Model's choices: that the host stores to its own
memory by HOST_MEM_WRITE steps outside the decoder's range, and that a page some partition maps WORD_REPLICATED is one for the host too
(log entry 32). -/
def Obligations.HostAndPackageLinks : Prop := ∀ (pkg addr size value agent port src dst lane n id qa hops pt : Nat) (d : DieId) (e : Event) (a : Access)
    (inv b : Bool) (s : State),
  let piece := s.hostPiece qa size
  let own := pkg * pkgSpan + 2 ^ 51 + addr
  let w := BitVec.ofNat 64 value
  let cmd := (s.getDie d).biasCmd
  let page := State.biasPage d w
  let p := s.getPort pkg port
  let f := s.getFlow src dst lane
  let put := fun g : Flow => { s with flows := store (src, dst, lane) g s.flows }
  let arrived := put { f with wire := [], sent := (f.sent.filter fun x => x.1 != n), recvSeq := (n + 1) % 2 ^ 32 }
  let only := fun (lane : Nat) (e : Event) => (∀ x ∈ (s.getFlow src dst lane).sent, x.2.1 = e) ∧ (s.getFlow src dst lane).waiting = [] ∧
    (s.getFlow src dst lane).doomed = []
  let ahead := (n + 2 ^ 32 - f.recvSeq) % 2 ^ 32
  let hop := s.getPort pkg pt
  (s.hdmAddr pkg addr size = none → exec (.hostMemRead pkg addr size) s = .next s ∧
    (addr + size ≤ 2 ^ 51 → s.mem.wf = true → ∃ t, exec (.hostMemWrite pkg addr size value) s = .next t ∧
      t.mem.readBytes own size = natToBytes size value ∧ ∀ y, y < own ∨ own + size ≤ y → t.mem.read y = s.mem.read y)) ∧
  ((s.getPkg pkg).hostUp = true → s.hdmAddr pkg addr size = some qa →
    (s.dieRuns (stackDie qa) = false → exec (.hostMemRead pkg addr size) s = .next (s.emit (.hostRead pkg none)) ∧
      exec (.hostMemWrite pkg addr size value) s = .next s) ∧
    (s.dieRuns (stackDie qa) = true → s.pieceHeld piece = false → s.ownedWords piece = [] → s.lostIn piece = false →
      (s.badIn piece = false → exec (.hostMemRead pkg addr size) s = .next (s.emit (.hostRead pkg (some (s.mem.readBytes qa size))))) ∧
      (s.badIn piece = true → exec (.hostMemRead pkg addr size) s = .next (s.emit (.hostRead pkg none))) ∧
      (s.mem.wf = true → ∃ t, exec (.hostMemWrite pkg addr size value) s = .next t ∧ t.mem.readBytes qa size = natToBytes size value ∧
        ∀ y, y < qa ∨ qa + size ≤ y → t.mem.read y = s.mem.read y))) ∧
  ((agent = 16 ∨ agent = d.die) → s.dieRuns d = true → fld cmd 62 1 = 0 → w.getLsbD 63 = true → inHbm (page * 4096) = true →
    stackDie (page * 4096) = d → s.hostBias.contains page ≠ w.getLsbD 52 → ∃ t, exec (.biasCmd d agent value) s = .next t ∧
      fld (t.getDie d).biasCmd 62 1 = 1 ∧ fld (t.getDie d).biasCmd 12 40 = fld w 12 40 ∧ (t.getDie d).biasCmd.getLsbD 52 = w.getLsbD 52 ∧
      t.pool = s.pool ++ [.biasFlipComplete d] ∧ t.hostBias = s.hostBias) ∧
  ((agent = 16 ∨ agent = d.die) → s.dieRuns d = true → fld cmd 62 1 = 1 → ∃ t, exec (.biasCmd d agent value) s = .next t ∧
    fld (t.getDie d).biasCmd 62 1 = 1 ∧ fld (t.getDie d).biasCmd 12 40 = fld w 12 40 ∧ (t.getDie d).biasCmd.getLsbD 52 = w.getLsbD 52 ∧
    (t.getDie d).flip = (s.getDie d).flip ∧ t.pool = s.pool ∧ t.hostBias = s.hostBias) ∧
  ((s.getDie d).flip = some (n, b) → s.pageBusy n = false → ∃ t, exec (.biasFlipComplete d) s = .next t ∧ fld (t.getDie d).biasCmd 62 1 = 0 ∧
    (t.getDie d).flip = none ∧ t.hostBias.contains n = b ∧ (∀ k, k ≠ n → t.hostBias.contains k = s.hostBias.contains k) ∧
    t.ops = s.ops.map fun o => (o.1, State.Op.flipped n b o.2)) ∧
  ((s.getDie d).flip = some (n, b) → s.pageBusy n = true → exec (.biasFlipComplete d) s = .next (s.push (.biasFlipComplete d))) ∧
  ((s.getPkg pkg).hostUp = true → ∃ t, exec (.hostLinkDown pkg) s = .next t ∧ (t.getPkg pkg).hostUp = false ∧
    .hostMemRead pkg addr size ∉ t.pool ∧ .hostMemWrite pkg addr size value ∉ t.pool) ∧
  (∃ t, exec (.hostLinkUp pkg) s = .next t ∧ (t.getPkg pkg).hostUp = true ∧ t.mem = s.mem ∧ t.harts = s.harts) ∧
  (s.dieRuns ⟨pkg, port⟩ = false → exec (.portRetrain pkg port) s = .next s) ∧
  (port < 16 → s.dieRuns ⟨pkg, port⟩ = true → ∃ t, exec (.portRetrain pkg port) s = .next t ∧
    t.getPort pkg port = { p with st := 1, lanes := 0, again := 0 } ∧ t.pool = s.pool ++ [.portUp pkg port] ∧ t.mem = s.mem) ∧
  (p.st = 1 → ∃ t u, exec (.portUp pkg port) s = .next t ∧ t.getPort pkg port = u ∧ u.st = 2 ∧ (u.lanes = 8 ∨ u.lanes = 4) ∧ u.replay = p.replay) ∧
  (p.st ≠ 3 → port < 16 → s.portPending pkg port = true → ∃ t u, exec (.portDown pkg port) s = .next t ∧ t.getPort pkg port = u ∧
    u.st = 3 ∧ u.lanes = 0 ∧ t.mem = s.mem) ∧
  (s.portPending pkg port = false → exec (.portDown pkg port) s = .next s) ∧
  (p.st = 2 → ∃ t u, exec (.linkReplay pkg port) s = .next t ∧ t.getPort pkg port = u ∧ t.mem = s.mem ∧ u.replay = min (p.replay + 1) 65535 ∧
    (p.again < 15 → u.st = 2 ∧ u.again = p.again + 1) ∧ (15 ≤ p.again → u.st = 3 ∧ u.lanes = 0)) ∧
  (f.wire = [⟨n, e, pkg, hops⟩] → pkg ≠ dst → s.routePort pkg dst = some pt → hop.st = 2 →
    (hops < 4 → ∃ t, exec (.linkOperationArrive src dst lane) s = .next t ∧ (t.getFlow src dst lane).wire = [⟨n, e, hop.peer, hops + 1⟩] ∧
      (t.getPort pkg pt).again = 0 ∧ t.mem = s.mem) ∧
    (4 ≤ hops → f.sent = [] → exec (.linkOperationArrive src dst lane) s = .next (put { f with wire := [] }))) ∧
  (f.wire = [⟨n, e, dst, hops⟩] → f.waiting = [] →
    (2 ^ 31 ≤ ahead → exec (.linkOperationArrive src dst lane) s = .next (put { f with wire := [], sent := f.sent.filter fun x => x.1 != n })) ∧
    (ahead ≠ 0 → ahead < 2 ^ 31 → exec (.linkOperationArrive src dst lane) s = .next (s.push (.linkOperationArrive src dst lane))) ∧
    (ahead = 0 → arrived.strayAnswer lane e = false → arrived.mustHold e = true → exec (.linkOperationArrive src dst lane) s = .next (arrived.hold e)) ∧
    (ahead = 0 → arrived.strayAnswer lane e = false → arrived.mustHold e = false →
      ∀ q ∈ [(Event.readRequest id, Instr.readRequest id), (.writeRequest id, .writeRequest id), (.loadMiss id, .loadMiss id),
        (.registration id, .registration id), (.homeAtomicOp id, .homeAtomicOp id), (.postPerform id, .postPerform id),
        (.postAck id, .postAck id), (.remoteFlagOp id, .remoteFlagOp id), (.msendRecordArrives id, .msendRecordArrives id),
        (.mmsendReceive id, .mmsendReceive id)], e = q.1 → ∃ t, exec (.linkOperationArrive src dst lane) s = .next t ∧
          exec q.2 arrived = .next t)) ∧
  (src ≠ dst → s.isCut src dst = false → s.routePort src dst = none → s.ops = [(id, .load a inv none)] → a.hart.pkg = src → a.home.pkg = dst →
    only 0 (.loadMiss id) → only 1 (.loadMiss id) → s.Plain a.hart a.part → ∃ t, exec (.destinationUnreachable src dst) s = .next t ∧
      t.isCut src dst = true ∧ t.getOp id = none ∧
      (t.getHart a.hart).answer = some (.trap 38 a.va) ∧ (t.getHart a.hart).wait = none ∧ t.mem = s.mem)

/-- R246, R263 to R267, R306 to R315: the firmware complex, boot, attestation and power. A register is written by its own writer while the die runs;
FE.IRQ makes an interrupt pending; FUSE.SVN only rises; FE.CTL reboots a die and takes its queues back; the lease is beaten and claimed;
the hang monitor hands the queues to the ferry, which dispatches a LAUNCH, COPY or SIGNAL; power-on starts the ROMs, which read,
verify and run an image; the key store signs; the limiter's ceiling follows the power. Model's choices: that BEAT stands at lease + 8 on the
model's lease page and that HDMBASE is Config.hdmBase at boot (log entry 13), that the key store may fail (log entry 3), that the leader whose
write of REBOOT is taken is the one that the target die's own LEADER names (log entry 35), and that a REBOOT sets the boot back to READ (log
entry 33). -/
def Obligations.FirmwareEvents : Prop :=
  ∀ (d : DieId) (agent off value p n nonce watts part : Nat) (h : HartId) (e : QEntry) (l : List Byte) (s : State),
  let w := BitVec.ofNat 64 value
  let v := s.getDie d
  let runs := s.dieRuns d = true
  let own := agent = d.die
  let lease := State.leaseAt d.pkg
  let inLease := s.mem.word lease
  let q := v.ferryPtr
  let fe := s.getFe d q
  let op := fld ((State.wordsOf 8 l).getD 0 0) 0 4
  let wr := fun (off : Nat) (p : State → Prop) => ∃ t, exec (.registerWrite d agent off value) s = .next t ∧ t.mem = s.mem ∧ t.harts = s.harts ∧ p t
  let only := fun (i : Instr) (x : Die) => ∃ t, exec i s = .next t ∧ t.getDie d = x ∧ t.mem = s.mem ∧ t.harts = s.harts ∧
    ∀ k, k ≠ d → t.getDie k = s.getDie k
  let bootAt := fun (i : Nat) => (s.getDie ⟨d.pkg, i⟩).bootState
  let slot := s.firstSlot d.pkg
  let k := s.getPkg n
  (s.dieRuns d = false ∨ off % 8 ≠ 0 → exec (.registerWrite d agent off value) s = .next s) ∧
  (p < 256 → (¬ own → exec (.registerWrite d agent (0x4000 + 8 * p) value) s = .next s) ∧
    (own → runs → wr (0x4000 + 8 * p) fun t => (t.getDie d).ptroot = store p (State.keepRoot w) v.ptroot)) ∧
  (own → runs → wr 0x1008 fun t => ∃ x, lookup 0x1008 (t.getDie d).regs = some x ∧ fld x 48 16 = max 1 (fld w 48 16) ∧
    x.getLsbD 40 = w.getLsbD 40 ∧ fld x 0 32 = 0 ∧ (51 ≤ fld w 32 8 → fld w 32 8 ≤ 100 → fld x 32 8 = fld w 32 8)) ∧
  (agent = 16 ∨ own → runs → d.die = 0 → wr 0x7000 fun t => (t.getPkg d.pkg).limit = min 3600 (fld w 0 16)) ∧
  (w.getLsbD 63 = false → exec (.feIrq d agent value) s = .next s ∧ exec (.fuseSvn d agent value) s = .next s) ∧
  (agent = 16 ∨ own → runs → w.getLsbD 63 = true → fld w 5 8 < 144 → fld w 0 5 < 24 → h = ⟨d.pkg, d.die, fld w 5 8, fld w 0 5⟩ → s.Plain h part →
    ∃ t, exec (.feIrq d agent value) s = .next t ∧ t.mem = s.mem ∧ (∀ k, k ≠ h → t.getHart k = s.getHart k) ∧
      (t.getHart h).csr.mip = (s.getHart h).csr.mip ||| (if w.getLsbD 13 then 0x800 else 8)) ∧
  (own → runs → w.getLsbD 63 = true → s.fsvn d < fld w 0 8 → fld w 0 8 ≤ v.bootSvn → ∃ t, exec (.fuseSvn d agent value) s = .next t ∧
    t.fsvn d = fld w 0 8 ∧ t.mem = s.mem) ∧
  (fld w 0 8 ≤ s.fsvn d ∨ v.bootSvn < fld w 0 8 → exec (.fuseSvn d agent value) s = .next s) ∧
  (agent ≠ 16 → agent ≠ v.leader → exec (.reboot d agent) s = .next s) ∧
  (agent = 16 ∨ agent = v.leader → only (.reboot d agent) { v with bootState := 1, bootFail := 0, bootSvn := 0, bootSlot := 0 } ∧
    ∃ t, exec (.reboot d agent) s = .next t ∧ .powerOn d.pkg ∈ t.pool) ∧
  (runs → only (.handback d) { v with ferry := false }) ∧
  (runs → v.leader = d.die → v.leaseTerm < fld (s.replicaWord d lease) 4 32 →
    only (.leaseBeat d) { v with leader := fld (s.replicaWord d lease) 0 4, leaseTerm := fld (s.replicaWord d lease) 4 32 }) ∧
  (runs → v.leader = d.die → fld (s.replicaWord d lease) 4 32 ≤ v.leaseTerm → s.mem.wf = true → ∃ t, exec (.leaseBeat d) s = .next t ∧
    t.mem.word (lease + 8) = s.replicaWord d (lease + 8) + 1 ∧ ∀ a, a < lease + 8 ∨ lease + 16 ≤ a → t.mem.read a = s.mem.read a) ∧
  (runs → v.leader ≠ d.die → d.die < 16 →
    (fld inLease 0 4 = v.leader → fld inLease 4 32 = v.leaseTerm → s.mem.wf = true → ∃ t u, exec (.leaseClaim d) s = .next t ∧ t.getDie d = u ∧
      u.leader = d.die ∧ u.leaseTerm = (v.leaseTerm + 1) % 2 ^ 32 ∧ t.mem.word lease = BitVec.ofNat 64 (d.die + u.leaseTerm * 16) ∧
      ∀ a, a < lease ∨ lease + 8 ≤ a → t.mem.read a = s.mem.read a) ∧
    (fld inLease 0 4 ≠ v.leader ∨ fld inLease 4 32 ≠ v.leaseTerm →
      only (.leaseClaim d) { v with leader := fld inLease 0 4, leaseTerm := fld inLease 4 32 })) ∧
  (s.readyQueues d = [] → exec (.hangMonitorFire d) s = .next s) ∧
  (s.readyQueues d ≠ [] → ∃ t, exec (.hangMonitorFire d) s = .next t ∧ (t.getDie d).ferry = true ∧ t.mem = s.mem ∧
    t.emitted = s.emitted ++ [.msix d ((lookup 0x1028 v.regs).getD 0).toNat] ∧
    ∀ i < 16, (t.getDie ⟨d.pkg, i⟩).hangset = (s.getDie ⟨d.pkg, i⟩).hangset ||| BitVec.ofNat 16 (2 ^ d.die)) ∧
  (v.ferry = false → exec (.ferryDispatch d) s = .next s) ∧
  (v.ferry = true → s.qEntry d q = none → only (.ferryDispatch d) { v with ferryPtr := (q + 1) % 64 }) ∧
  (v.ferry = true → s.qEntry d q = some e → fe.graph = none → fe.outOfRange = false → fe.disp < fe.tail → fe.running = [] →
    s.feRead d e.part (State.commandVa e fe.disp) 64 = .bytes l → 1 ≤ op → op ≤ 3 → reservedAt false (State.wordsOf 8 l) = none →
    ∃ t, exec (.ferryDispatch d) s = .next t ∧ (t.getFe d q).disp = fe.disp + 1 ∧ (t.getDie d).ferryPtr = (q + 1) % 64 ∧
      t.pool = s.pool ++ [cmdEvent false op d q s.nextId]) ∧
  ((∀ i < 16, bootAt i = 0) → ∃ t, exec (.powerOn d.pkg) s = .next t ∧ .powerOn d.pkg ∈ t.pool ∧ t.harts = s.harts ∧
    (∀ i < 16, (t.getDie ⟨d.pkg, i⟩).bootState = 1) ∧ (s.mem.wf = true → t.mem.word lease = 0x10) ∧
    (t.getPkg d.pkg).hdmBase = Config.hdmBase d.pkg ∧ (t.getPkg d.pkg).hdmSize ≤ 2 ^ 40 ∧ (t.getPkg d.pkg).hdmSize % 2 ^ 28 = 0) ∧
  (d.die < 16 → (∀ i < 16, i ≠ d.die → bootAt i ≠ 1 ∧ bootAt i ≠ 2) →
    (v.bootState = 1 → only (.powerOn d.pkg) { v with bootState := 2 }) ∧
    (v.bootState = 2 → ∃ t u, exec (.powerOn d.pkg) s = .next t ∧ t.getDie d = u ∧ t.mem = s.mem ∧
      u.bootState = (if s.slotFail d slot = 0 ∨ s.slotFail d (1 - slot) = 0 then 3 else 4) ∧
      (u.bootState = 3 → u.bootSlot = (if s.slotFail d slot = 0 then slot else 1 - slot) ∧
        u.sram = s.flashBytes d.pkg (2 ^ 23 * u.bootSlot + 256) (bytesToNat (s.flashBytes d.pkg (2 ^ 23 * u.bootSlot + 8) 4))) ∧
      (u.bootState = 4 → u.bootFail = s.slotFail d (1 - slot)))) ∧
  (n = 0 ∨ 16384 < n → exec (.keyStoreSign d n value) s = .next s) ∧
  (runs → 1 ≤ n → n ≤ 16384 → ∃ t, exec (.keyStoreSign d n value) s = .next t ∧ t.mem = s.mem ∧ t.emitted = s.emitted ++
    [.signature d (if Config.keyStoreFails s.tick then none else some (ed448Sign d.pkg (natToBytes n value)))]) ∧
  ((∀ i < 16, s.dieRuns ⟨d.pkg, i⟩ = false) → exec (.attestationRequest d.pkg nonce) s = .next s) ∧
  (d.die < 16 → runs → v.leader = d.die → (∀ i < d.die, s.dieRuns ⟨d.pkg, i⟩ = false) → ∃ t r, exec (.attestationRequest d.pkg nonce) s = .next t ∧
    r.take 32 = natToBytes 32 nonce ∧ t.mem = s.mem ∧ t.emitted = s.emitted ++
      [.report d.pkg (if Config.keyStoreFails s.tick then none else some (r ++ ed448Sign d.pkg r))]) ∧
  (∃ t, exec (.powerWindow n watts) s = .next t ∧ (t.getPkg n).limit = k.limit ∧ (t.getPkg n).ceiling =
    if k.limit < watts then min 7 (k.ceiling + 1) else if 16 * watts < 15 * k.limit then k.ceiling - 1 else k.ceiling) ∧
  (4 * watts ≤ 5 * k.limit → exec (.powerSurge n watts) s = .next s) ∧
  (5 * k.limit < 4 * watts → ∃ t, exec (.powerSurge n watts) s = .next t ∧ (t.getPkg n).ceiling = 7 ∧ (t.getPkg n).limit = k.limit) ∧
  (p < 8 → n ≤ 7 → ∃ t, exec (.islandLevelChange d p n) s = .next t ∧ (t.island d p).1 = n ∧ (t.island d p).2 = (s.island d p).2 ∧ t.mem = s.mem)

/-- R51, R274, R275, R316, R317: errors of arrays are logged, with UE 1 and their effect when uncorrectable: an accumulator's INVAL bits, an emptied
channel, a scratch block POISON or a word of the L1 dropped, a bad word of the instruction store, a register bank's context ended, a word
LOST, waiting readers released with poison, a word or block of HBM; the die's log is read oldest first and its injection armed; an armed
injection fires once, at the step that writes its word, also with the value that it held, which shows where the step is taken again from the
state with the word inverted; a word without an instruction traps with cause 2, a faulting fetch with its cause;
the walk of a translation miss answers it. Model's choices: which object an array's word belongs to (a channel is ADDR / 32) and what
shows that it was written are log entry 14; that a block is a page mapped BLOCK, and that the owner of a word that enters LOST gives its
copy up, log entry 33; the instruction-store clause, where a free value decides between marking the word bad and dropping it at once,
rests on log entries 12, 14 and 33. -/
def Obligations.ErrorsAndTraps : Prop := ∀ (c : CellId) (array addr synd qa x value word cause va part l1 : Nat) (d : DieId) (m : Miss) (h : HartId)
    (e : TlbEntry) (lw : L1Word) (b : Block) (f : LogEntry) (rest : List LogEntry) (s : State),
  let v := s.getCell c
  let strike := fun (array : Nat) (p : State → Prop) => ∃ t, exec (.uncorrectableError c array addr synd) s = .next t ∧ t.mem = s.mem ∧ p t
  let names := fun (ue : Bool) (f : LogEntry) => f.getLsbD 63 = true ∧ f.getLsbD 61 = ue ∧ fld f 55 6 = array % 64 ∧ fld f 31 24 = addr % 2 ^ 24 ∧
    fld f 23 8 = synd % 256
  let unified := Config.arrayObject 0 addr
  let bank := Config.arrayObject 4 addr
  let acc := Config.arrayObject 3 addr % 16
  let struck := fun array : Nat => State.stackWord c.dieId (Config.arrayObject array addr)
  let dv := s.getDie d
  let w := BitVec.ofNat 64 value
  let logged := fun (i : Instr) (ue : Bool) => ∃ t, exec i s = .next t ∧
    (State.cellArray array = true → v.elog.length < 16 → ∃ f, (t.getCell c).elog = v.elog ++ [f] ∧ names ue f) ∧
    (State.dieArray array = true → (s.getDie c.dieId).elog.length < 64 → ∃ f, (t.getDie c.dieId).elog = (s.getDie c.dieId).elog ++ [f] ∧
      names ue f)
  logged (.correctableError c array addr synd) false ∧
  (∃ t, exec (.correctableError c array addr synd) s = .next t ∧ t.mem = s.mem ∧ t.harts = s.harts ∧ t.blocks = s.blocks ∧ t.words = s.words ∧
    (t.getCell c).ctx = v.ctx ∧ (t.getCell c).einj = v.einj) ∧
  (array = 2 ∨ array = 3 → logged (.uncorrectableError c array addr synd) true) ∧
  (strike 3 fun t => (t.getCell c).ctx.accs = store acc { s.getAcc c acc with status := (s.getAcc c acc).status ||| 0xFFFFFFFF } v.ctx.accs ∧
    t.harts = s.harts) ∧
  (strike 2 fun t => lookup (addr / 32 % 64) (t.getCell c).ctx.rings = some ⟨0, 0, 0, []⟩ ∧ t.harts = s.harts) ∧
  (v.istore = [(qa, x)] → strike 1 fun t =>
    (Config.unstated 64 s.tick addr % 2 ≠ 1 → (t.getCell c).istoreBad = (qa, addr, synd) :: v.istoreBad ∧ (t.getCell c).elog = v.elog) ∧
    (Config.unstated 64 s.tick addr % 2 = 1 → (t.getCell c).istore = [] ∧ (t.getCell c).istoreBad = v.istoreBad)) ∧
  (unified % 80 < v.ctx.spad → strike 0 fun t => (t.tileFor c v.ctx.part (unified % 80)).st = .poison ∧ (t.getCell c).l1 = v.l1 ∧ t.words = s.words) ∧
  (v.ctx.spad ≤ unified % 80 → v.l1 = [(l1, lw)] → strike 0 fun t => (t.getCell c).l1 = [] ∧
    t.words = (if lw.owned then store l1 .lost s.words else s.words)) ∧
  (lookup (bank % 24) v.preempted = none → (s.getHart (c.hart (bank % 24))).status = .running → (s.getHart (c.hart (bank % 24))).service = false →
    strike 4 fun t => (t.getHart (c.hart (bank % 24))).status = .halted) ∧
  (s.blocks = [(qa, b)] → stackDie qa = c.dieId → b.list ≠ [] →
    strike 18 fun t => (t.getBlock qa).list = [] ∧ (t.getBlock qa).full = b.full ∧ (t.getBlock qa).gen = b.gen) ∧
  (c.die < 16 → (∀ o ∈ s.ops, ∀ a val g r, o.2 ≠ .register a val (some (.word g)) r) → ∀ array ∈ [16, 17], stackDie (struck array) = c.dieId ∧ strike array fun t =>
    t.words = store (struck array) .lost s.words ∧ ∀ o, lookup (struck array) s.words = some (.registered o) → t.l1Get o (struck array) = none) ∧
  (strike 32 fun t => (s.blockPage (struck 32 / 4096) = false → t.badWords = struck 32 :: s.badWords) ∧
    (s.blockPage (struck 32 / 4096) = true → (t.getBlock (struck 32 / 4096 * 4096)).poison = true ∧ (t.getBlock (struck 32 / 4096 * 4096)).full = false)) ∧
  (s.dieRuns d = false → exec (.dieElogRead d) s = .next (s.emit (.logRead d (BitVec.allOnes 64)))) ∧
  (s.dieRuns d = true → dv.elog = [] → exec (.dieElogRead d) s = .next (s.emit (.logRead d 0))) ∧
  (s.dieRuns d = true → dv.elog = f :: rest → ∃ t, exec (.dieElogRead d) s = .next t ∧ (t.getDie d).elog = rest ∧
    t.emitted = s.emitted ++ [.logRead d f]) ∧
  (s.dieRuns d = true → ∃ t, exec (.dieEinj d d.die value) s = .next t ∧ t.mem = s.mem ∧ (t.getDie d).einj =
    if State.dieArray (fld w 24 6) = true ∧ fld w 0 24 < Config.arrayWords (fld w 24 6) ∧ fld w 32 7 < 72 ∧ (w.getLsbD 47 = true → fld w 40 7 < 72)
    then some (fld w 24 6, fld w 0 24, fld w 32 16) else dv.einj) ∧
  (∀ (again : State → State) (t : State) (bits : Nat),
    let found := fun (c : CellId) (array : Nat) (u : State) => ∃ n, State.fired again s t = u.push
      (if bitsOf bits 15 1 = 1 then .uncorrectableError c array addr n else .correctableError c array addr n)
    let k : CellId := ⟨d.pkg, d.die, 0⟩
    let held := fun u : State => u.arrayRead c 2 addr 0
    let at32 := State.stackWord d (Config.arrayObject 32 addr)
    let other := s.arrayFlip c 2 addr 0
    let other32 := s.arrayFlip k 32 addr 0
    let written := held s ≠ held t ∨ held (again other) ≠ held other
    let written32 := s.mem.word at32 ≠ t.mem.word at32 ∨ (again other32).mem.word at32 ≠ other32.mem.word at32 ∨
      ((again other32).homes = other32.homes ∧ (⟨64, 0, 0, 0⟩, at32, true) ∉ (again other32).resvs)
    (s.cells = [(c, v)] → (∀ p ∈ s.dies, p.2.einj = none) → v.einj = some (2, addr, bits) → (t.getCell c).einj = v.einj →
      (¬ written → State.fired again s t = t) ∧ (written → found c 2 (t.updCell c fun x => { x with einj := none }))) ∧
    (s.dies = [(d, dv)] → (∀ p ∈ s.cells, p.2.einj = none) → dv.einj = some (32, addr, bits) → (t.getDie d).einj = dv.einj →
      (¬ written32 → State.fired again s t = t) ∧
      (written32 → found k 32 (t.updDie d fun x => { x with einj := none })))) ∧
  (s.me.spec = none → exec (.illegalInstruction word) s = .next (s.raises 2 (BitVec.ofNat 64 word)) ∧
    exec (.instructionFetchFault cause va) s = .next (s.raises cause (BitVec.ofNat 64 va))) ∧
  ((∀ m ∈ dv.misses, m.part ≠ part ∨ m.vpn ≠ va / 4096) → exec (.pageWalk d part va) s = .next s) ∧
  (dv.misses = [m] → m.part = part → m.vpn = va / 4096 → m.waiting = [h] → m.units = [] → s.Plain h part →
    (s.walk d part m.win (m.vpn * 4096) = some e → e.va ≤ m.vpn * 4096 → m.vpn * 4096 < e.va + e.size →
      ∃ t, exec (.pageWalk d part va) s = .next t ∧ e ∈ (t.getDie d).tlb ∧ (t.getDie d).misses = [] ∧
        t.getHart h = { s.getHart h with wait := none, stalled := true } ∧ t.mem = s.mem) ∧
    (s.walk d part m.win (m.vpn * 4096) = none → ∃ t, exec (.pageWalk d part va) s = .next t ∧ (t.getDie d).misses = [] ∧
      (t.getDie d).tlb = dv.tlb ∧ t.getHart h = { s.getHart h with wait := none, walkFault := some (m.win, m.vpn) } ∧ t.mem = s.mem))

/-- R44 to R54, R69, R94, R126, R160: decoding and encoding agree. The word of every well-formed instruction that has one, at every value of
every operand, is read back as that instruction, from the word and from its bytes. -/
def Obligations.DecodeOfEncode : Prop := ∀ (i : Instr) (w : Nat), i.wf = true → encode i = some w →
  w < 2 ^ 32 ∧ decodeWord w = .ok i ∧ decodeBytes (bytesOfWord w) = .ok (i, []) ∧ decodeTableWord 32 w = some i

/-- R44 to R54: words written out from the layouts of the manual, the worked encodings among them, decode to the instructions they stand for, and
those that it calls illegal decode to none. -/
def Obligations.WrittenWordsDecode : Prop := decodeWord 0b11111111111100010000000010010011 = .ok (.addi 1 2 0xFFF) ∧
  decodeWord 0b01000000011100110000001010110011 = .ok (.sub 5 6 7) ∧
  decodeWord 0b11111110101001011001110000100011 = .ok (.sh 11 10 0xFF8) ∧
  decodeWord 0b11111110001000001000111011100011 = .ok (.beq 1 2 0x1FFC) ∧
  decodeWord 0x001001AB = .ok (.mma 3 0 1) ∧ decodeWord 0xB025C50B = .ok (.ldq 2 3 2 11 10) ∧ decodeWord 0xC050005B = .ok (.fwait 5) ∧
  decodeWord 0x003624DB = .ok (.bfs 300 3) ∧ decodeWord 0x0000107B = .ok (.halt 0) ∧
  (∀ i, decodeWord 0x0010082B ≠ .ok i) ∧ (∀ i, decodeWord 0 ≠ .ok i) ∧ (∀ i, decodeWord 0xFFFFFFFF ≠ .ok i)

/-- R44, R52, R226, R271, R275, and the model's order of steps (log 2): a step in a hart's turn runs the instruction whose word stands at the
pc. A base branch that is predicted is the exception: the hart goes on along the predicted path, and the branch resolves later; which branches
are predicted, and which way, is the model's choice (log entry 5: Config.branchWaits, Config.predictTaken). The meaning of every other
instruction is applied in the state that the fetch leaves, which differs from the one before in counted cycles, the selection
pointer and the instruction store; then the turn ends and the next is chosen. A word that is no instruction traps. In an event's turn
the step is the meaning of the event's row; a request that its home cannot serve yet is held there, and an event of a unit whose
translation misses comes again (R214, R274). -/
def Obligations.StepsRunInstructions : Prop := ∀ (s : State) (e : TlbEntry) (w : Nat) (i : Instr) (ev : Event),
  let v := s.issued e w
  (s.Issues → s.FetchesAt e w →
    (decodeBytes (s.mem.readBytes (e.phys s.me.pc.toNat) 4) = .ok (i, []) → step s = Out.ends s (match v.predicted i with
      | none => exec i v
      | some u => .next u)) ∧
    (v.baseBranch i = none → v.predicted i = none) ∧
    ((∀ j, decodeWord w ≠ .ok j) → step s = Out.ends s (exec (.illegalInstruction w) (s.fetched e w))) ∧
    v = { s with harts := v.harts, cells := v.cells } ∧
    (∃ n, v.me = { s.me with insn := some w, csr := { s.me.csr with mcycle := n } }) ∧
    ∀ k, k ≠ s.cur → ∃ n, v.getHart k = { s.getHart k with csr := { (s.getHart k).csr with mcycle := n } }) ∧
  (s.turn = .event ev → s.mustHold ev = true → step s = .next (s.goOn (s.hold ev))) ∧
  (s.turn = .event ev → s.mustHold ev = false → (∃ n ∈ s.needs ev, s.missing n = true) → ∃ t : State, step s = .next (s.goOn t) ∧ ev ∈ t.pool ∧
    t.mem = s.mem ∧ t.harts = s.harts) ∧
  (s.turn = .event ev ∧ s.mustHold ev = false ∨ s.turn = .held ev → (∀ n ∈ s.needs ev, s.missing n = false) → ev.Names i →
    step s = Out.map (exec i s) fun t => s.goOn ((s.needs ev).foldl (State.faultTold ev) t))

/-- R51, R62, R275: the machine never stops. The manual gives every step an effect, be it a trap: every instruction and event answers a next state
in every state, so that every run goes on for ever. -/
def Obligations.NeverStops : Prop :=
  (∀ (i : Instr) (s : State), ∃ t, exec i s = .next t) ∧ ∀ s : State, Safe s

/-- R4, R210, and the model's listing of memory (log 6): no step and no instruction breaks the canonical form of memory, in which addresses rise
strictly and no byte is listed that an unlisted address reads as. -/
def Obligations.MemoryFormKept : Prop := ∀ s t : State, s.mem.wf = true →
  (step s = .next t → t.mem.wf = true) ∧ ∀ i, exec i s = .next t → t.mem.wf = true

/-- R4: memory is byte-addressed and little-endian. A byte and a word read back what was written there, and every other address as before; two
memories in canonical form that read alike are equal. -/
def Obligations.MemoryReadsBack : Prop := ∀ (m m' : Memory) (a c n : Nat) (b : Byte) (bs : List Byte) (w : Word), m.wf = true →
  (m.write a b).read c = (if c = a then b else m.read c) ∧
  (m.writeBytes a bs).readBytes a bs.length = bs ∧
  (c < a ∨ a + bs.length ≤ c → (m.writeBytes a bs).read c = m.read c) ∧
  (m.setWord a w).word a = w ∧
  (n < 8 → (m.setWord a w).read (a + n) = w.extractLsb' (8 * n) 8) ∧
  (m'.wf = true → (∀ x, m.read x = m'.read x) → m = m')

/-- R10, R11, R12, R263, R308, R315: the machine after reset. Every boot ROM stands at RESET with no failure, no queue is with the ferry, LIMIT is
3,600; no hart exists yet, and every hart register and CSR holds its Reset column; memory is in canonical form. That an unwritten byte
reads as zero is the model's choice (log 6), as is that the first turn is a hart's (log 2); so are the x and h registers, mode, priority
and CSRs of harts that no launch has placed (log 1). -/
def Obligations.ResetState : Prop :=
  let s := State.reset
  s.mem.wf = true ∧ (∀ a, s.mem.read a = 0) ∧ s.turn = .hart ∧
  (∀ d : DieId, s.dieRuns d = false ∧ (s.getDie d).bootState = 0 ∧ (s.getDie d).bootFail = 0 ∧ (s.getDie d).bootSvn = 0 ∧ (s.getDie d).bootSlot = 0 ∧
    (s.getDie d).ferry = false ∧ (s.getDie d).leader = 0 ∧ (s.getDie d).leaseTerm = 1) ∧
  (∀ p, (s.getPkg p).limit = 3600 ∧ (s.getPkg p).ceiling = 0) ∧
  ∀ h : HartId, (s.getHart h).status = .absent ∧ (s.getHart h).mode = .u ∧ (s.getHart h).prio = 3 ∧ (s.getHart h).loop = none ∧
    (∀ r < 32, (s.getHart h).x[r]? = some 0) ∧ (∀ r < 16, (s.getHart h).h[r]? = some 0) ∧
    ∀ p ∈ [(0x300, 0), (0x301, 0x8000000000101101), (0x304, 0), (0x306, 5), (0x340, 0), (0x341, 0), (0x342, 0), (0x343, 0), (0x344, 0),
      (0xB00, 0), (0xB02, 0), (0xF11, 0), (0xF12, 0x1600), (0xF13, 1), (0x800, 0x101), (0x801, 0x7F), (0x802, 0x7F), (0x803, 8), (0x804, 0),
      (0x805, 0), (0x806, 0), (0x807, 0), (0x808, 0), (0x809, 3), (0x80A, 0), (0x80B, 0x3F800000), (0x80C, 0), (0x80D, 0), (0x80E, 0),
      (0x80F, 0), (0xCC6, 0), (0xCC7, 0), (0xCC8, 0), (0x7C3, 0), (0x7C4, 0)], s.csrGet h p.1 = p.2

/-- R9, R11, R52, R62, R72: what an instruction leaves unchanged that completes, and one that traps. x0 reads as zero and ignores writes; completing
counts minstret and moves the pc, by the loop if one is active; nothing else of the hart, no other hart and no other part of the machine
changes. A precise exception changes the saved registers, mode and pc, and drops the hart's reservation. -/
def Obligations.CompletionFrame : Prop := ∀ (s : State) (rd cause : Nat) (v tval : Word),
  let t := s.wrote rd v
  let u := s.raises cause tval
  let m := s.me.csr.mstatus
  t = { s with harts := t.harts } ∧ (∀ k, k ≠ s.cur → t.getHart k = s.getHart k) ∧ s.passed = s.wrote 0 v ∧
  (∀ r < 32, t.xr r = if r = 0 then 0 else if r = rd then v else s.xr r) ∧
  t.me = { s.me with x := t.me.x, pc := t.me.pc, loop := t.me.loop, csr := t.me.csr, wait := none, answer := none, stalled := false, parked := false,
                     op := none, walkFault := none, insn := none } ∧
  t.me.csr = { s.me.csr with minstret := s.me.csr.minstret + 1, repState := t.me.csr.repState } ∧
  (s.me.loop = none → t.me.pc = s.me.pc + 4 ∧ t.me.loop = none ∧ t.me.csr.repState = s.me.csr.repState) ∧
  u = { s with harts := u.harts, resvs := u.resvs } ∧ (∀ k, k ≠ s.cur → u.getHart k = s.getHart k) ∧
  (∀ r, r ∈ u.resvs ↔ r ∈ s.resvs ∧ r.1 ≠ s.who) ∧
  u.me = { s.me with pc := s.me.csr.mtvec &&& ~~~(3 : Word), mode := .m, loop := none, csr := u.me.csr, wait := none, answer := none, stalled := false,
                     parked := false, op := none, walkFault := none, insn := none } ∧
  u.me.csr = { s.me.csr with mepc := s.me.pc &&& ~~~(3 : Word), mcause := BitVec.ofNat 64 cause, mtval := tval, mstatus := u.me.csr.mstatus } ∧
  u.me.csr.mstatus.getLsbD 7 = m.getLsbD 3 ∧ u.me.csr.mstatus.getLsbD 3 = false ∧
  fld u.me.csr.mstatus 11 2 = (if s.me.mode = .m then 3 else 0)
end

