-- ==== Sys2Proof/Laws/State.lean ====
section
/-!
SUPPORT. The laws of the lists that State keeps, and of the parts of the state that the named operations change.
-/
namespace Sys2Proof.Machine

/-! ### Lists of pairs -/

section
variable {κ α : Type} [DecidableEq κ]

@[simp] theorem lookup_nil (k : κ) : lookup k ([] : List (κ × α)) = none := rfl

@[simp] theorem lookup_store_same (k : κ) (v : α) (l : List (κ × α)) : lookup k (store k v l) = some v := by
  induction l with
  | nil => simp [store, lookup]
  | cons p l ih =>
    obtain ⟨k', v'⟩ := p
    by_cases h : k' = k <;> simp [store, lookup, h, ih]

theorem lookup_store_of_ne {k k' : κ} (h : k' ≠ k) (v : α) (l : List (κ × α)) : lookup k' (store k v l) = lookup k' l := by
  induction l with
  | nil => simp [store, lookup, Ne.symm h]
  | cons p l ih =>
    obtain ⟨k'', v''⟩ := p
    by_cases h1 : k'' = k
    · subst h1; simp [store, lookup, Ne.symm h]
    · by_cases h2 : k'' = k'
      · subst h2; simp [store, lookup, h]
      · simp [store, lookup, h1, h2, ih]

@[simp] theorem store_store_same (k : κ) (v w : α) (l : List (κ × α)) : store k w (store k v l) = store k w l := by
  induction l with
  | nil => simp [store]
  | cons p l ih =>
    obtain ⟨k', v'⟩ := p
    by_cases h : k' = k <;> simp [store, h, ih]

@[simp] theorem lookup_erase_same (k : κ) (l : List (κ × α)) : lookup k (erase k l) = none := by
  induction l with
  | nil => rfl
  | cons p l ih =>
    obtain ⟨k', v'⟩ := p
    by_cases h : k' = k <;> simp [erase, lookup, h, ih]

theorem lookup_erase_of_ne {k k' : κ} (h : k' ≠ k) (l : List (κ × α)) : lookup k' (erase k l) = lookup k' l := by
  induction l with
  | nil => rfl
  | cons p l ih =>
    obtain ⟨k'', v''⟩ := p
    by_cases h1 : k'' = k
    · subst h1; simp [erase, lookup, ih, Ne.symm h]
    · by_cases h2 : k'' = k'
      · subst h2; simp [erase, lookup, h]
      · simp [erase, lookup, h1, h2, ih]

end

/-! ### Harts -/

namespace State

@[simp] theorem getHart_setHart (s : State) (h : HartId) (v : Hart) : (s.setHart h v).getHart h = v := by
  simp [getHart, setHart]

theorem getHart_setHart_of_ne {h k : HartId} (n : k ≠ h) (s : State) (v : Hart) : (s.setHart h v).getHart k = s.getHart k := by
  simp [getHart, setHart, lookup_store_of_ne n]

@[simp] theorem setHart_setHart (s : State) (h : HartId) (v w : Hart) : (s.setHart h v).setHart h w = s.setHart h w := by
  simp [setHart]

@[simp] theorem cur_setHart (s : State) (h : HartId) (v : Hart) : (s.setHart h v).cur = s.cur := rfl

@[simp] theorem me_setHart (s : State) (v : Hart) : (s.setHart s.cur v).me = v := by simp [me]

@[simp] theorem updMe_setHart (s : State) (v : Hart) (f : Hart → Hart) : (s.setHart s.cur v).updMe f = s.setHart s.cur (f v) := by
  simp [updMe, updHart]

/-! ### What an update changes, read back -/

@[simp] theorem getCell_setCell (s : State) (c : CellId) (v : Cell) : (s.setCell c v).getCell c = v := by simp [getCell, setCell]

theorem getCell_setCell_of_ne {c k : CellId} (n : k ≠ c) (s : State) (v : Cell) : (s.setCell c v).getCell k = s.getCell k := by
  simp [getCell, setCell, lookup_store_of_ne n]

@[simp] theorem getCell_updCell (s : State) (c : CellId) (f : Cell → Cell) : (s.updCell c f).getCell c = f (s.getCell c) := by simp [updCell]

@[simp] theorem getHart_updHart (s : State) (h : HartId) (f : Hart → Hart) : (s.updHart h f).getHart h = f (s.getHart h) := by simp [updHart]

@[simp] theorem me_updMe (s : State) (f : Hart → Hart) : (s.updMe f).me = f s.me := by simp [updMe, updHart, me]

@[simp] theorem getDie_setDie (s : State) (d : DieId) (v : Die) : (s.setDie d v).getDie d = v := by simp [getDie, setDie]

theorem getDie_setDie_of_ne {d k : DieId} (n : k ≠ d) (s : State) (v : Die) : (s.setDie d v).getDie k = s.getDie k := by
  simp [getDie, setDie, lookup_store_of_ne n]

@[simp] theorem getDie_updDie (s : State) (d : DieId) (f : Die → Die) : (s.updDie d f).getDie d = f (s.getDie d) := by simp [updDie]

@[simp] theorem getPkg_updPkg (s : State) (p : Nat) (f : Pkg → Pkg) : (s.updPkg p f).getPkg p = f (s.getPkg p) := by simp [getPkg, updPkg]

@[simp] theorem getBlock_setBlock (s : State) (b : Nat) (v : Block) : (s.setBlock b v).getBlock b = v := by simp [getBlock, setBlock]

theorem getBlock_setBlock_of_ne {b k : Nat} (n : k ≠ b) (s : State) (v : Block) : (s.setBlock b v).getBlock k = s.getBlock k := by
  simp [getBlock, setBlock, lookup_store_of_ne n]

@[simp] theorem getOp_setOp (s : State) (id : Nat) (o : Op) : (s.setOp id o).getOp id = some o := by simp [getOp, setOp]

theorem getOp_setOp_of_ne {id k : Nat} (n : k ≠ id) (s : State) (o : Op) : (s.setOp id o).getOp k = s.getOp k := by
  simp [getOp, setOp, lookup_store_of_ne n]

@[simp] theorem getOp_newOp (s : State) (o : Op) : (s.newOp o).getOp s.nextId = some o := by simp [getOp, newOp, lookup]

@[simp] theorem getOp_dropOp (s : State) (id : Nat) : (s.dropOp id).getOp id = none := by simp [getOp, dropOp]

theorem getOp_dropOp_of_ne {id k : Nat} (n : k ≠ id) (s : State) : (s.dropOp id).getOp k = s.getOp k := by
  simp [getOp, dropOp, lookup_erase_of_ne n]

@[simp] theorem getTile_setTile (s : State) (c : CellId) (i : Nat) (v : Tile) : (s.setTile c i v).getTile c i = v := by
  simp [getTile, setTile, updCtx]

theorem getTile_setTile_of_ne {i j : Nat} (n : j ≠ i) (s : State) (c : CellId) (v : Tile) : (s.setTile c i v).getTile c j = s.getTile c j := by
  simp [getTile, setTile, updCtx, lookup_store_of_ne n]

@[simp] theorem getAcc_setAcc (s : State) (c : CellId) (i : Nat) (v : AccTile) : (s.setAcc c i v).getAcc c i = v := by
  simp [getAcc, setAcc, updCtx]

@[simp] theorem getChan_setChan (s : State) (c : CellId) (i : Nat) (v : Channel) : (s.setChan c i v).getChan c i = v := by
  simp [getChan, setChan, updCtx]

/-! ### What the updates leave alone: one law per field -/

section
variable (s : State)

@[simp] theorem turn_setHart (h : HartId) (v : Hart) : (s.setHart h v).turn = s.turn := rfl
@[simp] theorem pool_setHart (h : HartId) (v : Hart) : (s.setHart h v).pool = s.pool := rfl
@[simp] theorem tick_setHart (h : HartId) (v : Hart) : (s.setHart h v).tick = s.tick := rfl
@[simp] theorem nextId_setHart (h : HartId) (v : Hart) : (s.setHart h v).nextId = s.nextId := rfl
@[simp] theorem cells_setHart (h : HartId) (v : Hart) : (s.setHart h v).cells = s.cells := rfl
@[simp] theorem dies_setHart (h : HartId) (v : Hart) : (s.setHart h v).dies = s.dies := rfl
@[simp] theorem pkgs_setHart (h : HartId) (v : Hart) : (s.setHart h v).pkgs = s.pkgs := rfl
@[simp] theorem mem_setHart (h : HartId) (v : Hart) : (s.setHart h v).mem = s.mem := rfl
@[simp] theorem words_setHart (h : HartId) (v : Hart) : (s.setHart h v).words = s.words := rfl
@[simp] theorem badWords_setHart (h : HartId) (v : Hart) : (s.setHart h v).badWords = s.badWords := rfl
@[simp] theorem busy_setHart (h : HartId) (v : Hart) : (s.setHart h v).busy = s.busy := rfl
@[simp] theorem blocks_setHart (h : HartId) (v : Hart) : (s.setHart h v).blocks = s.blocks := rfl
@[simp] theorem replicas_setHart (h : HartId) (v : Hart) : (s.setHart h v).replicas = s.replicas := rfl
@[simp] theorem replOrder_setHart (h : HartId) (v : Hart) : (s.setHart h v).replOrder = s.replOrder := rfl
@[simp] theorem resvs_setHart (h : HartId) (v : Hart) : (s.setHart h v).resvs = s.resvs := rfl
@[simp] theorem hqWaiters_setHart (h : HartId) (v : Hart) : (s.setHart h v).hqWaiters = s.hqWaiters := rfl
@[simp] theorem locks_setHart (h : HartId) (v : Hart) : (s.setHart h v).locks = s.locks := rfl
@[simp] theorem ops_setHart (h : HartId) (v : Hart) : (s.setHart h v).ops = s.ops := rfl
@[simp] theorem gangs_setHart (h : HartId) (v : Hart) : (s.setHart h v).gangs = s.gangs := rfl
@[simp] theorem homes_setHart (h : HartId) (v : Hart) : (s.setHart h v).homes = s.homes := rfl
@[simp] theorem hostBias_setHart (h : HartId) (v : Hart) : (s.setHart h v).hostBias = s.hostBias := rfl
@[simp] theorem held_setHart (h : HartId) (v : Hart) : (s.setHart h v).held = s.held := rfl
@[simp] theorem flows_setHart (h : HartId) (v : Hart) : (s.setHart h v).flows = s.flows := rfl
@[simp] theorem cut_setHart (h : HartId) (v : Hart) : (s.setHart h v).cut = s.cut := rfl
@[simp] theorem emitted_setHart (h : HartId) (v : Hart) : (s.setHart h v).emitted = s.emitted := rfl

@[simp] theorem turn_setCell (c : CellId) (v : Cell) : (s.setCell c v).turn = s.turn := rfl
@[simp] theorem cur_setCell (c : CellId) (v : Cell) : (s.setCell c v).cur = s.cur := rfl
@[simp] theorem pool_setCell (c : CellId) (v : Cell) : (s.setCell c v).pool = s.pool := rfl
@[simp] theorem tick_setCell (c : CellId) (v : Cell) : (s.setCell c v).tick = s.tick := rfl
@[simp] theorem nextId_setCell (c : CellId) (v : Cell) : (s.setCell c v).nextId = s.nextId := rfl
@[simp] theorem harts_setCell (c : CellId) (v : Cell) : (s.setCell c v).harts = s.harts := rfl
@[simp] theorem dies_setCell (c : CellId) (v : Cell) : (s.setCell c v).dies = s.dies := rfl
@[simp] theorem pkgs_setCell (c : CellId) (v : Cell) : (s.setCell c v).pkgs = s.pkgs := rfl
@[simp] theorem mem_setCell (c : CellId) (v : Cell) : (s.setCell c v).mem = s.mem := rfl
@[simp] theorem words_setCell (c : CellId) (v : Cell) : (s.setCell c v).words = s.words := rfl
@[simp] theorem badWords_setCell (c : CellId) (v : Cell) : (s.setCell c v).badWords = s.badWords := rfl
@[simp] theorem busy_setCell (c : CellId) (v : Cell) : (s.setCell c v).busy = s.busy := rfl
@[simp] theorem blocks_setCell (c : CellId) (v : Cell) : (s.setCell c v).blocks = s.blocks := rfl
@[simp] theorem replicas_setCell (c : CellId) (v : Cell) : (s.setCell c v).replicas = s.replicas := rfl
@[simp] theorem replOrder_setCell (c : CellId) (v : Cell) : (s.setCell c v).replOrder = s.replOrder := rfl
@[simp] theorem resvs_setCell (c : CellId) (v : Cell) : (s.setCell c v).resvs = s.resvs := rfl
@[simp] theorem hqWaiters_setCell (c : CellId) (v : Cell) : (s.setCell c v).hqWaiters = s.hqWaiters := rfl
@[simp] theorem locks_setCell (c : CellId) (v : Cell) : (s.setCell c v).locks = s.locks := rfl
@[simp] theorem ops_setCell (c : CellId) (v : Cell) : (s.setCell c v).ops = s.ops := rfl
@[simp] theorem gangs_setCell (c : CellId) (v : Cell) : (s.setCell c v).gangs = s.gangs := rfl
@[simp] theorem homes_setCell (c : CellId) (v : Cell) : (s.setCell c v).homes = s.homes := rfl
@[simp] theorem hostBias_setCell (c : CellId) (v : Cell) : (s.setCell c v).hostBias = s.hostBias := rfl
@[simp] theorem held_setCell (c : CellId) (v : Cell) : (s.setCell c v).held = s.held := rfl
@[simp] theorem flows_setCell (c : CellId) (v : Cell) : (s.setCell c v).flows = s.flows := rfl
@[simp] theorem cut_setCell (c : CellId) (v : Cell) : (s.setCell c v).cut = s.cut := rfl
@[simp] theorem emitted_setCell (c : CellId) (v : Cell) : (s.setCell c v).emitted = s.emitted := rfl

@[simp] theorem turn_setDie (d : DieId) (v : Die) : (s.setDie d v).turn = s.turn := rfl
@[simp] theorem cur_setDie (d : DieId) (v : Die) : (s.setDie d v).cur = s.cur := rfl
@[simp] theorem pool_setDie (d : DieId) (v : Die) : (s.setDie d v).pool = s.pool := rfl
@[simp] theorem tick_setDie (d : DieId) (v : Die) : (s.setDie d v).tick = s.tick := rfl
@[simp] theorem nextId_setDie (d : DieId) (v : Die) : (s.setDie d v).nextId = s.nextId := rfl
@[simp] theorem harts_setDie (d : DieId) (v : Die) : (s.setDie d v).harts = s.harts := rfl
@[simp] theorem cells_setDie (d : DieId) (v : Die) : (s.setDie d v).cells = s.cells := rfl
@[simp] theorem pkgs_setDie (d : DieId) (v : Die) : (s.setDie d v).pkgs = s.pkgs := rfl
@[simp] theorem mem_setDie (d : DieId) (v : Die) : (s.setDie d v).mem = s.mem := rfl
@[simp] theorem words_setDie (d : DieId) (v : Die) : (s.setDie d v).words = s.words := rfl
@[simp] theorem badWords_setDie (d : DieId) (v : Die) : (s.setDie d v).badWords = s.badWords := rfl
@[simp] theorem busy_setDie (d : DieId) (v : Die) : (s.setDie d v).busy = s.busy := rfl
@[simp] theorem blocks_setDie (d : DieId) (v : Die) : (s.setDie d v).blocks = s.blocks := rfl
@[simp] theorem replicas_setDie (d : DieId) (v : Die) : (s.setDie d v).replicas = s.replicas := rfl
@[simp] theorem replOrder_setDie (d : DieId) (v : Die) : (s.setDie d v).replOrder = s.replOrder := rfl
@[simp] theorem resvs_setDie (d : DieId) (v : Die) : (s.setDie d v).resvs = s.resvs := rfl
@[simp] theorem hqWaiters_setDie (d : DieId) (v : Die) : (s.setDie d v).hqWaiters = s.hqWaiters := rfl
@[simp] theorem locks_setDie (d : DieId) (v : Die) : (s.setDie d v).locks = s.locks := rfl
@[simp] theorem ops_setDie (d : DieId) (v : Die) : (s.setDie d v).ops = s.ops := rfl
@[simp] theorem gangs_setDie (d : DieId) (v : Die) : (s.setDie d v).gangs = s.gangs := rfl
@[simp] theorem homes_setDie (d : DieId) (v : Die) : (s.setDie d v).homes = s.homes := rfl
@[simp] theorem hostBias_setDie (d : DieId) (v : Die) : (s.setDie d v).hostBias = s.hostBias := rfl
@[simp] theorem held_setDie (d : DieId) (v : Die) : (s.setDie d v).held = s.held := rfl
@[simp] theorem flows_setDie (d : DieId) (v : Die) : (s.setDie d v).flows = s.flows := rfl
@[simp] theorem cut_setDie (d : DieId) (v : Die) : (s.setDie d v).cut = s.cut := rfl
@[simp] theorem emitted_setDie (d : DieId) (v : Die) : (s.setDie d v).emitted = s.emitted := rfl

@[simp] theorem turn_updPkg (p : Nat) (f : Pkg → Pkg) : (s.updPkg p f).turn = s.turn := rfl
@[simp] theorem cur_updPkg (p : Nat) (f : Pkg → Pkg) : (s.updPkg p f).cur = s.cur := rfl
@[simp] theorem pool_updPkg (p : Nat) (f : Pkg → Pkg) : (s.updPkg p f).pool = s.pool := rfl
@[simp] theorem tick_updPkg (p : Nat) (f : Pkg → Pkg) : (s.updPkg p f).tick = s.tick := rfl
@[simp] theorem nextId_updPkg (p : Nat) (f : Pkg → Pkg) : (s.updPkg p f).nextId = s.nextId := rfl
@[simp] theorem harts_updPkg (p : Nat) (f : Pkg → Pkg) : (s.updPkg p f).harts = s.harts := rfl
@[simp] theorem cells_updPkg (p : Nat) (f : Pkg → Pkg) : (s.updPkg p f).cells = s.cells := rfl
@[simp] theorem dies_updPkg (p : Nat) (f : Pkg → Pkg) : (s.updPkg p f).dies = s.dies := rfl
@[simp] theorem mem_updPkg (p : Nat) (f : Pkg → Pkg) : (s.updPkg p f).mem = s.mem := rfl
@[simp] theorem words_updPkg (p : Nat) (f : Pkg → Pkg) : (s.updPkg p f).words = s.words := rfl
@[simp] theorem badWords_updPkg (p : Nat) (f : Pkg → Pkg) : (s.updPkg p f).badWords = s.badWords := rfl
@[simp] theorem busy_updPkg (p : Nat) (f : Pkg → Pkg) : (s.updPkg p f).busy = s.busy := rfl
@[simp] theorem blocks_updPkg (p : Nat) (f : Pkg → Pkg) : (s.updPkg p f).blocks = s.blocks := rfl
@[simp] theorem replicas_updPkg (p : Nat) (f : Pkg → Pkg) : (s.updPkg p f).replicas = s.replicas := rfl
@[simp] theorem replOrder_updPkg (p : Nat) (f : Pkg → Pkg) : (s.updPkg p f).replOrder = s.replOrder := rfl
@[simp] theorem resvs_updPkg (p : Nat) (f : Pkg → Pkg) : (s.updPkg p f).resvs = s.resvs := rfl
@[simp] theorem hqWaiters_updPkg (p : Nat) (f : Pkg → Pkg) : (s.updPkg p f).hqWaiters = s.hqWaiters := rfl
@[simp] theorem locks_updPkg (p : Nat) (f : Pkg → Pkg) : (s.updPkg p f).locks = s.locks := rfl
@[simp] theorem ops_updPkg (p : Nat) (f : Pkg → Pkg) : (s.updPkg p f).ops = s.ops := rfl
@[simp] theorem gangs_updPkg (p : Nat) (f : Pkg → Pkg) : (s.updPkg p f).gangs = s.gangs := rfl
@[simp] theorem homes_updPkg (p : Nat) (f : Pkg → Pkg) : (s.updPkg p f).homes = s.homes := rfl
@[simp] theorem hostBias_updPkg (p : Nat) (f : Pkg → Pkg) : (s.updPkg p f).hostBias = s.hostBias := rfl
@[simp] theorem held_updPkg (p : Nat) (f : Pkg → Pkg) : (s.updPkg p f).held = s.held := rfl
@[simp] theorem flows_updPkg (p : Nat) (f : Pkg → Pkg) : (s.updPkg p f).flows = s.flows := rfl
@[simp] theorem cut_updPkg (p : Nat) (f : Pkg → Pkg) : (s.updPkg p f).cut = s.cut := rfl
@[simp] theorem emitted_updPkg (p : Nat) (f : Pkg → Pkg) : (s.updPkg p f).emitted = s.emitted := rfl

@[simp] theorem turn_setBlock (b : Nat) (v : Block) : (s.setBlock b v).turn = s.turn := rfl
@[simp] theorem cur_setBlock (b : Nat) (v : Block) : (s.setBlock b v).cur = s.cur := rfl
@[simp] theorem pool_setBlock (b : Nat) (v : Block) : (s.setBlock b v).pool = s.pool := rfl
@[simp] theorem tick_setBlock (b : Nat) (v : Block) : (s.setBlock b v).tick = s.tick := rfl
@[simp] theorem nextId_setBlock (b : Nat) (v : Block) : (s.setBlock b v).nextId = s.nextId := rfl
@[simp] theorem harts_setBlock (b : Nat) (v : Block) : (s.setBlock b v).harts = s.harts := rfl
@[simp] theorem cells_setBlock (b : Nat) (v : Block) : (s.setBlock b v).cells = s.cells := rfl
@[simp] theorem dies_setBlock (b : Nat) (v : Block) : (s.setBlock b v).dies = s.dies := rfl
@[simp] theorem pkgs_setBlock (b : Nat) (v : Block) : (s.setBlock b v).pkgs = s.pkgs := rfl
@[simp] theorem mem_setBlock (b : Nat) (v : Block) : (s.setBlock b v).mem = s.mem := rfl
@[simp] theorem words_setBlock (b : Nat) (v : Block) : (s.setBlock b v).words = s.words := rfl
@[simp] theorem badWords_setBlock (b : Nat) (v : Block) : (s.setBlock b v).badWords = s.badWords := rfl
@[simp] theorem busy_setBlock (b : Nat) (v : Block) : (s.setBlock b v).busy = s.busy := rfl
@[simp] theorem replicas_setBlock (b : Nat) (v : Block) : (s.setBlock b v).replicas = s.replicas := rfl
@[simp] theorem replOrder_setBlock (b : Nat) (v : Block) : (s.setBlock b v).replOrder = s.replOrder := rfl
@[simp] theorem resvs_setBlock (b : Nat) (v : Block) : (s.setBlock b v).resvs = s.resvs := rfl
@[simp] theorem hqWaiters_setBlock (b : Nat) (v : Block) : (s.setBlock b v).hqWaiters = s.hqWaiters := rfl
@[simp] theorem locks_setBlock (b : Nat) (v : Block) : (s.setBlock b v).locks = s.locks := rfl
@[simp] theorem ops_setBlock (b : Nat) (v : Block) : (s.setBlock b v).ops = s.ops := rfl
@[simp] theorem gangs_setBlock (b : Nat) (v : Block) : (s.setBlock b v).gangs = s.gangs := rfl
@[simp] theorem homes_setBlock (b : Nat) (v : Block) : (s.setBlock b v).homes = s.homes := rfl
@[simp] theorem hostBias_setBlock (b : Nat) (v : Block) : (s.setBlock b v).hostBias = s.hostBias := rfl
@[simp] theorem held_setBlock (b : Nat) (v : Block) : (s.setBlock b v).held = s.held := rfl
@[simp] theorem flows_setBlock (b : Nat) (v : Block) : (s.setBlock b v).flows = s.flows := rfl
@[simp] theorem cut_setBlock (b : Nat) (v : Block) : (s.setBlock b v).cut = s.cut := rfl
@[simp] theorem emitted_setBlock (b : Nat) (v : Block) : (s.setBlock b v).emitted = s.emitted := rfl

@[simp] theorem turn_push (e : Event) : (s.push e).turn = s.turn := rfl
@[simp] theorem cur_push (e : Event) : (s.push e).cur = s.cur := rfl
@[simp] theorem tick_push (e : Event) : (s.push e).tick = s.tick := rfl
@[simp] theorem nextId_push (e : Event) : (s.push e).nextId = s.nextId := rfl
@[simp] theorem harts_push (e : Event) : (s.push e).harts = s.harts := rfl
@[simp] theorem cells_push (e : Event) : (s.push e).cells = s.cells := rfl
@[simp] theorem dies_push (e : Event) : (s.push e).dies = s.dies := rfl
@[simp] theorem pkgs_push (e : Event) : (s.push e).pkgs = s.pkgs := rfl
@[simp] theorem mem_push (e : Event) : (s.push e).mem = s.mem := rfl
@[simp] theorem words_push (e : Event) : (s.push e).words = s.words := rfl
@[simp] theorem badWords_push (e : Event) : (s.push e).badWords = s.badWords := rfl
@[simp] theorem busy_push (e : Event) : (s.push e).busy = s.busy := rfl
@[simp] theorem blocks_push (e : Event) : (s.push e).blocks = s.blocks := rfl
@[simp] theorem replicas_push (e : Event) : (s.push e).replicas = s.replicas := rfl
@[simp] theorem replOrder_push (e : Event) : (s.push e).replOrder = s.replOrder := rfl
@[simp] theorem resvs_push (e : Event) : (s.push e).resvs = s.resvs := rfl
@[simp] theorem hqWaiters_push (e : Event) : (s.push e).hqWaiters = s.hqWaiters := rfl
@[simp] theorem locks_push (e : Event) : (s.push e).locks = s.locks := rfl
@[simp] theorem ops_push (e : Event) : (s.push e).ops = s.ops := rfl
@[simp] theorem gangs_push (e : Event) : (s.push e).gangs = s.gangs := rfl
@[simp] theorem homes_push (e : Event) : (s.push e).homes = s.homes := rfl
@[simp] theorem hostBias_push (e : Event) : (s.push e).hostBias = s.hostBias := rfl
@[simp] theorem held_push (e : Event) : (s.push e).held = s.held := rfl
@[simp] theorem flows_push (e : Event) : (s.push e).flows = s.flows := rfl
@[simp] theorem cut_push (e : Event) : (s.push e).cut = s.cut := rfl
@[simp] theorem emitted_push (e : Event) : (s.push e).emitted = s.emitted := rfl

@[simp] theorem turn_pushAll (l : List Event) : (s.pushAll l).turn = s.turn := rfl
@[simp] theorem cur_pushAll (l : List Event) : (s.pushAll l).cur = s.cur := rfl
@[simp] theorem tick_pushAll (l : List Event) : (s.pushAll l).tick = s.tick := rfl
@[simp] theorem nextId_pushAll (l : List Event) : (s.pushAll l).nextId = s.nextId := rfl
@[simp] theorem harts_pushAll (l : List Event) : (s.pushAll l).harts = s.harts := rfl
@[simp] theorem cells_pushAll (l : List Event) : (s.pushAll l).cells = s.cells := rfl
@[simp] theorem dies_pushAll (l : List Event) : (s.pushAll l).dies = s.dies := rfl
@[simp] theorem pkgs_pushAll (l : List Event) : (s.pushAll l).pkgs = s.pkgs := rfl
@[simp] theorem mem_pushAll (l : List Event) : (s.pushAll l).mem = s.mem := rfl
@[simp] theorem words_pushAll (l : List Event) : (s.pushAll l).words = s.words := rfl
@[simp] theorem badWords_pushAll (l : List Event) : (s.pushAll l).badWords = s.badWords := rfl
@[simp] theorem busy_pushAll (l : List Event) : (s.pushAll l).busy = s.busy := rfl
@[simp] theorem blocks_pushAll (l : List Event) : (s.pushAll l).blocks = s.blocks := rfl
@[simp] theorem replicas_pushAll (l : List Event) : (s.pushAll l).replicas = s.replicas := rfl
@[simp] theorem replOrder_pushAll (l : List Event) : (s.pushAll l).replOrder = s.replOrder := rfl
@[simp] theorem resvs_pushAll (l : List Event) : (s.pushAll l).resvs = s.resvs := rfl
@[simp] theorem hqWaiters_pushAll (l : List Event) : (s.pushAll l).hqWaiters = s.hqWaiters := rfl
@[simp] theorem locks_pushAll (l : List Event) : (s.pushAll l).locks = s.locks := rfl
@[simp] theorem ops_pushAll (l : List Event) : (s.pushAll l).ops = s.ops := rfl
@[simp] theorem gangs_pushAll (l : List Event) : (s.pushAll l).gangs = s.gangs := rfl
@[simp] theorem homes_pushAll (l : List Event) : (s.pushAll l).homes = s.homes := rfl
@[simp] theorem hostBias_pushAll (l : List Event) : (s.pushAll l).hostBias = s.hostBias := rfl
@[simp] theorem held_pushAll (l : List Event) : (s.pushAll l).held = s.held := rfl
@[simp] theorem flows_pushAll (l : List Event) : (s.pushAll l).flows = s.flows := rfl
@[simp] theorem cut_pushAll (l : List Event) : (s.pushAll l).cut = s.cut := rfl
@[simp] theorem emitted_pushAll (l : List Event) : (s.pushAll l).emitted = s.emitted := rfl

@[simp] theorem turn_newOp (o : Op) : (s.newOp o).turn = s.turn := rfl
@[simp] theorem cur_newOp (o : Op) : (s.newOp o).cur = s.cur := rfl
@[simp] theorem pool_newOp (o : Op) : (s.newOp o).pool = s.pool := rfl
@[simp] theorem tick_newOp (o : Op) : (s.newOp o).tick = s.tick := rfl
@[simp] theorem harts_newOp (o : Op) : (s.newOp o).harts = s.harts := rfl
@[simp] theorem cells_newOp (o : Op) : (s.newOp o).cells = s.cells := rfl
@[simp] theorem dies_newOp (o : Op) : (s.newOp o).dies = s.dies := rfl
@[simp] theorem pkgs_newOp (o : Op) : (s.newOp o).pkgs = s.pkgs := rfl
@[simp] theorem mem_newOp (o : Op) : (s.newOp o).mem = s.mem := rfl
@[simp] theorem words_newOp (o : Op) : (s.newOp o).words = s.words := rfl
@[simp] theorem badWords_newOp (o : Op) : (s.newOp o).badWords = s.badWords := rfl
@[simp] theorem busy_newOp (o : Op) : (s.newOp o).busy = s.busy := rfl
@[simp] theorem blocks_newOp (o : Op) : (s.newOp o).blocks = s.blocks := rfl
@[simp] theorem replicas_newOp (o : Op) : (s.newOp o).replicas = s.replicas := rfl
@[simp] theorem replOrder_newOp (o : Op) : (s.newOp o).replOrder = s.replOrder := rfl
@[simp] theorem resvs_newOp (o : Op) : (s.newOp o).resvs = s.resvs := rfl
@[simp] theorem hqWaiters_newOp (o : Op) : (s.newOp o).hqWaiters = s.hqWaiters := rfl
@[simp] theorem locks_newOp (o : Op) : (s.newOp o).locks = s.locks := rfl
@[simp] theorem gangs_newOp (o : Op) : (s.newOp o).gangs = s.gangs := rfl
@[simp] theorem homes_newOp (o : Op) : (s.newOp o).homes = s.homes := rfl
@[simp] theorem hostBias_newOp (o : Op) : (s.newOp o).hostBias = s.hostBias := rfl
@[simp] theorem held_newOp (o : Op) : (s.newOp o).held = s.held := rfl
@[simp] theorem flows_newOp (o : Op) : (s.newOp o).flows = s.flows := rfl
@[simp] theorem cut_newOp (o : Op) : (s.newOp o).cut = s.cut := rfl
@[simp] theorem emitted_newOp (o : Op) : (s.newOp o).emitted = s.emitted := rfl

@[simp] theorem turn_setOp (id : Nat) (o : Op) : (s.setOp id o).turn = s.turn := rfl
@[simp] theorem cur_setOp (id : Nat) (o : Op) : (s.setOp id o).cur = s.cur := rfl
@[simp] theorem pool_setOp (id : Nat) (o : Op) : (s.setOp id o).pool = s.pool := rfl
@[simp] theorem tick_setOp (id : Nat) (o : Op) : (s.setOp id o).tick = s.tick := rfl
@[simp] theorem nextId_setOp (id : Nat) (o : Op) : (s.setOp id o).nextId = s.nextId := rfl
@[simp] theorem harts_setOp (id : Nat) (o : Op) : (s.setOp id o).harts = s.harts := rfl
@[simp] theorem cells_setOp (id : Nat) (o : Op) : (s.setOp id o).cells = s.cells := rfl
@[simp] theorem dies_setOp (id : Nat) (o : Op) : (s.setOp id o).dies = s.dies := rfl
@[simp] theorem pkgs_setOp (id : Nat) (o : Op) : (s.setOp id o).pkgs = s.pkgs := rfl
@[simp] theorem mem_setOp (id : Nat) (o : Op) : (s.setOp id o).mem = s.mem := rfl
@[simp] theorem words_setOp (id : Nat) (o : Op) : (s.setOp id o).words = s.words := rfl
@[simp] theorem badWords_setOp (id : Nat) (o : Op) : (s.setOp id o).badWords = s.badWords := rfl
@[simp] theorem busy_setOp (id : Nat) (o : Op) : (s.setOp id o).busy = s.busy := rfl
@[simp] theorem blocks_setOp (id : Nat) (o : Op) : (s.setOp id o).blocks = s.blocks := rfl
@[simp] theorem replicas_setOp (id : Nat) (o : Op) : (s.setOp id o).replicas = s.replicas := rfl
@[simp] theorem replOrder_setOp (id : Nat) (o : Op) : (s.setOp id o).replOrder = s.replOrder := rfl
@[simp] theorem resvs_setOp (id : Nat) (o : Op) : (s.setOp id o).resvs = s.resvs := rfl
@[simp] theorem hqWaiters_setOp (id : Nat) (o : Op) : (s.setOp id o).hqWaiters = s.hqWaiters := rfl
@[simp] theorem locks_setOp (id : Nat) (o : Op) : (s.setOp id o).locks = s.locks := rfl
@[simp] theorem gangs_setOp (id : Nat) (o : Op) : (s.setOp id o).gangs = s.gangs := rfl
@[simp] theorem homes_setOp (id : Nat) (o : Op) : (s.setOp id o).homes = s.homes := rfl
@[simp] theorem hostBias_setOp (id : Nat) (o : Op) : (s.setOp id o).hostBias = s.hostBias := rfl
@[simp] theorem held_setOp (id : Nat) (o : Op) : (s.setOp id o).held = s.held := rfl
@[simp] theorem flows_setOp (id : Nat) (o : Op) : (s.setOp id o).flows = s.flows := rfl
@[simp] theorem cut_setOp (id : Nat) (o : Op) : (s.setOp id o).cut = s.cut := rfl
@[simp] theorem emitted_setOp (id : Nat) (o : Op) : (s.setOp id o).emitted = s.emitted := rfl

@[simp] theorem turn_dropOp (id : Nat) : (s.dropOp id).turn = s.turn := rfl
@[simp] theorem cur_dropOp (id : Nat) : (s.dropOp id).cur = s.cur := rfl
@[simp] theorem pool_dropOp (id : Nat) : (s.dropOp id).pool = s.pool := rfl
@[simp] theorem tick_dropOp (id : Nat) : (s.dropOp id).tick = s.tick := rfl
@[simp] theorem nextId_dropOp (id : Nat) : (s.dropOp id).nextId = s.nextId := rfl
@[simp] theorem harts_dropOp (id : Nat) : (s.dropOp id).harts = s.harts := rfl
@[simp] theorem cells_dropOp (id : Nat) : (s.dropOp id).cells = s.cells := rfl
@[simp] theorem dies_dropOp (id : Nat) : (s.dropOp id).dies = s.dies := rfl
@[simp] theorem pkgs_dropOp (id : Nat) : (s.dropOp id).pkgs = s.pkgs := rfl
@[simp] theorem mem_dropOp (id : Nat) : (s.dropOp id).mem = s.mem := rfl
@[simp] theorem words_dropOp (id : Nat) : (s.dropOp id).words = s.words := rfl
@[simp] theorem badWords_dropOp (id : Nat) : (s.dropOp id).badWords = s.badWords := rfl
@[simp] theorem busy_dropOp (id : Nat) : (s.dropOp id).busy = s.busy := rfl
@[simp] theorem blocks_dropOp (id : Nat) : (s.dropOp id).blocks = s.blocks := rfl
@[simp] theorem replicas_dropOp (id : Nat) : (s.dropOp id).replicas = s.replicas := rfl
@[simp] theorem replOrder_dropOp (id : Nat) : (s.dropOp id).replOrder = s.replOrder := rfl
@[simp] theorem resvs_dropOp (id : Nat) : (s.dropOp id).resvs = s.resvs := rfl
@[simp] theorem hqWaiters_dropOp (id : Nat) : (s.dropOp id).hqWaiters = s.hqWaiters := rfl
@[simp] theorem locks_dropOp (id : Nat) : (s.dropOp id).locks = s.locks := rfl
@[simp] theorem gangs_dropOp (id : Nat) : (s.dropOp id).gangs = s.gangs := rfl
@[simp] theorem homes_dropOp (id : Nat) : (s.dropOp id).homes = s.homes := rfl
@[simp] theorem hostBias_dropOp (id : Nat) : (s.dropOp id).hostBias = s.hostBias := rfl
@[simp] theorem held_dropOp (id : Nat) : (s.dropOp id).held = s.held := rfl
@[simp] theorem flows_dropOp (id : Nat) : (s.dropOp id).flows = s.flows := rfl
@[simp] theorem cut_dropOp (id : Nat) : (s.dropOp id).cut = s.cut := rfl
@[simp] theorem emitted_dropOp (id : Nat) : (s.dropOp id).emitted = s.emitted := rfl

@[simp] theorem turn_emit (e : Emitted) : (s.emit e).turn = s.turn := rfl
@[simp] theorem cur_emit (e : Emitted) : (s.emit e).cur = s.cur := rfl
@[simp] theorem pool_emit (e : Emitted) : (s.emit e).pool = s.pool := rfl
@[simp] theorem tick_emit (e : Emitted) : (s.emit e).tick = s.tick := rfl
@[simp] theorem nextId_emit (e : Emitted) : (s.emit e).nextId = s.nextId := rfl
@[simp] theorem harts_emit (e : Emitted) : (s.emit e).harts = s.harts := rfl
@[simp] theorem cells_emit (e : Emitted) : (s.emit e).cells = s.cells := rfl
@[simp] theorem dies_emit (e : Emitted) : (s.emit e).dies = s.dies := rfl
@[simp] theorem pkgs_emit (e : Emitted) : (s.emit e).pkgs = s.pkgs := rfl
@[simp] theorem mem_emit (e : Emitted) : (s.emit e).mem = s.mem := rfl
@[simp] theorem words_emit (e : Emitted) : (s.emit e).words = s.words := rfl
@[simp] theorem badWords_emit (e : Emitted) : (s.emit e).badWords = s.badWords := rfl
@[simp] theorem busy_emit (e : Emitted) : (s.emit e).busy = s.busy := rfl
@[simp] theorem blocks_emit (e : Emitted) : (s.emit e).blocks = s.blocks := rfl
@[simp] theorem replicas_emit (e : Emitted) : (s.emit e).replicas = s.replicas := rfl
@[simp] theorem replOrder_emit (e : Emitted) : (s.emit e).replOrder = s.replOrder := rfl
@[simp] theorem resvs_emit (e : Emitted) : (s.emit e).resvs = s.resvs := rfl
@[simp] theorem hqWaiters_emit (e : Emitted) : (s.emit e).hqWaiters = s.hqWaiters := rfl
@[simp] theorem locks_emit (e : Emitted) : (s.emit e).locks = s.locks := rfl
@[simp] theorem ops_emit (e : Emitted) : (s.emit e).ops = s.ops := rfl
@[simp] theorem gangs_emit (e : Emitted) : (s.emit e).gangs = s.gangs := rfl
@[simp] theorem homes_emit (e : Emitted) : (s.emit e).homes = s.homes := rfl
@[simp] theorem hostBias_emit (e : Emitted) : (s.emit e).hostBias = s.hostBias := rfl
@[simp] theorem held_emit (e : Emitted) : (s.emit e).held = s.held := rfl
@[simp] theorem flows_emit (e : Emitted) : (s.emit e).flows = s.flows := rfl
@[simp] theorem cut_emit (e : Emitted) : (s.emit e).cut = s.cut := rfl

@[simp] theorem turn_dropResv (h : HartId) : (s.dropResv h).turn = s.turn := rfl
@[simp] theorem cur_dropResv (h : HartId) : (s.dropResv h).cur = s.cur := rfl
@[simp] theorem pool_dropResv (h : HartId) : (s.dropResv h).pool = s.pool := rfl
@[simp] theorem tick_dropResv (h : HartId) : (s.dropResv h).tick = s.tick := rfl
@[simp] theorem nextId_dropResv (h : HartId) : (s.dropResv h).nextId = s.nextId := rfl
@[simp] theorem harts_dropResv (h : HartId) : (s.dropResv h).harts = s.harts := rfl
@[simp] theorem cells_dropResv (h : HartId) : (s.dropResv h).cells = s.cells := rfl
@[simp] theorem dies_dropResv (h : HartId) : (s.dropResv h).dies = s.dies := rfl
@[simp] theorem pkgs_dropResv (h : HartId) : (s.dropResv h).pkgs = s.pkgs := rfl
@[simp] theorem mem_dropResv (h : HartId) : (s.dropResv h).mem = s.mem := rfl
@[simp] theorem words_dropResv (h : HartId) : (s.dropResv h).words = s.words := rfl
@[simp] theorem badWords_dropResv (h : HartId) : (s.dropResv h).badWords = s.badWords := rfl
@[simp] theorem busy_dropResv (h : HartId) : (s.dropResv h).busy = s.busy := rfl
@[simp] theorem blocks_dropResv (h : HartId) : (s.dropResv h).blocks = s.blocks := rfl
@[simp] theorem replicas_dropResv (h : HartId) : (s.dropResv h).replicas = s.replicas := rfl
@[simp] theorem replOrder_dropResv (h : HartId) : (s.dropResv h).replOrder = s.replOrder := rfl
@[simp] theorem hqWaiters_dropResv (h : HartId) : (s.dropResv h).hqWaiters = s.hqWaiters := rfl
@[simp] theorem locks_dropResv (h : HartId) : (s.dropResv h).locks = s.locks := rfl
@[simp] theorem ops_dropResv (h : HartId) : (s.dropResv h).ops = s.ops := rfl
@[simp] theorem gangs_dropResv (h : HartId) : (s.dropResv h).gangs = s.gangs := rfl
@[simp] theorem homes_dropResv (h : HartId) : (s.dropResv h).homes = s.homes := rfl
@[simp] theorem hostBias_dropResv (h : HartId) : (s.dropResv h).hostBias = s.hostBias := rfl
@[simp] theorem held_dropResv (h : HartId) : (s.dropResv h).held = s.held := rfl
@[simp] theorem flows_dropResv (h : HartId) : (s.dropResv h).flows = s.flows := rfl
@[simp] theorem cut_dropResv (h : HartId) : (s.dropResv h).cut = s.cut := rfl
@[simp] theorem emitted_dropResv (h : HartId) : (s.dropResv h).emitted = s.emitted := rfl

@[simp] theorem turn_loseResv (w : Nat) (k : Option HartId) : (s.loseResv w k).turn = s.turn := rfl
@[simp] theorem cur_loseResv (w : Nat) (k : Option HartId) : (s.loseResv w k).cur = s.cur := rfl
@[simp] theorem pool_loseResv (w : Nat) (k : Option HartId) : (s.loseResv w k).pool = s.pool := rfl
@[simp] theorem tick_loseResv (w : Nat) (k : Option HartId) : (s.loseResv w k).tick = s.tick := rfl
@[simp] theorem nextId_loseResv (w : Nat) (k : Option HartId) : (s.loseResv w k).nextId = s.nextId := rfl
@[simp] theorem harts_loseResv (w : Nat) (k : Option HartId) : (s.loseResv w k).harts = s.harts := rfl
@[simp] theorem cells_loseResv (w : Nat) (k : Option HartId) : (s.loseResv w k).cells = s.cells := rfl
@[simp] theorem dies_loseResv (w : Nat) (k : Option HartId) : (s.loseResv w k).dies = s.dies := rfl
@[simp] theorem pkgs_loseResv (w : Nat) (k : Option HartId) : (s.loseResv w k).pkgs = s.pkgs := rfl
@[simp] theorem mem_loseResv (w : Nat) (k : Option HartId) : (s.loseResv w k).mem = s.mem := rfl
@[simp] theorem words_loseResv (w : Nat) (k : Option HartId) : (s.loseResv w k).words = s.words := rfl
@[simp] theorem badWords_loseResv (w : Nat) (k : Option HartId) : (s.loseResv w k).badWords = s.badWords := rfl
@[simp] theorem busy_loseResv (w : Nat) (k : Option HartId) : (s.loseResv w k).busy = s.busy := rfl
@[simp] theorem blocks_loseResv (w : Nat) (k : Option HartId) : (s.loseResv w k).blocks = s.blocks := rfl
@[simp] theorem replicas_loseResv (w : Nat) (k : Option HartId) : (s.loseResv w k).replicas = s.replicas := rfl
@[simp] theorem replOrder_loseResv (w : Nat) (k : Option HartId) : (s.loseResv w k).replOrder = s.replOrder := rfl
@[simp] theorem hqWaiters_loseResv (w : Nat) (k : Option HartId) : (s.loseResv w k).hqWaiters = s.hqWaiters := rfl
@[simp] theorem locks_loseResv (w : Nat) (k : Option HartId) : (s.loseResv w k).locks = s.locks := rfl
@[simp] theorem ops_loseResv (w : Nat) (k : Option HartId) : (s.loseResv w k).ops = s.ops := rfl
@[simp] theorem gangs_loseResv (w : Nat) (k : Option HartId) : (s.loseResv w k).gangs = s.gangs := rfl
@[simp] theorem homes_loseResv (w : Nat) (k : Option HartId) : (s.loseResv w k).homes = s.homes := rfl
@[simp] theorem hostBias_loseResv (w : Nat) (k : Option HartId) : (s.loseResv w k).hostBias = s.hostBias := rfl
@[simp] theorem held_loseResv (w : Nat) (k : Option HartId) : (s.loseResv w k).held = s.held := rfl
@[simp] theorem flows_loseResv (w : Nat) (k : Option HartId) : (s.loseResv w k).flows = s.flows := rfl
@[simp] theorem cut_loseResv (w : Nat) (k : Option HartId) : (s.loseResv w k).cut = s.cut := rfl
@[simp] theorem emitted_loseResv (w : Nat) (k : Option HartId) : (s.loseResv w k).emitted = s.emitted := rfl

@[simp] theorem turn_updHart (h : HartId) (f : Hart → Hart) : (s.updHart h f).turn = s.turn := rfl
@[simp] theorem cur_updHart (h : HartId) (f : Hart → Hart) : (s.updHart h f).cur = s.cur := rfl
@[simp] theorem pool_updHart (h : HartId) (f : Hart → Hart) : (s.updHart h f).pool = s.pool := rfl
@[simp] theorem tick_updHart (h : HartId) (f : Hart → Hart) : (s.updHart h f).tick = s.tick := rfl
@[simp] theorem nextId_updHart (h : HartId) (f : Hart → Hart) : (s.updHart h f).nextId = s.nextId := rfl
@[simp] theorem cells_updHart (h : HartId) (f : Hart → Hart) : (s.updHart h f).cells = s.cells := rfl
@[simp] theorem dies_updHart (h : HartId) (f : Hart → Hart) : (s.updHart h f).dies = s.dies := rfl
@[simp] theorem pkgs_updHart (h : HartId) (f : Hart → Hart) : (s.updHart h f).pkgs = s.pkgs := rfl
@[simp] theorem mem_updHart (h : HartId) (f : Hart → Hart) : (s.updHart h f).mem = s.mem := rfl
@[simp] theorem words_updHart (h : HartId) (f : Hart → Hart) : (s.updHart h f).words = s.words := rfl
@[simp] theorem badWords_updHart (h : HartId) (f : Hart → Hart) : (s.updHart h f).badWords = s.badWords := rfl
@[simp] theorem busy_updHart (h : HartId) (f : Hart → Hart) : (s.updHart h f).busy = s.busy := rfl
@[simp] theorem blocks_updHart (h : HartId) (f : Hart → Hart) : (s.updHart h f).blocks = s.blocks := rfl
@[simp] theorem replicas_updHart (h : HartId) (f : Hart → Hart) : (s.updHart h f).replicas = s.replicas := rfl
@[simp] theorem replOrder_updHart (h : HartId) (f : Hart → Hart) : (s.updHart h f).replOrder = s.replOrder := rfl
@[simp] theorem resvs_updHart (h : HartId) (f : Hart → Hart) : (s.updHart h f).resvs = s.resvs := rfl
@[simp] theorem hqWaiters_updHart (h : HartId) (f : Hart → Hart) : (s.updHart h f).hqWaiters = s.hqWaiters := rfl
@[simp] theorem locks_updHart (h : HartId) (f : Hart → Hart) : (s.updHart h f).locks = s.locks := rfl
@[simp] theorem ops_updHart (h : HartId) (f : Hart → Hart) : (s.updHart h f).ops = s.ops := rfl
@[simp] theorem gangs_updHart (h : HartId) (f : Hart → Hart) : (s.updHart h f).gangs = s.gangs := rfl
@[simp] theorem homes_updHart (h : HartId) (f : Hart → Hart) : (s.updHart h f).homes = s.homes := rfl
@[simp] theorem hostBias_updHart (h : HartId) (f : Hart → Hart) : (s.updHart h f).hostBias = s.hostBias := rfl
@[simp] theorem held_updHart (h : HartId) (f : Hart → Hart) : (s.updHart h f).held = s.held := rfl
@[simp] theorem flows_updHart (h : HartId) (f : Hart → Hart) : (s.updHart h f).flows = s.flows := rfl
@[simp] theorem cut_updHart (h : HartId) (f : Hart → Hart) : (s.updHart h f).cut = s.cut := rfl
@[simp] theorem emitted_updHart (h : HartId) (f : Hart → Hart) : (s.updHart h f).emitted = s.emitted := rfl

@[simp] theorem turn_updMe (f : Hart → Hart) : (s.updMe f).turn = s.turn := rfl
@[simp] theorem cur_updMe (f : Hart → Hart) : (s.updMe f).cur = s.cur := rfl
@[simp] theorem pool_updMe (f : Hart → Hart) : (s.updMe f).pool = s.pool := rfl
@[simp] theorem tick_updMe (f : Hart → Hart) : (s.updMe f).tick = s.tick := rfl
@[simp] theorem nextId_updMe (f : Hart → Hart) : (s.updMe f).nextId = s.nextId := rfl
@[simp] theorem cells_updMe (f : Hart → Hart) : (s.updMe f).cells = s.cells := rfl
@[simp] theorem dies_updMe (f : Hart → Hart) : (s.updMe f).dies = s.dies := rfl
@[simp] theorem pkgs_updMe (f : Hart → Hart) : (s.updMe f).pkgs = s.pkgs := rfl
@[simp] theorem mem_updMe (f : Hart → Hart) : (s.updMe f).mem = s.mem := rfl
@[simp] theorem words_updMe (f : Hart → Hart) : (s.updMe f).words = s.words := rfl
@[simp] theorem badWords_updMe (f : Hart → Hart) : (s.updMe f).badWords = s.badWords := rfl
@[simp] theorem busy_updMe (f : Hart → Hart) : (s.updMe f).busy = s.busy := rfl
@[simp] theorem blocks_updMe (f : Hart → Hart) : (s.updMe f).blocks = s.blocks := rfl
@[simp] theorem replicas_updMe (f : Hart → Hart) : (s.updMe f).replicas = s.replicas := rfl
@[simp] theorem replOrder_updMe (f : Hart → Hart) : (s.updMe f).replOrder = s.replOrder := rfl
@[simp] theorem resvs_updMe (f : Hart → Hart) : (s.updMe f).resvs = s.resvs := rfl
@[simp] theorem hqWaiters_updMe (f : Hart → Hart) : (s.updMe f).hqWaiters = s.hqWaiters := rfl
@[simp] theorem locks_updMe (f : Hart → Hart) : (s.updMe f).locks = s.locks := rfl
@[simp] theorem ops_updMe (f : Hart → Hart) : (s.updMe f).ops = s.ops := rfl
@[simp] theorem gangs_updMe (f : Hart → Hart) : (s.updMe f).gangs = s.gangs := rfl
@[simp] theorem homes_updMe (f : Hart → Hart) : (s.updMe f).homes = s.homes := rfl
@[simp] theorem hostBias_updMe (f : Hart → Hart) : (s.updMe f).hostBias = s.hostBias := rfl
@[simp] theorem held_updMe (f : Hart → Hart) : (s.updMe f).held = s.held := rfl
@[simp] theorem flows_updMe (f : Hart → Hart) : (s.updMe f).flows = s.flows := rfl
@[simp] theorem cut_updMe (f : Hart → Hart) : (s.updMe f).cut = s.cut := rfl
@[simp] theorem emitted_updMe (f : Hart → Hart) : (s.updMe f).emitted = s.emitted := rfl

@[simp] theorem turn_updCell (c : CellId) (f : Cell → Cell) : (s.updCell c f).turn = s.turn := rfl
@[simp] theorem cur_updCell (c : CellId) (f : Cell → Cell) : (s.updCell c f).cur = s.cur := rfl
@[simp] theorem pool_updCell (c : CellId) (f : Cell → Cell) : (s.updCell c f).pool = s.pool := rfl
@[simp] theorem tick_updCell (c : CellId) (f : Cell → Cell) : (s.updCell c f).tick = s.tick := rfl
@[simp] theorem nextId_updCell (c : CellId) (f : Cell → Cell) : (s.updCell c f).nextId = s.nextId := rfl
@[simp] theorem harts_updCell (c : CellId) (f : Cell → Cell) : (s.updCell c f).harts = s.harts := rfl
@[simp] theorem dies_updCell (c : CellId) (f : Cell → Cell) : (s.updCell c f).dies = s.dies := rfl
@[simp] theorem pkgs_updCell (c : CellId) (f : Cell → Cell) : (s.updCell c f).pkgs = s.pkgs := rfl
@[simp] theorem mem_updCell (c : CellId) (f : Cell → Cell) : (s.updCell c f).mem = s.mem := rfl
@[simp] theorem words_updCell (c : CellId) (f : Cell → Cell) : (s.updCell c f).words = s.words := rfl
@[simp] theorem badWords_updCell (c : CellId) (f : Cell → Cell) : (s.updCell c f).badWords = s.badWords := rfl
@[simp] theorem busy_updCell (c : CellId) (f : Cell → Cell) : (s.updCell c f).busy = s.busy := rfl
@[simp] theorem blocks_updCell (c : CellId) (f : Cell → Cell) : (s.updCell c f).blocks = s.blocks := rfl
@[simp] theorem replicas_updCell (c : CellId) (f : Cell → Cell) : (s.updCell c f).replicas = s.replicas := rfl
@[simp] theorem replOrder_updCell (c : CellId) (f : Cell → Cell) : (s.updCell c f).replOrder = s.replOrder := rfl
@[simp] theorem resvs_updCell (c : CellId) (f : Cell → Cell) : (s.updCell c f).resvs = s.resvs := rfl
@[simp] theorem hqWaiters_updCell (c : CellId) (f : Cell → Cell) : (s.updCell c f).hqWaiters = s.hqWaiters := rfl
@[simp] theorem locks_updCell (c : CellId) (f : Cell → Cell) : (s.updCell c f).locks = s.locks := rfl
@[simp] theorem ops_updCell (c : CellId) (f : Cell → Cell) : (s.updCell c f).ops = s.ops := rfl
@[simp] theorem gangs_updCell (c : CellId) (f : Cell → Cell) : (s.updCell c f).gangs = s.gangs := rfl
@[simp] theorem homes_updCell (c : CellId) (f : Cell → Cell) : (s.updCell c f).homes = s.homes := rfl
@[simp] theorem hostBias_updCell (c : CellId) (f : Cell → Cell) : (s.updCell c f).hostBias = s.hostBias := rfl
@[simp] theorem held_updCell (c : CellId) (f : Cell → Cell) : (s.updCell c f).held = s.held := rfl
@[simp] theorem flows_updCell (c : CellId) (f : Cell → Cell) : (s.updCell c f).flows = s.flows := rfl
@[simp] theorem cut_updCell (c : CellId) (f : Cell → Cell) : (s.updCell c f).cut = s.cut := rfl
@[simp] theorem emitted_updCell (c : CellId) (f : Cell → Cell) : (s.updCell c f).emitted = s.emitted := rfl

@[simp] theorem turn_updCtx (c : CellId) (f : CellCtx → CellCtx) : (s.updCtx c f).turn = s.turn := rfl
@[simp] theorem cur_updCtx (c : CellId) (f : CellCtx → CellCtx) : (s.updCtx c f).cur = s.cur := rfl
@[simp] theorem pool_updCtx (c : CellId) (f : CellCtx → CellCtx) : (s.updCtx c f).pool = s.pool := rfl
@[simp] theorem tick_updCtx (c : CellId) (f : CellCtx → CellCtx) : (s.updCtx c f).tick = s.tick := rfl
@[simp] theorem nextId_updCtx (c : CellId) (f : CellCtx → CellCtx) : (s.updCtx c f).nextId = s.nextId := rfl
@[simp] theorem harts_updCtx (c : CellId) (f : CellCtx → CellCtx) : (s.updCtx c f).harts = s.harts := rfl
@[simp] theorem dies_updCtx (c : CellId) (f : CellCtx → CellCtx) : (s.updCtx c f).dies = s.dies := rfl
@[simp] theorem pkgs_updCtx (c : CellId) (f : CellCtx → CellCtx) : (s.updCtx c f).pkgs = s.pkgs := rfl
@[simp] theorem mem_updCtx (c : CellId) (f : CellCtx → CellCtx) : (s.updCtx c f).mem = s.mem := rfl
@[simp] theorem words_updCtx (c : CellId) (f : CellCtx → CellCtx) : (s.updCtx c f).words = s.words := rfl
@[simp] theorem badWords_updCtx (c : CellId) (f : CellCtx → CellCtx) : (s.updCtx c f).badWords = s.badWords := rfl
@[simp] theorem busy_updCtx (c : CellId) (f : CellCtx → CellCtx) : (s.updCtx c f).busy = s.busy := rfl
@[simp] theorem blocks_updCtx (c : CellId) (f : CellCtx → CellCtx) : (s.updCtx c f).blocks = s.blocks := rfl
@[simp] theorem replicas_updCtx (c : CellId) (f : CellCtx → CellCtx) : (s.updCtx c f).replicas = s.replicas := rfl
@[simp] theorem replOrder_updCtx (c : CellId) (f : CellCtx → CellCtx) : (s.updCtx c f).replOrder = s.replOrder := rfl
@[simp] theorem resvs_updCtx (c : CellId) (f : CellCtx → CellCtx) : (s.updCtx c f).resvs = s.resvs := rfl
@[simp] theorem hqWaiters_updCtx (c : CellId) (f : CellCtx → CellCtx) : (s.updCtx c f).hqWaiters = s.hqWaiters := rfl
@[simp] theorem locks_updCtx (c : CellId) (f : CellCtx → CellCtx) : (s.updCtx c f).locks = s.locks := rfl
@[simp] theorem ops_updCtx (c : CellId) (f : CellCtx → CellCtx) : (s.updCtx c f).ops = s.ops := rfl
@[simp] theorem gangs_updCtx (c : CellId) (f : CellCtx → CellCtx) : (s.updCtx c f).gangs = s.gangs := rfl
@[simp] theorem homes_updCtx (c : CellId) (f : CellCtx → CellCtx) : (s.updCtx c f).homes = s.homes := rfl
@[simp] theorem hostBias_updCtx (c : CellId) (f : CellCtx → CellCtx) : (s.updCtx c f).hostBias = s.hostBias := rfl
@[simp] theorem held_updCtx (c : CellId) (f : CellCtx → CellCtx) : (s.updCtx c f).held = s.held := rfl
@[simp] theorem flows_updCtx (c : CellId) (f : CellCtx → CellCtx) : (s.updCtx c f).flows = s.flows := rfl
@[simp] theorem cut_updCtx (c : CellId) (f : CellCtx → CellCtx) : (s.updCtx c f).cut = s.cut := rfl
@[simp] theorem emitted_updCtx (c : CellId) (f : CellCtx → CellCtx) : (s.updCtx c f).emitted = s.emitted := rfl

@[simp] theorem turn_updDie (d : DieId) (f : Die → Die) : (s.updDie d f).turn = s.turn := rfl
@[simp] theorem cur_updDie (d : DieId) (f : Die → Die) : (s.updDie d f).cur = s.cur := rfl
@[simp] theorem pool_updDie (d : DieId) (f : Die → Die) : (s.updDie d f).pool = s.pool := rfl
@[simp] theorem tick_updDie (d : DieId) (f : Die → Die) : (s.updDie d f).tick = s.tick := rfl
@[simp] theorem nextId_updDie (d : DieId) (f : Die → Die) : (s.updDie d f).nextId = s.nextId := rfl
@[simp] theorem harts_updDie (d : DieId) (f : Die → Die) : (s.updDie d f).harts = s.harts := rfl
@[simp] theorem cells_updDie (d : DieId) (f : Die → Die) : (s.updDie d f).cells = s.cells := rfl
@[simp] theorem pkgs_updDie (d : DieId) (f : Die → Die) : (s.updDie d f).pkgs = s.pkgs := rfl
@[simp] theorem mem_updDie (d : DieId) (f : Die → Die) : (s.updDie d f).mem = s.mem := rfl
@[simp] theorem words_updDie (d : DieId) (f : Die → Die) : (s.updDie d f).words = s.words := rfl
@[simp] theorem badWords_updDie (d : DieId) (f : Die → Die) : (s.updDie d f).badWords = s.badWords := rfl
@[simp] theorem busy_updDie (d : DieId) (f : Die → Die) : (s.updDie d f).busy = s.busy := rfl
@[simp] theorem blocks_updDie (d : DieId) (f : Die → Die) : (s.updDie d f).blocks = s.blocks := rfl
@[simp] theorem replicas_updDie (d : DieId) (f : Die → Die) : (s.updDie d f).replicas = s.replicas := rfl
@[simp] theorem replOrder_updDie (d : DieId) (f : Die → Die) : (s.updDie d f).replOrder = s.replOrder := rfl
@[simp] theorem resvs_updDie (d : DieId) (f : Die → Die) : (s.updDie d f).resvs = s.resvs := rfl
@[simp] theorem hqWaiters_updDie (d : DieId) (f : Die → Die) : (s.updDie d f).hqWaiters = s.hqWaiters := rfl
@[simp] theorem locks_updDie (d : DieId) (f : Die → Die) : (s.updDie d f).locks = s.locks := rfl
@[simp] theorem ops_updDie (d : DieId) (f : Die → Die) : (s.updDie d f).ops = s.ops := rfl
@[simp] theorem gangs_updDie (d : DieId) (f : Die → Die) : (s.updDie d f).gangs = s.gangs := rfl
@[simp] theorem homes_updDie (d : DieId) (f : Die → Die) : (s.updDie d f).homes = s.homes := rfl
@[simp] theorem hostBias_updDie (d : DieId) (f : Die → Die) : (s.updDie d f).hostBias = s.hostBias := rfl
@[simp] theorem held_updDie (d : DieId) (f : Die → Die) : (s.updDie d f).held = s.held := rfl
@[simp] theorem flows_updDie (d : DieId) (f : Die → Die) : (s.updDie d f).flows = s.flows := rfl
@[simp] theorem cut_updDie (d : DieId) (f : Die → Die) : (s.updDie d f).cut = s.cut := rfl
@[simp] theorem emitted_updDie (d : DieId) (f : Die → Die) : (s.updDie d f).emitted = s.emitted := rfl

@[simp] theorem turn_retireTo (pc : Word) : (s.retireTo pc).turn = s.turn := rfl
@[simp] theorem cur_retireTo (pc : Word) : (s.retireTo pc).cur = s.cur := rfl
@[simp] theorem pool_retireTo (pc : Word) : (s.retireTo pc).pool = s.pool := rfl
@[simp] theorem tick_retireTo (pc : Word) : (s.retireTo pc).tick = s.tick := rfl
@[simp] theorem nextId_retireTo (pc : Word) : (s.retireTo pc).nextId = s.nextId := rfl
@[simp] theorem cells_retireTo (pc : Word) : (s.retireTo pc).cells = s.cells := rfl
@[simp] theorem dies_retireTo (pc : Word) : (s.retireTo pc).dies = s.dies := rfl
@[simp] theorem pkgs_retireTo (pc : Word) : (s.retireTo pc).pkgs = s.pkgs := rfl
@[simp] theorem mem_retireTo (pc : Word) : (s.retireTo pc).mem = s.mem := rfl
@[simp] theorem words_retireTo (pc : Word) : (s.retireTo pc).words = s.words := rfl
@[simp] theorem badWords_retireTo (pc : Word) : (s.retireTo pc).badWords = s.badWords := rfl
@[simp] theorem busy_retireTo (pc : Word) : (s.retireTo pc).busy = s.busy := rfl
@[simp] theorem blocks_retireTo (pc : Word) : (s.retireTo pc).blocks = s.blocks := rfl
@[simp] theorem replicas_retireTo (pc : Word) : (s.retireTo pc).replicas = s.replicas := rfl
@[simp] theorem replOrder_retireTo (pc : Word) : (s.retireTo pc).replOrder = s.replOrder := rfl
@[simp] theorem resvs_retireTo (pc : Word) : (s.retireTo pc).resvs = s.resvs := rfl
@[simp] theorem hqWaiters_retireTo (pc : Word) : (s.retireTo pc).hqWaiters = s.hqWaiters := rfl
@[simp] theorem locks_retireTo (pc : Word) : (s.retireTo pc).locks = s.locks := rfl
@[simp] theorem ops_retireTo (pc : Word) : (s.retireTo pc).ops = s.ops := rfl
@[simp] theorem gangs_retireTo (pc : Word) : (s.retireTo pc).gangs = s.gangs := rfl
@[simp] theorem homes_retireTo (pc : Word) : (s.retireTo pc).homes = s.homes := rfl
@[simp] theorem hostBias_retireTo (pc : Word) : (s.retireTo pc).hostBias = s.hostBias := rfl
@[simp] theorem held_retireTo (pc : Word) : (s.retireTo pc).held = s.held := rfl
@[simp] theorem flows_retireTo (pc : Word) : (s.retireTo pc).flows = s.flows := rfl
@[simp] theorem cut_retireTo (pc : Word) : (s.retireTo pc).cut = s.cut := rfl
@[simp] theorem emitted_retireTo (pc : Word) : (s.retireTo pc).emitted = s.emitted := rfl

end

end State

end Sys2Proof.Machine
end

