-- ==== Sys2Proof/Laws/Memory.lean ====
section
/-!
SUPPORT. Every operation over memory keeps its canonical form, and reset has it (R4, log 6).
-/
namespace Sys2Proof.Machine

/-! ### The operations over memory -/

theorem Memory.wfFrom_of_le {lo lo' : Nat} {m : Memory} (h : m.wfFrom lo = true) (le : lo' ≤ lo) : m.wfFrom lo' = true := by
  cases m with
  | nil => rfl
  | cons p m =>
    simp only [Memory.wfFrom, Bool.and_eq_true, decide_eq_true_eq] at h ⊢
    exact ⟨⟨Nat.le_trans le h.1.1, h.1.2⟩, h.2⟩

theorem Memory.wfFrom_write {lo : Nat} {m : Memory} (h : m.wfFrom lo = true) {a : Nat} (le : lo ≤ a) (b : Byte) :
    (m.write a b).wfFrom lo = true := by
  induction m generalizing lo with
  | nil =>
    unfold Memory.write
    split <;> simp_all [Memory.wfFrom]
  | cons p m ih =>
    obtain ⟨a', b'⟩ := p
    have hp := h
    simp only [Memory.wfFrom, Bool.and_eq_true, decide_eq_true_eq] at hp
    unfold Memory.write
    split
    · split
      · exact h
      · simp [Memory.wfFrom, hp.1.2, hp.2, *] <;> omega
    · split
      · split
        · exact Memory.wfFrom_of_le hp.2 (by omega)
        · subst_vars
          simp [Memory.wfFrom, hp.2, *]
      · simp only [Memory.wfFrom, Bool.and_eq_true, decide_eq_true_eq]
        exact ⟨hp.1, ih hp.2 (by omega)⟩

theorem Memory.wf_write {m : Memory} (h : m.wf = true) (a : Nat) (b : Byte) : (m.write a b).wf = true :=
  Memory.wfFrom_write h (Nat.zero_le a) b

theorem Memory.wf_writeBytes {m : Memory} (h : m.wf = true) (a : Nat) (bs : List Byte) : (m.writeBytes a bs).wf = true := by
  induction bs generalizing m a with
  | nil => exact h
  | cons b bs ih => exact ih (Memory.wf_write h a b) (a + 1)

theorem Memory.wf_setWord {m : Memory} (h : m.wf = true) (a : Nat) (w : Word) : (m.setWord a w).wf = true :=
  Memory.wf_writeBytes h a _

theorem State.wf_reset : State.reset.mem.wf = true := rfl

/-! ### Operations that leave memory alone -/

namespace State

theorem mem_foldl {α : Type} (f : State → α → State) (h : ∀ s a, (f s a).mem = s.mem) (l : List α) (s : State) :
    (l.foldl f s).mem = s.mem := by
  induction l generalizing s with
  | nil => rfl
  | cons a l ih => rw [List.foldl_cons, ih, h]

@[simp] theorem mem_send (s : State) (src dst lane : Nat) (e : Event) : (s.send src dst lane e).mem = s.mem := by
  unfold send
  split
  · rfl
  · dsimp only
    repeat' split
    all_goals rfl

@[simp] theorem mem_updWho (s : State) (h : HartId) (part : Nat) (f : Hart → Hart) : (s.updWho h part f).mem = s.mem := by
  unfold updWho
  dsimp only
  repeat' split
  all_goals rfl

@[simp] theorem mem_wake (s : State) (h : HartId) (part : Nat) : (s.wake h part).mem = s.mem := mem_updWho ..

@[simp] theorem mem_answer (s : State) (h : HartId) (part : Nat) (a : Answer) : (s.answer h part a).mem = s.mem := mem_updWho ..

@[simp] theorem mem_updCtxFor (s : State) (c : CellId) (part : Nat) (f : CellCtx → CellCtx) : (s.updCtxFor c part f).mem = s.mem := by
  unfold updCtxFor
  dsimp only
  repeat' split
  all_goals rfl

@[simp] theorem mem_await (s : State) (k : WaitKind) (b : Bool) : (s.await k b).mem = s.mem := rfl
@[simp] theorem mem_retire (s : State) : s.retire.mem = s.mem := rfl

@[simp] theorem mem_setX (s : State) (r : Nat) (v : Word) : (s.setX r v).mem = s.mem := by
  unfold setX
  split <;> rfl

@[simp] theorem mem_finish (s : State) (r : Nat) (v : Word) : (s.finish r v).mem = s.mem := mem_setX ..

@[simp] theorem mem_trap (s : State) (c : Nat) (t : Word) : (s.trap c t).mem = s.mem := by
  unfold trap
  split <;> rfl

@[simp] theorem mem_pushOnce (s : State) (e : Event) : (s.pushOnce e).mem = s.mem := by
  unfold pushOnce
  split <;> rfl

@[simp] theorem mem_setWordState (s : State) (w : Nat) (st : WordState) : (s.setWordState w st).mem = s.mem := by
  unfold setWordState
  dsimp only
  split <;> rfl

@[simp] theorem mem_logDie (s : State) (d : DieId) (ue : Bool) (a addr synd x y : Nat) : (s.logDie d ue a addr synd x y).mem = s.mem := by
  unfold logDie
  repeat' split
  all_goals rfl

@[simp] theorem mem_sendAnswer (s : State) (id : Nat) (a : BlockAns) : (s.sendAnswer id a).mem = s.mem := by
  unfold sendAnswer
  dsimp only
  repeat' split
  all_goals simp

theorem mem_barWake (s : State) (i : Nat) (ms : List HartId) : (s.barWake i ms).mem = s.mem := by
  unfold barWake
  split
  · rfl
  · exact mem_foldl _ (fun t n => by split <;> simp) ..

theorem mem_barSettle (s : State) (i b : Nat) : (s.barSettle i b).mem = s.mem := by
  unfold barSettle
  split
  · rfl
  · split
    · rfl
    · dsimp only
      split
      · rfl
      · exact mem_barWake ..

theorem mem_goneFromBarriers (s : State) (i : Nat) (h : HartId) : (s.goneFromBarriers i h).mem = s.mem := by
  unfold goneFromBarriers
  split
  · rfl
  · exact (mem_foldl _ (fun t b => mem_barSettle t ..) ..).trans rfl

theorem mem_freeMutexes (s : State) (h : HartId) (part : Nat) : (s.freeMutexes h part).mem = s.mem :=
  mem_foldl _ (fun t n => by
    split
    · unfold freeMutex setMutex
      split <;> simp
    · rfl) ..

@[simp] theorem mem_leaveGang (s : State) (h : HartId) (part : Nat) : (s.leaveGang h part).mem = s.mem := by
  unfold leaveGang
  dsimp only
  split
  · rw [mem_goneFromBarriers, mem_freeMutexes]
  · exact mem_freeMutexes ..

@[simp] theorem mem_settleTracked (s : State) (h : HartId) (part : Nat) : (s.settleTracked h part).mem = s.mem := by
  unfold settleTracked
  split
  · rw [mem_updWho, mem_leaveGang]
  · rfl

@[simp] theorem mem_closeOp (s : State) (id : Nat) (h : HartId) (part : Nat) (a : Answer) : (s.closeOp id h part a).mem = s.mem :=
  (rfl : _ = (s.answer h part a).mem).trans (mem_answer ..)

@[simp] theorem mem_endStore (s : State) (id : Nat) (a : Access) (r : Bool) : (s.endStore id a r).mem = s.mem := by
  unfold endStore
  split
  · exact mem_settleTracked ..
  · exact mem_closeOp ..

@[simp] theorem mem_l1Drop (s : State) (c : CellId) (w : Nat) : (s.l1Drop c w).mem = s.mem := rfl

@[simp] theorem mem_multicast (s : State) (a : Access) (m v : Word) : (s.multicast a m v).mem = s.mem := rfl

@[simp] theorem mem_releaseList (s : State) (blk : Nat) (a : BlockAns) : (s.releaseList blk a).mem = s.mem := by
  unfold releaseList
  refine (mem_foldl _ (fun t e => ?_) ..).trans rfl
  simp [uncount]

end State

/-! ### The operations of the machine that write memory -/

namespace State

theorem wf_foldl {α : Type} {f : State → α → State} (h : ∀ s a, s.mem.wf = true → (f s a).mem.wf = true) (l : List α) {s : State}
    (w : s.mem.wf = true) : (l.foldl f s).mem.wf = true := by
  induction l generalizing s with
  | nil => exact w
  | cons a l ih => exact ih (h s a w)

theorem wf_homeWord {s : State} (h : s.mem.wf = true) (w : Nat) (v : Word) : (s.homeWord w v).mem.wf = true := Memory.wf_setWord h w v

@[simp] theorem mem_answerForwards (s : State) (c : CellId) (w : Nat) (v : Word) : (s.answerForwards c w v).mem = s.mem := by
  unfold answerForwards
  refine mem_foldl _ (fun t id => ?_) ..
  split
  · exact (mem_send ..).trans (mem_setOp ..)
  · rfl

/-- A word taken back from its owner, which has answered the forwards sent to it before. -/
theorem wf_takenBack {s : State} (h : s.mem.wf = true) (c : CellId) (w : Nat) (v : Word) :
    (((s.answerForwards c w v).homeWord w v).l1Drop c w).mem.wf = true :=
  wf_homeWord (s := s.answerForwards c w v) (by simpa using h) w v

theorem wf_evictWord {s : State} (h : s.mem.wf = true) (c : CellId) (w : Nat) : (s.evictWord c w).mem.wf = true := by
  unfold evictWord
  split
  · split
    · exact wf_takenBack h ..
    · exact h
  · exact h

theorem wf_l1Set {s : State} (h : s.mem.wf = true) (c : CellId) (w : Nat) (e : L1Word) : (s.l1Set c w e).mem.wf = true := by
  have r : (s.l1Room c w).mem.wf = true := by
    unfold l1Room
    split
    · exact h
    · refine wf_foldl (fun t _ wt => ?_) _ h
      unfold l1Out
      dsimp only
      split
      · exact wf_evictWord wt ..
      · exact wt
  exact r

theorem wf_recallOwn {s : State} (h : s.mem.wf = true) (c : CellId) (w : Nat) : (s.recallOwn c w).mem.wf = true := wf_evictWord h c w

theorem wf_writeOwned {s : State} (h : s.mem.wf = true) (c : CellId) (n : HartId) (w : Nat) (b m v : Word) :
    (s.writeOwned c n w b m v).mem.wf = true := wf_l1Set h c w ⟨true, mergeWord b m v⟩

theorem wf_recallWord {s : State} (h : s.mem.wf = true) (c : CellId) (w : Nat) : (s.recallWord c w).mem.wf = true := by
  unfold recallWord
  split
  · exact wf_takenBack h ..
  · exact h

theorem wf_recallAll {s : State} (h : s.mem.wf = true) (l : List (Nat × CellId)) : (l.foldl (fun t p => t.recallWord p.2 p.1) s).mem.wf = true :=
  wf_foldl (fun _ _ w => wf_recallWord w ..) l h

theorem wf_applyStore {s : State} (h : s.mem.wf = true) (w k : Nat) (mask v : Word) : (s.applyStore w k mask v).mem.wf = true := by
  unfold applyStore
  dsimp only
  split <;> exact Memory.wf_setWord h w _

theorem wf_atomicStore {s : State} (h : s.mem.wf = true) (a : Access) (v : Word) : (s.atomicStore a v).mem.wf = true := by
  unfold atomicStore
  dsimp only
  split
  · exact wf_applyStore h ..
  · exact wf_applyStore h ..

theorem wf_landGrants {s : State} (h : s.mem.wf = true) (hit : Nat → Bool) : (s.landGrants hit).mem.wf = true := by
  unfold landGrants
  refine wf_foldl (fun t o wt => ?_) _ h
  unfold landGrant
  dsimp only
  repeat' split
  all_goals first
    | exact wt
    | (rw [mem_endStore]; first | exact wf_writeOwned wt .. | exact wf_homeWord wt ..)

theorem wf_ownHome {s : State} (h : s.mem.wf = true) (c : CellId) (w : Nat) : (s.ownHome c w).mem.wf = true := by
  unfold ownHome
  repeat' split
  all_goals first | exact h | exact Memory.wf_setWord h w _

theorem wf_performAtomic {s : State} (h : s.mem.wf = true) (a : Access) (k : AtomicKind) (v old : Word) :
    (s.performAtomic a k v old).2.mem.wf = true := by
  have r : ((s.ownHome a.hart.cellId (wordOf a.qa)).l1Drop a.hart.cellId (wordOf a.qa)).mem.wf = true := wf_ownHome h ..
  unfold performAtomic
  dsimp only
  split
  · exact r
  · split
    · exact wf_atomicStore r ..
    · exact r
  · exact wf_atomicStore r ..

theorem wf_storeBytes {s : State} (h : s.mem.wf = true) (n : HartId) (part : Nat) (va : Word) (g : Seg) (bs : List Byte) :
    (s.storeBytes n part va g bs).mem.wf = true := by
  unfold storeBytes
  refine wf_foldl (fun t w wt => ?_) _ h
  have wu : ({ t with words := erase w t.words } : State).mem.wf = true := wt
  dsimp only
  split
  · exact (congrArg Memory.wf (mem_logDie ..)).trans wt
  · repeat' split
    all_goals simp only [mem_multicast, mem_loseResv]
    all_goals first | exact wf_applyStore wu .. | exact wf_applyStore wt ..

theorem wf_hostOwnStore {s : State} (h : s.mem.wf = true) (qa : Nat) (bs : List Byte) : (s.hostOwnStore qa bs).mem.wf = true := by
  unfold hostOwnStore
  refine wf_foldl (fun t w wt => ?_) _ h
  simp only [mem_loseResv]
  exact wf_applyStore wt ..

theorem wf_spillEntry {s : State} (h : s.mem.wf = true) (d : DieId) (p : Nat) (w : Word) : (s.spillEntry d p w).mem.wf = true :=
  Memory.wf_setWord h ..

theorem wf_holdTail {s : State} (h : s.mem.wf = true) (d : DieId) (q : QEntry) : (s.holdTail d q).mem.wf = true := by
  unfold holdTail
  split
  · split
    · exact h
    · refine wf_l1Set ?_ ..
      rw [mem_setWordState]
      exact wf_recallAll h _
  · exact h

theorem wf_physWrite {s : State} (h : s.mem.wf = true) (qa : Nat) (bs : List Byte) : (s.physWrite qa bs).mem.wf = true := by
  have keep : ∀ (l : List Nat) (f : Nat → Word) (m : Memory), m.wf = true → (l.foldl (fun m w => m.setWord w (f w)) m).wf = true := by
    intro l f
    induction l with
    | nil => exact fun _ wm => wm
    | cons w l ih => exact fun m wm => ih _ (Memory.wf_setWord wm ..)
  unfold physWrite
  refine (congrArg Memory.wf (mem_foldl _ (fun t w => mem_logDie ..) ..)).trans ?_
  exact keep _ _ _ (Memory.wf_writeBytes (wf_recallAll (wf_landGrants h _) _) qa bs)

theorem wf_hqSet {s : State} (h : s.mem.wf = true) (qa i : Nat) (v : Word) : (s.hqSet qa i v).mem.wf = true := Memory.wf_setWord h _ v

theorem wf_homeWrite {s : State} (h : s.mem.wf = true) (id blk gen : Nat) (d : BitVec 32768) (z : BitVec 512) :
    (s.homeWrite id blk gen d z).mem.wf = true := by
  unfold homeWrite
  dsimp only
  split
  · simpa only [mem_sendAnswer] using h
  · split
    · simpa only [mem_sendAnswer] using h
    · simp only [mem_sendAnswer, mem_releaseList, mem_setBlock]
      generalize dataBytes d = bs
      exact Memory.wf_writeBytes h blk bs

theorem wf_powerUp {s : State} (h : s.mem.wf = true) (pkg : Nat) : (s.powerUp pkg).mem.wf = true := by
  have e : ((diesOf pkg).foldl startRom s).mem = s.mem := mem_foldl startRom (fun t d => by unfold startRom; rfl) (diesOf pkg) s
  unfold powerUp
  simp only [mem_push, updPkg, e]
  generalize leaseAt pkg = a
  generalize a + 8 = b
  exact Memory.wf_setWord (Memory.wf_setWord h ..) ..

@[simp] theorem mem_fireCell (again : State → State) (s t : State) (c : CellId) (i : Nat × Nat × Nat) : (fireCell again s t c i).mem = t.mem := by
  unfold fireCell
  split <;> simp

@[simp] theorem mem_fireDie (again : State → State) (s t : State) (d : DieId) (i : Nat × Nat × Nat) : (fireDie again s t d i).mem = t.mem := by
  unfold fireDie
  split <;> simp

/-- Injections that fire, and the choice of the next turn, leave memory as the step has made it. -/
@[simp] theorem mem_goOn (s t : State) : (s.goOn t).mem = t.mem := by
  have d : ∀ (l : List (DieId × (Nat × Nat × Nat))) (u : State), (l.foldl (fun u p => fireDie acted s u p.1 p.2) u).mem = u.mem :=
    mem_foldl _ fun u p => mem_fireDie acted s u p.1 p.2
  have c : ∀ (l : List (CellId × (Nat × Nat × Nat))) (u : State), (l.foldl (fun u p => fireCell acted s u p.1 p.2) u).mem = u.mem :=
    mem_foldl _ fun u p => mem_fireCell acted s u p.1 p.2
  show (fired acted s t).mem = t.mem
  unfold fired
  dsimp only
  rw [d, c]

/-- A step before which no injection is armed fires none. -/
theorem fired_unarmed {s : State} (c : ∀ p ∈ s.cells, p.2.einj = none) (d : ∀ p ∈ s.dies, p.2.einj = none)
    (again : State → State) (t : State) : fired again s t = t := by
  have hc : (s.cells.filterMap fun p => p.2.einj.map fun i => (p.1, i)) = [] := by
    rw [List.filterMap_eq_nil_iff]
    exact fun p m => by rw [c p m]; rfl
  have hd : (s.dies.filterMap fun p => p.2.einj.map fun i => (p.1, i)) = [] := by
    rw [List.filterMap_eq_nil_iff]
    exact fun p m => by rw [d p m]; rfl
  unfold fired
  rw [hc, hd]
  rfl

theorem wf_withFetchWord {s : State} (h : s.mem.wf = true) (n w : Nat) : (s.withFetchWord n w).mem.wf = true := by
  unfold withFetchWord
  exact Memory.wf_writeBytes (by simpa using h) ..

end State

end Sys2Proof.Machine
end

