-- ==== Sys2Proof/Laws/Ops.lean ====
section
/-!
SUPPORT. What the shared operations do, said once in the terms of the claims: completing an instruction, taking a trap, the fields of
words, and the accesses to word space.
-/
namespace Sys2Proof.Machine

/-! ### Fields -/

theorem fld_bit (w : Word) (i : Nat) : fld w i 1 = if w.getLsbD i then 1 else 0 := by
  simp only [fld, bitsOf, BitVec.getLsbD, Nat.testBit, Nat.shiftRight_eq_div_pow, Nat.one_and_eq_mod_two, Nat.pow_one]
  rcases Nat.mod_two_eq_zero_or_one (w.toNat / 2 ^ i) with h | h <;> simp [h]

theorem sextTo_eq (n v : Nat) : sextTo n v = wordOfInt (sx n v) := by
  simp [sextTo, wordOfInt, BitVec.signExtend, BitVec.toInt_ofNat']

theorem imm12_eq (imm : Nat) : imm12 imm = wordOfInt (sx 12 imm) := sextTo_eq 12 imm

/-! ### Completing an instruction (R72) -/

theorem State.retire_eq (s : State) : s.retire = s.passed := rfl

theorem State.finish_eq (s : State) (rd : Nat) (v : Word) : s.finish rd v = s.wrote rd v := by
  unfold State.finish State.wrote State.completes State.retire State.retireTo State.setX Hart.writes
  split
  · rfl
  · simp [State.updMe, State.updHart, State.me]

/-! ### Traps (R62) -/

theorem trapStatus_eq (m : Word) (mode : Mode) : trapStatus m mode = entryStatus m mode := by
  rw [trapStatus, fld_bit]
  unfold entryStatus wbit
  cases mode <;> cases m.getLsbD 3 <;> decide

theorem Hart.trapped_eq (h : Hart) (c : Nat) (epc tval : Word) :
    h.trapped false c epc tval = h.enters (BitVec.ofNat 64 c) (epc &&& ~~~(3 : Word)) tval (h.csr.mtvec &&& ~~~(3 : Word)) := by
  simp [Hart.trapped, Hart.enters, trapStatus_eq, trapPc]

theorem State.trap_eq {s : State} (h : s.me.spec = none) (c : Nat) (t : Word) : s.trap c t = s.raises c t := by
  rw [State.trap, h, if_neg (by simp), State.trapEntry, State.updMe, State.updHart, Hart.trapped_eq]
  rfl

/-! ### Waiting (R70), hand-offs (R71) and releases (R122): each goes on, or waits -/

namespace State

theorem me_await (s : State) (k : WaitKind) (b : Bool) :
    (s.await k b).me = { s.me with wait := some ⟨k, b⟩, answer := none, stalled := !b, parked := b || k != .retry } := by simp [await]

theorem release_of {s : State} {scope grp : Nat} (h : s.released scope grp = true) (k : State → State) : s.release scope grp k = k s := by
  simp [release, h]

theorem release_waits {s : State} {scope grp : Nat} (h : s.released scope grp = false) (k : State → State) :
    s.release scope grp k = s.await .retry false := by simp [release, h]

theorem handOff_of {s : State} (h : s.handOffReady = true) (k : State → State) : s.handOff k = k s := by simp [handOff, h]

theorem handOff_waits {s : State} (h : s.handOffReady = false) (k : State → State) : s.handOff k = s.await .retry false := by simp [handOff, h]

/-! ### Contexts of the active partition (R278) -/

theorem updWho_of_plain {s : State} {h : HartId} {part : Nat} (p : s.Plain h part) (f : Hart → Hart) : s.updWho h part f = s.updHart h f := by
  have := p.gang
  simp [updWho, p.active, p.there, show ¬ 32 ≤ h.hart by omega]

theorem getWho_of_plain {s : State} {h : HartId} {part : Nat} (p : s.Plain h part) : s.getWho h part = s.getHart h := by
  have := p.gang
  simp [getWho, p.active, p.there, show ¬ 32 ≤ h.hart by omega]

theorem answer_of_plain {s : State} {h : HartId} {part : Nat} (p : s.Plain h part) (a : Answer) :
    s.answer h part a = s.updHart h fun v => { v with wait := none, answer := some a } := updWho_of_plain p _

theorem wake_of_plain {s : State} {h : HartId} {part : Nat} (p : s.Plain h part) :
    s.wake h part = s.updHart h fun v => { v with wait := none, stalled := true } := updWho_of_plain p _

/-! ### Sending (R301) -/

theorem send_within {s : State} {src dst : Nat} (h : src = dst) (lane : Nat) (e : Event) : s.send src dst lane e = s.push e := by simp [send, h]

/-! ### Translation (R271, R272): an access traps, waits for a walk, or goes on with an entry that allows it -/

theorem withPage_cases (s : State) (acc : Acc) (win : Nat) (va : Word) (k : State → TlbEntry → Nat → State) :
    (∃ c, s.withPage acc win va k = s.trap c va) ∨ (∃ t, s.translate win va = .wait t ∧ s.withPage acc win va k = t) ∨
    ∃ e t, s.translate win va = .ok e t ∧ leafAllows acc s.me.mode e = true ∧ physFault e (e.phys va.toNat) = false ∧
      s.withPage acc win va k = k t e (e.phys va.toNat) := by
  cases hw : inWindow va with
  | true => exact .inl ⟨27, by simp [withPage, hw]⟩
  | false =>
  cases h : s.translate win va with
  | fault => exact .inl ⟨acc.pageFault, by simp [withPage, h, hw]⟩
  | wait t => exact .inr (.inl ⟨t, rfl, by simp [withPage, h, hw]⟩)
  | ok e t =>
    cases ha : leafAllows acc s.me.mode e with
    | false => exact .inl ⟨acc.pageFault, by simp [withPage, h, hw, ha]⟩
    | true =>
      cases hp : physFault e (e.phys va.toNat) with
      | true => exact .inl ⟨acc.accessFault, by simp [withPage, h, hw, ha, hp]⟩
      | false => exact .inr (.inr ⟨e, t, rfl, ha, hp, by simp [withPage, h, hw, ha, hp]⟩)

theorem translate_hit {s : State} {win : Nat} {va : Word} {e : TlbEntry} (below : va.toNat < 2 ^ 57) (outside : inWindow va = false)
    (root : s.rootValid s.cur.dieId s.ctx.part win = true)
    (hit : tlbFind (s.getCell s.myCell).tlb s.ctx.part win va.toNat = some e) : s.translate win va = .ok e s := by
  have w : s.walked s.cur.dieId s.ctx.part win va = true := by rw [walked, decide_eq_true below, outside, root]; rfl
  simp only [translate, w, hit, Bool.not_true, Bool.false_eq_true, if_false]

theorem withPage_hit {s : State} {acc : Acc} {va : Word} {size : Nat} {e : TlbEntry} (h : s.Reaches acc va size e)
    (k : State → TlbEntry → Nat → State) : s.withPage acc s.cur.pkg va k = k s e (e.phys va.toNat) := by
  simp [withPage, h.outside, translate_hit h.below h.outside h.root h.hit, h.allows, h.there]

theorem loadVA_hit {s : State} {va : Word} {size : Nat} {e : TlbEntry} (h : s.Reaches .load va size e) (n : s.me.answer = none)
    (k : State → Word → State) :
    s.loadVA va size k =
      s.loadWord (s.accessOf va size e) fun t v => k t (BitVec.ofNat 64 (Access.bytesOf (s.accessOf va size e) v)) := by
  simp [loadVA, h.aligned, h.outside, n, withPage_hit h, h.words, accessOf]

theorem storeVA_hit {s : State} {va : Word} {size : Nat} {e : TlbEntry} (h : s.Reaches .store va size e) (n : s.me.answer = none) (v : Word)
    (k : State → State) : s.storeVA va size v k = s.storeWord (s.accessOf va size e) v k := by
  simp [storeVA, h.aligned, h.outside, n, withPage_hit h, h.words, accessOf]

theorem loadVA_answered {s : State} {va v : Word} {size : Nat} (al : va.toNat % size = 0) (out : inWindow va = false)
    (h : s.me.answer = some (.word v)) (k : State → Word → State) :
    s.loadVA va size k = k s.clearAnswer (BitVec.ofNat 64 (bytesFor va size v)) := by simp [loadVA, al, out, h]

theorem storeVA_answered {s : State} {va : Word} {size : Nat} (al : va.toNat % size = 0) (out : inWindow va = false)
    (h : s.me.answer = some .done) (v : Word) (k : State → State) : s.storeVA va size v k = k s.clearAnswer := by
  simp [storeVA, al, out, h]

theorem loadWord_held {s : State} {a : Access} {e : L1Word} (p : s.ownPending s.who (wordOf a.qa) = false)
    (l : s.l1Get s.myCell (wordOf a.qa) = some e) (k : State → Word → State) : s.loadWord a k = k s e.data := by
  simp [loadWord, p, l]

end State

/-! ### Results of the named standards have the lengths that R306 to R312 give them (log 11) -/

@[simp] theorem exactly_length (n : Nat) (l : List Byte) : (exactly n l).length = n := by simp [exactly]

@[simp] theorem shake256_length (n : Nat) (l : List Byte) : (shake256 n l).length = n := exactly_length ..

@[simp] theorem ed448Sign_length (p : Nat) (l : List Byte) : (ed448Sign p l).length = 114 := exactly_length ..

@[simp] theorem idPub_length (p : Nat) : (idPub p).length = 57 := exactly_length ..

@[simp] theorem fusedDigest_length (d : DieId) : (fusedDigest d).length = 32 := exactly_length ..

/-! ### Ways to another package (R303) -/

namespace State

theorem unreachable_of_cut {s : State} {a b : Nat} (h : s.isCut a b = true) : s.unreachable a b = true := by simp [unreachable, h]

theorem send_near (s : State) (a lane : Nat) (e : Event) : s.send a a lane e = s.push e := by simp [send]

end State

/-! ### Events (log 2): the step of an event's turn is the meaning of the event's row -/

theorem perform_eq {e : Event} {i : Instr} (h : e.Names i) (s : State) : perform e s = exec i s := by
  cases e <;> · cases h; rfl

end Sys2Proof.Machine
end

