-- ==== Sys2Proof/Laws/PerInstr.lean ====
section
/-!
SUPPORT. One fact per constructor of Instr: the word of a well-formed instruction is one 32-bit word, with bits [1:0] 0b11 and bits
[4:2] not 0b111 (R44); a step that has no word has none.
-/
namespace Sys2Proof.Laws.WordForm

/-- The word of an instruction has the form of R44. -/
def Statement (i : Instr) : Prop := ∀ w, i.wf = true → encode i = some w → w < 2 ^ 32 ∧ w % 4 = 3 ∧ w / 4 % 8 ≠ 7

theorem lui (rd imm : Nat) : Statement (.lui rd imm) := fun _ h e => by
  cases e; replace h := of_decide_eq_true h; simp only [wordU]; omega

theorem auipc (rd imm : Nat) : Statement (.auipc rd imm) := fun _ h e => by
  cases e; replace h := of_decide_eq_true h; simp only [wordU]; omega

theorem jal (rd off : Nat) : Statement (.jal rd off) := fun _ h e => by
  cases e; replace h := of_decide_eq_true h; simp only [wordU, jImm]; omega

theorem jalr (rd rs1 imm : Nat) : Statement (.jalr rd rs1 imm) := fun _ h e => by
  cases e; replace h := of_decide_eq_true h; simp only [wordI]; omega

theorem beq (rs1 rs2 off : Nat) : Statement (.beq rs1 rs2 off) := fun _ h e => by
  cases e; replace h := of_decide_eq_true h; simp only [wordR, bHigh, bLow]; omega

theorem bne (rs1 rs2 off : Nat) : Statement (.bne rs1 rs2 off) := fun _ h e => by
  cases e; replace h := of_decide_eq_true h; simp only [wordR, bHigh, bLow]; omega

theorem blt (rs1 rs2 off : Nat) : Statement (.blt rs1 rs2 off) := fun _ h e => by
  cases e; replace h := of_decide_eq_true h; simp only [wordR, bHigh, bLow]; omega

theorem bge (rs1 rs2 off : Nat) : Statement (.bge rs1 rs2 off) := fun _ h e => by
  cases e; replace h := of_decide_eq_true h; simp only [wordR, bHigh, bLow]; omega

theorem bltu (rs1 rs2 off : Nat) : Statement (.bltu rs1 rs2 off) := fun _ h e => by
  cases e; replace h := of_decide_eq_true h; simp only [wordR, bHigh, bLow]; omega

theorem bgeu (rs1 rs2 off : Nat) : Statement (.bgeu rs1 rs2 off) := fun _ h e => by
  cases e; replace h := of_decide_eq_true h; simp only [wordR, bHigh, bLow]; omega

theorem lb (rd rs1 imm : Nat) : Statement (.lb rd rs1 imm) := fun _ h e => by
  cases e; replace h := of_decide_eq_true h; simp only [wordI]; omega

theorem lh (rd rs1 imm : Nat) : Statement (.lh rd rs1 imm) := fun _ h e => by
  cases e; replace h := of_decide_eq_true h; simp only [wordI]; omega

theorem lw (rd rs1 imm : Nat) : Statement (.lw rd rs1 imm) := fun _ h e => by
  cases e; replace h := of_decide_eq_true h; simp only [wordI]; omega

theorem ld (rd rs1 imm : Nat) : Statement (.ld rd rs1 imm) := fun _ h e => by
  cases e; replace h := of_decide_eq_true h; simp only [wordI]; omega

theorem lbu (rd rs1 imm : Nat) : Statement (.lbu rd rs1 imm) := fun _ h e => by
  cases e; replace h := of_decide_eq_true h; simp only [wordI]; omega

theorem lhu (rd rs1 imm : Nat) : Statement (.lhu rd rs1 imm) := fun _ h e => by
  cases e; replace h := of_decide_eq_true h; simp only [wordI]; omega

theorem lwu (rd rs1 imm : Nat) : Statement (.lwu rd rs1 imm) := fun _ h e => by
  cases e; replace h := of_decide_eq_true h; simp only [wordI]; omega

theorem sb (rs1 rs2 imm : Nat) : Statement (.sb rs1 rs2 imm) := fun _ h e => by
  cases e; replace h := of_decide_eq_true h; simp only [wordR]; omega

theorem sh (rs1 rs2 imm : Nat) : Statement (.sh rs1 rs2 imm) := fun _ h e => by
  cases e; replace h := of_decide_eq_true h; simp only [wordR]; omega

theorem sw (rs1 rs2 imm : Nat) : Statement (.sw rs1 rs2 imm) := fun _ h e => by
  cases e; replace h := of_decide_eq_true h; simp only [wordR]; omega

theorem sd (rs1 rs2 imm : Nat) : Statement (.sd rs1 rs2 imm) := fun _ h e => by
  cases e; replace h := of_decide_eq_true h; simp only [wordR]; omega

theorem addi (rd rs1 imm : Nat) : Statement (.addi rd rs1 imm) := fun _ h e => by
  cases e; replace h := of_decide_eq_true h; simp only [wordI]; omega

theorem slti (rd rs1 imm : Nat) : Statement (.slti rd rs1 imm) := fun _ h e => by
  cases e; replace h := of_decide_eq_true h; simp only [wordI]; omega

theorem sltiu (rd rs1 imm : Nat) : Statement (.sltiu rd rs1 imm) := fun _ h e => by
  cases e; replace h := of_decide_eq_true h; simp only [wordI]; omega

theorem xori (rd rs1 imm : Nat) : Statement (.xori rd rs1 imm) := fun _ h e => by
  cases e; replace h := of_decide_eq_true h; simp only [wordI]; omega

theorem ori (rd rs1 imm : Nat) : Statement (.ori rd rs1 imm) := fun _ h e => by
  cases e; replace h := of_decide_eq_true h; simp only [wordI]; omega

theorem andi (rd rs1 imm : Nat) : Statement (.andi rd rs1 imm) := fun _ h e => by
  cases e; replace h := of_decide_eq_true h; simp only [wordI]; omega

theorem slli (rd rs1 amt : Nat) : Statement (.slli rd rs1 amt) := fun _ h e => by
  cases e; replace h := of_decide_eq_true h; simp only [wordI]; omega

theorem srli (rd rs1 amt : Nat) : Statement (.srli rd rs1 amt) := fun _ h e => by
  cases e; replace h := of_decide_eq_true h; simp only [wordI]; omega

theorem srai (rd rs1 amt : Nat) : Statement (.srai rd rs1 amt) := fun _ h e => by
  cases e; replace h := of_decide_eq_true h; simp only [wordI]; omega

theorem add (rd rs1 rs2 : Nat) : Statement (.add rd rs1 rs2) := fun _ h e => by
  cases e; replace h := of_decide_eq_true h; simp only [wordR]; omega

theorem sub (rd rs1 rs2 : Nat) : Statement (.sub rd rs1 rs2) := fun _ h e => by
  cases e; replace h := of_decide_eq_true h; simp only [wordR]; omega

theorem sll (rd rs1 rs2 : Nat) : Statement (.sll rd rs1 rs2) := fun _ h e => by
  cases e; replace h := of_decide_eq_true h; simp only [wordR]; omega

theorem slt (rd rs1 rs2 : Nat) : Statement (.slt rd rs1 rs2) := fun _ h e => by
  cases e; replace h := of_decide_eq_true h; simp only [wordR]; omega

theorem sltu (rd rs1 rs2 : Nat) : Statement (.sltu rd rs1 rs2) := fun _ h e => by
  cases e; replace h := of_decide_eq_true h; simp only [wordR]; omega

theorem xor (rd rs1 rs2 : Nat) : Statement (.xor rd rs1 rs2) := fun _ h e => by
  cases e; replace h := of_decide_eq_true h; simp only [wordR]; omega

theorem srl (rd rs1 rs2 : Nat) : Statement (.srl rd rs1 rs2) := fun _ h e => by
  cases e; replace h := of_decide_eq_true h; simp only [wordR]; omega

theorem sra (rd rs1 rs2 : Nat) : Statement (.sra rd rs1 rs2) := fun _ h e => by
  cases e; replace h := of_decide_eq_true h; simp only [wordR]; omega

theorem or (rd rs1 rs2 : Nat) : Statement (.or rd rs1 rs2) := fun _ h e => by
  cases e; replace h := of_decide_eq_true h; simp only [wordR]; omega

theorem and (rd rs1 rs2 : Nat) : Statement (.and rd rs1 rs2) := fun _ h e => by
  cases e; replace h := of_decide_eq_true h; simp only [wordR]; omega

theorem fence (fm pred succ rs1 rd : Nat) : Statement (.fence fm pred succ rs1 rd) := fun _ h e => by
  cases e; replace h := of_decide_eq_true h; simp only [wordI]; omega

theorem fenceI (imm rs1 rd : Nat) : Statement (.fenceI imm rs1 rd) := fun _ h e => by
  cases e; replace h := of_decide_eq_true h; simp only [wordI]; omega

theorem ecall : Statement (.ecall) := fun _ _ e => by cases e; decide

theorem ebreak : Statement (.ebreak) := fun _ _ e => by cases e; decide

theorem addiw (rd rs1 imm : Nat) : Statement (.addiw rd rs1 imm) := fun _ h e => by
  cases e; replace h := of_decide_eq_true h; simp only [wordI]; omega

theorem slliw (rd rs1 amt : Nat) : Statement (.slliw rd rs1 amt) := fun _ h e => by
  cases e; replace h := of_decide_eq_true h; simp only [wordI]; omega

theorem srliw (rd rs1 amt : Nat) : Statement (.srliw rd rs1 amt) := fun _ h e => by
  cases e; replace h := of_decide_eq_true h; simp only [wordI]; omega

theorem sraiw (rd rs1 amt : Nat) : Statement (.sraiw rd rs1 amt) := fun _ h e => by
  cases e; replace h := of_decide_eq_true h; simp only [wordI]; omega

theorem addw (rd rs1 rs2 : Nat) : Statement (.addw rd rs1 rs2) := fun _ h e => by
  cases e; replace h := of_decide_eq_true h; simp only [wordR]; omega

theorem subw (rd rs1 rs2 : Nat) : Statement (.subw rd rs1 rs2) := fun _ h e => by
  cases e; replace h := of_decide_eq_true h; simp only [wordR]; omega

theorem sllw (rd rs1 rs2 : Nat) : Statement (.sllw rd rs1 rs2) := fun _ h e => by
  cases e; replace h := of_decide_eq_true h; simp only [wordR]; omega

theorem srlw (rd rs1 rs2 : Nat) : Statement (.srlw rd rs1 rs2) := fun _ h e => by
  cases e; replace h := of_decide_eq_true h; simp only [wordR]; omega

theorem sraw (rd rs1 rs2 : Nat) : Statement (.sraw rd rs1 rs2) := fun _ h e => by
  cases e; replace h := of_decide_eq_true h; simp only [wordR]; omega

theorem mul (rd rs1 rs2 : Nat) : Statement (.mul rd rs1 rs2) := fun _ h e => by
  cases e; replace h := of_decide_eq_true h; simp only [wordR]; omega

theorem mulh (rd rs1 rs2 : Nat) : Statement (.mulh rd rs1 rs2) := fun _ h e => by
  cases e; replace h := of_decide_eq_true h; simp only [wordR]; omega

theorem mulhsu (rd rs1 rs2 : Nat) : Statement (.mulhsu rd rs1 rs2) := fun _ h e => by
  cases e; replace h := of_decide_eq_true h; simp only [wordR]; omega

theorem mulhu (rd rs1 rs2 : Nat) : Statement (.mulhu rd rs1 rs2) := fun _ h e => by
  cases e; replace h := of_decide_eq_true h; simp only [wordR]; omega

theorem div (rd rs1 rs2 : Nat) : Statement (.div rd rs1 rs2) := fun _ h e => by
  cases e; replace h := of_decide_eq_true h; simp only [wordR]; omega

theorem divu (rd rs1 rs2 : Nat) : Statement (.divu rd rs1 rs2) := fun _ h e => by
  cases e; replace h := of_decide_eq_true h; simp only [wordR]; omega

theorem rem (rd rs1 rs2 : Nat) : Statement (.rem rd rs1 rs2) := fun _ h e => by
  cases e; replace h := of_decide_eq_true h; simp only [wordR]; omega

theorem remu (rd rs1 rs2 : Nat) : Statement (.remu rd rs1 rs2) := fun _ h e => by
  cases e; replace h := of_decide_eq_true h; simp only [wordR]; omega

theorem mulw (rd rs1 rs2 : Nat) : Statement (.mulw rd rs1 rs2) := fun _ h e => by
  cases e; replace h := of_decide_eq_true h; simp only [wordR]; omega

theorem divw (rd rs1 rs2 : Nat) : Statement (.divw rd rs1 rs2) := fun _ h e => by
  cases e; replace h := of_decide_eq_true h; simp only [wordR]; omega

theorem divuw (rd rs1 rs2 : Nat) : Statement (.divuw rd rs1 rs2) := fun _ h e => by
  cases e; replace h := of_decide_eq_true h; simp only [wordR]; omega

theorem remw (rd rs1 rs2 : Nat) : Statement (.remw rd rs1 rs2) := fun _ h e => by
  cases e; replace h := of_decide_eq_true h; simp only [wordR]; omega

theorem remuw (rd rs1 rs2 : Nat) : Statement (.remuw rd rs1 rs2) := fun _ h e => by
  cases e; replace h := of_decide_eq_true h; simp only [wordR]; omega

theorem lrW (aq rl rd rs1 : Nat) : Statement (.lrW aq rl rd rs1) := fun _ h e => by
  cases e; replace h := of_decide_eq_true h; simp only [wordR]; omega

theorem lrD (aq rl rd rs1 : Nat) : Statement (.lrD aq rl rd rs1) := fun _ h e => by
  cases e; replace h := of_decide_eq_true h; simp only [wordR]; omega

theorem scW (aq rl rd rs1 rs2 : Nat) : Statement (.scW aq rl rd rs1 rs2) := fun _ h e => by
  cases e; replace h := of_decide_eq_true h; simp only [wordR]; omega

theorem scD (aq rl rd rs1 rs2 : Nat) : Statement (.scD aq rl rd rs1 rs2) := fun _ h e => by
  cases e; replace h := of_decide_eq_true h; simp only [wordR]; omega

theorem amoswapW (aq rl rd rs1 rs2 : Nat) : Statement (.amoswapW aq rl rd rs1 rs2) := fun _ h e => by
  cases e; replace h := of_decide_eq_true h; simp only [wordR]; omega

theorem amoswapD (aq rl rd rs1 rs2 : Nat) : Statement (.amoswapD aq rl rd rs1 rs2) := fun _ h e => by
  cases e; replace h := of_decide_eq_true h; simp only [wordR]; omega

theorem amoaddW (aq rl rd rs1 rs2 : Nat) : Statement (.amoaddW aq rl rd rs1 rs2) := fun _ h e => by
  cases e; replace h := of_decide_eq_true h; simp only [wordR]; omega

theorem amoaddD (aq rl rd rs1 rs2 : Nat) : Statement (.amoaddD aq rl rd rs1 rs2) := fun _ h e => by
  cases e; replace h := of_decide_eq_true h; simp only [wordR]; omega

theorem amoxorW (aq rl rd rs1 rs2 : Nat) : Statement (.amoxorW aq rl rd rs1 rs2) := fun _ h e => by
  cases e; replace h := of_decide_eq_true h; simp only [wordR]; omega

theorem amoxorD (aq rl rd rs1 rs2 : Nat) : Statement (.amoxorD aq rl rd rs1 rs2) := fun _ h e => by
  cases e; replace h := of_decide_eq_true h; simp only [wordR]; omega

theorem amoandW (aq rl rd rs1 rs2 : Nat) : Statement (.amoandW aq rl rd rs1 rs2) := fun _ h e => by
  cases e; replace h := of_decide_eq_true h; simp only [wordR]; omega

theorem amoandD (aq rl rd rs1 rs2 : Nat) : Statement (.amoandD aq rl rd rs1 rs2) := fun _ h e => by
  cases e; replace h := of_decide_eq_true h; simp only [wordR]; omega

theorem amoorW (aq rl rd rs1 rs2 : Nat) : Statement (.amoorW aq rl rd rs1 rs2) := fun _ h e => by
  cases e; replace h := of_decide_eq_true h; simp only [wordR]; omega

theorem amoorD (aq rl rd rs1 rs2 : Nat) : Statement (.amoorD aq rl rd rs1 rs2) := fun _ h e => by
  cases e; replace h := of_decide_eq_true h; simp only [wordR]; omega

theorem amominW (aq rl rd rs1 rs2 : Nat) : Statement (.amominW aq rl rd rs1 rs2) := fun _ h e => by
  cases e; replace h := of_decide_eq_true h; simp only [wordR]; omega

theorem amominD (aq rl rd rs1 rs2 : Nat) : Statement (.amominD aq rl rd rs1 rs2) := fun _ h e => by
  cases e; replace h := of_decide_eq_true h; simp only [wordR]; omega

theorem amomaxW (aq rl rd rs1 rs2 : Nat) : Statement (.amomaxW aq rl rd rs1 rs2) := fun _ h e => by
  cases e; replace h := of_decide_eq_true h; simp only [wordR]; omega

theorem amomaxD (aq rl rd rs1 rs2 : Nat) : Statement (.amomaxD aq rl rd rs1 rs2) := fun _ h e => by
  cases e; replace h := of_decide_eq_true h; simp only [wordR]; omega

theorem amominuW (aq rl rd rs1 rs2 : Nat) : Statement (.amominuW aq rl rd rs1 rs2) := fun _ h e => by
  cases e; replace h := of_decide_eq_true h; simp only [wordR]; omega

theorem amominuD (aq rl rd rs1 rs2 : Nat) : Statement (.amominuD aq rl rd rs1 rs2) := fun _ h e => by
  cases e; replace h := of_decide_eq_true h; simp only [wordR]; omega

theorem amomaxuW (aq rl rd rs1 rs2 : Nat) : Statement (.amomaxuW aq rl rd rs1 rs2) := fun _ h e => by
  cases e; replace h := of_decide_eq_true h; simp only [wordR]; omega

theorem amomaxuD (aq rl rd rs1 rs2 : Nat) : Statement (.amomaxuD aq rl rd rs1 rs2) := fun _ h e => by
  cases e; replace h := of_decide_eq_true h; simp only [wordR]; omega

theorem csrrw (rd csr rs1 : Nat) : Statement (.csrrw rd csr rs1) := fun _ h e => by
  cases e; replace h := of_decide_eq_true h; simp only [wordI]; omega

theorem csrrs (rd csr rs1 : Nat) : Statement (.csrrs rd csr rs1) := fun _ h e => by
  cases e; replace h := of_decide_eq_true h; simp only [wordI]; omega

theorem csrrc (rd csr rs1 : Nat) : Statement (.csrrc rd csr rs1) := fun _ h e => by
  cases e; replace h := of_decide_eq_true h; simp only [wordI]; omega

theorem csrrwi (rd csr uimm : Nat) : Statement (.csrrwi rd csr uimm) := fun _ h e => by
  cases e; replace h := of_decide_eq_true h; simp only [wordI]; omega

theorem csrrsi (rd csr uimm : Nat) : Statement (.csrrsi rd csr uimm) := fun _ h e => by
  cases e; replace h := of_decide_eq_true h; simp only [wordI]; omega

theorem csrrci (rd csr uimm : Nat) : Statement (.csrrci rd csr uimm) := fun _ h e => by
  cases e; replace h := of_decide_eq_true h; simp only [wordI]; omega

theorem mret : Statement (.mret) := fun _ _ e => by cases e; decide

theorem wfi : Statement (.wfi) := fun _ _ e => by cases e; decide

theorem bget (hd hs : Nat) : Statement (.bget hd hs) := fun _ h e => by
  cases e; replace h := of_decide_eq_true h; simp only [wordR]; omega

theorem bgetq (hd hs : Nat) : Statement (.bgetq hd hs) := fun _ h e => by
  cases e; replace h := of_decide_eq_true h; simp only [wordR]; omega

theorem bput (hd hs : Nat) : Statement (.bput hd hs) := fun _ h e => by
  cases e; replace h := of_decide_eq_true h; simp only [wordR]; omega

theorem bclr (rd hs : Nat) : Statement (.bclr rd hs) := fun _ h e => by
  cases e; replace h := of_decide_eq_true h; simp only [wordR]; omega

theorem bpois (rd hs : Nat) : Statement (.bpois rd hs) := fun _ h e => by
  cases e; replace h := of_decide_eq_true h; simp only [wordR]; omega

theorem bstat (rd hs : Nat) : Statement (.bstat rd hs) := fun _ h e => by
  cases e; replace h := of_decide_eq_true h; simp only [wordR]; omega

theorem bwait (hs : Nat) : Statement (.bwait hs) := fun _ h e => by
  cases e; replace h := of_decide_eq_true h; simp only [wordR]; omega

theorem btest (rd hs : Nat) : Statement (.btest rd hs) := fun _ h e => by
  cases e; replace h := of_decide_eq_true h; simp only [wordR]; omega

theorem brel (hs : Nat) : Statement (.brel hs) := fun _ h e => by
  cases e; replace h := of_decide_eq_true h; simp only [wordR]; omega

theorem bopen (hs : Nat) : Statement (.bopen hs) := fun _ h e => by
  cases e; replace h := of_decide_eq_true h; simp only [wordR]; omega

theorem bstw (hs rs1 rs2 : Nat) : Statement (.bstw hs rs1 rs2) := fun _ h e => by
  cases e; replace h := of_decide_eq_true h; simp only [wordR]; omega

theorem bseal (hs : Nat) : Statement (.bseal hs) := fun _ h e => by
  cases e; replace h := of_decide_eq_true h; simp only [wordR]; omega

theorem bldw (rd hs rs2 : Nat) : Statement (.bldw rd hs rs2) := fun _ h e => by
  cases e; replace h := of_decide_eq_true h; simp only [wordR]; omega

theorem hld (hd rs1 : Nat) : Statement (.hld hd rs1) := fun _ h e => by
  cases e; replace h := of_decide_eq_true h; simp only [wordR]; omega

theorem hst (hs rs1 : Nat) : Statement (.hst hs rs1) := fun _ h e => by
  cases e; replace h := of_decide_eq_true h; simp only [wordR]; omega

theorem hmov (hd hs : Nat) : Statement (.hmov hd hs) := fun _ h e => by
  cases e; replace h := of_decide_eq_true h; simp only [wordR]; omega

theorem hadv (hd rs1 : Nat) : Statement (.hadv hd rs1) := fun _ h e => by
  cases e; replace h := of_decide_eq_true h; simp only [wordR]; omega

theorem hginc (hd : Nat) : Statement (.hginc hd) := fun _ h e => by
  cases e; replace h := of_decide_eq_true h; simp only [wordR]; omega

theorem hsub (hd hs rs2 : Nat) : Statement (.hsub hd hs rs2) := fun _ h e => by
  cases e; replace h := of_decide_eq_true h; simp only [wordR]; omega

theorem hgetf (rd hs sel : Nat) : Statement (.hgetf rd hs sel) := fun _ h e => by
  cases e; replace h := of_decide_eq_true h; simp only [wordI]; omega

theorem hsetf (hd rs1 sel : Nat) : Statement (.hsetf hd rs1 sel) := fun _ h e => by
  cases e; replace h := of_decide_eq_true h; simp only [wordI]; omega

theorem ldq (w sz off rs1 rd : Nat) : Statement (.ldq w sz off rs1 rd) := fun _ h e => by
  cases e; replace h := of_decide_eq_true h; simp only [wordI]; omega

theorem stp (w sz off rs1 rs : Nat) : Statement (.stp w sz off rs1 rs) := fun _ h e => by
  cases e; replace h := of_decide_eq_true h; simp only [wordI]; omega

theorem invr (rs1 rs2 : Nat) : Statement (.invr rs1 rs2) := fun _ h e => by
  cases e; replace h := of_decide_eq_true h; simp only [wordR]; omega

theorem inva : Statement (.inva) := fun _ _ e => by cases e; decide

theorem yld (rs1 rs2 : Nat) : Statement (.yld rs1 rs2) := fun _ h e => by
  cases e; replace h := of_decide_eq_true h; simp only [wordR]; omega

theorem ownq (rd rs1 : Nat) : Statement (.ownq rd rs1) := fun _ h e => by
  cases e; replace h := of_decide_eq_true h; simp only [wordR]; omega

theorem cntw (cls : Nat) : Statement (.cntw cls) := fun _ h e => by
  cases e; replace h := of_decide_eq_true h; simp only [wordR]; omega

theorem cntr (rd cls : Nat) : Statement (.cntr rd cls) := fun _ h e => by
  cases e; replace h := of_decide_eq_true h; simp only [wordR]; omega

theorem facq (scope rs1 : Nat) : Statement (.facq scope rs1) := fun _ h e => by
  cases e; replace h := of_decide_eq_true h; simp only [wordR]; omega

theorem frel (scope rs1 : Nat) : Statement (.frel scope rs1) := fun _ h e => by
  cases e; replace h := of_decide_eq_true h; simp only [wordR]; omega

theorem far (scope rs1 : Nat) : Statement (.far scope rs1) := fun _ h e => by
  cases e; replace h := of_decide_eq_true h; simp only [wordR]; omega

theorem rlq (rd rs1 : Nat) : Statement (.rlq rd rs1) := fun _ h e => by
  cases e; replace h := of_decide_eq_true h; simp only [wordR]; omega

theorem stpa (rs1 rs2 : Nat) : Statement (.stpa rs1 rs2) := fun _ h e => by
  cases e; replace h := of_decide_eq_true h; simp only [wordR]; omega

theorem mma (acc ha hb : Nat) : Statement (.mma acc ha hb) := fun _ h e => by
  cases e; replace h := of_decide_eq_true h; simp only [wordR]; omega

theorem mmaz (acc ha hb : Nat) : Statement (.mmaz acc ha hb) := fun _ h e => by
  cases e; replace h := of_decide_eq_true h; simp only [wordR]; omega

theorem mmav (acc ha hb : Nat) : Statement (.mmav acc ha hb) := fun _ h e => by
  cases e; replace h := of_decide_eq_true h; simp only [wordR]; omega

theorem mmavz (acc ha hb : Nat) : Statement (.mmavz acc ha hb) := fun _ h e => by
  cases e; replace h := of_decide_eq_true h; simp only [wordR]; omega

theorem mdrn (hd acc hs2 : Nat) : Statement (.mdrn hd acc hs2) := fun _ h e => by
  cases e; replace h := of_decide_eq_true h; simp only [wordR]; omega

theorem mmrg (acc hs : Nat) : Statement (.mmrg acc hs) := fun _ h e => by
  cases e; replace h := of_decide_eq_true h; simp only [wordR]; omega

theorem aclr (acc : Nat) : Statement (.aclr acc) := fun _ h e => by
  cases e; replace h := of_decide_eq_true h; simp only [wordR]; omega

theorem astat (rd acc : Nat) : Statement (.astat rd acc) := fun _ h e => by
  cases e; replace h := of_decide_eq_true h; simp only [wordR]; omega

theorem mmsend (rs1 rs2 : Nat) : Statement (.mmsend rs1 rs2) := fun _ h e => by
  cases e; replace h := of_decide_eq_true h; simp only [wordR]; omega

theorem vadd (hd ha hb : Nat) : Statement (.vadd hd ha hb) := fun _ h e => by
  cases e; replace h := of_decide_eq_true h; simp only [wordR]; omega

theorem vsub (hd ha hb : Nat) : Statement (.vsub hd ha hb) := fun _ h e => by
  cases e; replace h := of_decide_eq_true h; simp only [wordR]; omega

theorem vmul (hd ha hb : Nat) : Statement (.vmul hd ha hb) := fun _ h e => by
  cases e; replace h := of_decide_eq_true h; simp only [wordR]; omega

theorem vfma (hd ha hb : Nat) : Statement (.vfma hd ha hb) := fun _ h e => by
  cases e; replace h := of_decide_eq_true h; simp only [wordR]; omega

theorem vmax (hd ha hb : Nat) : Statement (.vmax hd ha hb) := fun _ h e => by
  cases e; replace h := of_decide_eq_true h; simp only [wordR]; omega

theorem vmin (hd ha hb : Nat) : Statement (.vmin hd ha hb) := fun _ h e => by
  cases e; replace h := of_decide_eq_true h; simp only [wordR]; omega

theorem vscl (hd ha rs2 : Nat) : Statement (.vscl hd ha rs2) := fun _ h e => by
  cases e; replace h := of_decide_eq_true h; simp only [wordR]; omega

theorem vaxpy (hd ha hb : Nat) : Statement (.vaxpy hd ha hb) := fun _ h e => by
  cases e; replace h := of_decide_eq_true h; simp only [wordR]; omega

theorem vfill (hd rs1 : Nat) : Statement (.vfill hd rs1) := fun _ h e => by
  cases e; replace h := of_decide_eq_true h; simp only [wordR]; omega

theorem vcopy (hd ha : Nat) : Statement (.vcopy hd ha) := fun _ h e => by
  cases e; replace h := of_decide_eq_true h; simp only [wordR]; omega

theorem vexp2 (hd ha : Nat) : Statement (.vexp2 hd ha) := fun _ h e => by
  cases e; replace h := of_decide_eq_true h; simp only [wordR]; omega

theorem vrcp (hd ha : Nat) : Statement (.vrcp hd ha) := fun _ h e => by
  cases e; replace h := of_decide_eq_true h; simp only [wordR]; omega

theorem vrsq (hd ha : Nat) : Statement (.vrsq hd ha) := fun _ h e => by
  cases e; replace h := of_decide_eq_true h; simp only [wordR]; omega

theorem vcmplt (rs ha hb : Nat) : Statement (.vcmplt rs ha hb) := fun _ h e => by
  cases e; replace h := of_decide_eq_true h; simp only [wordR]; omega

theorem vcmpeq (rs ha hb : Nat) : Statement (.vcmpeq rs ha hb) := fun _ h e => by
  cases e; replace h := of_decide_eq_true h; simp only [wordR]; omega

theorem vsel (hd ha hb : Nat) : Statement (.vsel hd ha hb) := fun _ h e => by
  cases e; replace h := of_decide_eq_true h; simp only [wordR]; omega

theorem vreds (hd ha : Nat) : Statement (.vreds hd ha) := fun _ h e => by
  cases e; replace h := of_decide_eq_true h; simp only [wordR]; omega

theorem vredm (hd ha : Nat) : Statement (.vredm hd ha) := fun _ h e => by
  cases e; replace h := of_decide_eq_true h; simp only [wordR]; omega

theorem vargm (hd ha : Nat) : Statement (.vargm hd ha) := fun _ h e => by
  cases e; replace h := of_decide_eq_true h; simp only [wordR]; omega

theorem verrs (hd ha hb : Nat) : Statement (.verrs hd ha hb) := fun _ h e => by
  cases e; replace h := of_decide_eq_true h; simp only [wordR]; omega

theorem vtrn (hd ha : Nat) : Statement (.vtrn hd ha) := fun _ h e => by
  cases e; replace h := of_decide_eq_true h; simp only [wordR]; omega

theorem vcvt (hd ha : Nat) : Statement (.vcvt hd ha) := fun _ h e => by
  cases e; replace h := of_decide_eq_true h; simp only [wordR]; omega

theorem cvala (hd hs hs2 : Nat) : Statement (.cvala hd hs hs2) := fun _ h e => by
  cases e; replace h := of_decide_eq_true h; simp only [wordR]; omega

theorem cvalb (hd hs hs2 : Nat) : Statement (.cvalb hd hs hs2) := fun _ h e => by
  cases e; replace h := of_decide_eq_true h; simp only [wordR]; omega

theorem cvqmx (hd hs hs2 : Nat) : Statement (.cvqmx hd hs hs2) := fun _ h e => by
  cases e; replace h := of_decide_eq_true h; simp only [wordR]; omega

theorem cvdq (hd hs hs2 : Nat) : Statement (.cvdq hd hs hs2) := fun _ h e => by
  cases e; replace h := of_decide_eq_true h; simp only [wordR]; omega

theorem cvi8 (hd hs : Nat) : Statement (.cvi8 hd hs) := fun _ h e => by
  cases e; replace h := of_decide_eq_true h; simp only [wordR]; omega

theorem cvrns (hd hs hs2 : Nat) : Statement (.cvrns hd hs hs2) := fun _ h e => by
  cases e; replace h := of_decide_eq_true h; simp only [wordR]; omega

theorem cvcrt (hd hs : Nat) : Statement (.cvcrt hd hs) := fun _ h e => by
  cases e; replace h := of_decide_eq_true h; simp only [wordR]; omega

theorem cvlay (hd hs rs2 : Nat) : Statement (.cvlay hd hs rs2) := fun _ h e => by
  cases e; replace h := of_decide_eq_true h; simp only [wordR]; omega

theorem cpgo (rs1 rs2 : Nat) : Statement (.cpgo rs1 rs2) := fun _ h e => by
  cases e; replace h := of_decide_eq_true h; simp only [wordR]; omega

theorem cpstat (rd rs1 : Nat) : Statement (.cpstat rd rs1) := fun _ h e => by
  cases e; replace h := of_decide_eq_true h; simp only [wordR]; omega

theorem cpstop (rs1 : Nat) : Statement (.cpstop rs1) := fun _ h e => by
  cases e; replace h := of_decide_eq_true h; simp only [wordR]; omega

theorem cpwait (rs1 : Nat) : Statement (.cpwait rs1) := fun _ h e => by
  cases e; replace h := of_decide_eq_true h; simp only [wordR]; omega

theorem sqltab (rs1 rs2 : Nat) : Statement (.sqltab rs1 rs2) := fun _ h e => by
  cases e; replace h := of_decide_eq_true h; simp only [wordR]; omega

theorem sqarm (rs1 rs2 : Nat) : Statement (.sqarm rs1 rs2) := fun _ h e => by
  cases e; replace h := of_decide_eq_true h; simp only [wordR]; omega

theorem sqcoef (rd rs1 rs2 : Nat) : Statement (.sqcoef rd rs1 rs2) := fun _ h e => by
  cases e; replace h := of_decide_eq_true h; simp only [wordR]; omega

theorem sqhdl (hd rs1 : Nat) : Statement (.sqhdl hd rs1) := fun _ h e => by
  cases e; replace h := of_decide_eq_true h; simp only [wordR]; omega

theorem sqpart (rs1 rs2 : Nat) : Statement (.sqpart rs1 rs2) := fun _ h e => by
  cases e; replace h := of_decide_eq_true h; simp only [wordR]; omega

theorem sqstat (rd rs1 : Nat) : Statement (.sqstat rd rs1) := fun _ h e => by
  cases e; replace h := of_decide_eq_true h; simp only [wordR]; omega

theorem sqdec (hd rs1 : Nat) : Statement (.sqdec hd rs1) := fun _ h e => by
  cases e; replace h := of_decide_eq_true h; simp only [wordR]; omega

theorem fset (n rs1 : Nat) : Statement (.fset n rs1) := fun _ h e => by
  cases e; replace h := of_decide_eq_true h; simp only [wordI]; omega

theorem fclr (n rs1 : Nat) : Statement (.fclr n rs1) := fun _ h e => by
  cases e; replace h := of_decide_eq_true h; simp only [wordI]; omega

theorem ftst (rd n : Nat) : Statement (.ftst rd n) := fun _ h e => by
  cases e; replace h := of_decide_eq_true h; simp only [wordI]; omega

theorem fwait (n : Nat) : Statement (.fwait n) := fun _ h e => by
  cases e; replace h := of_decide_eq_true h; simp only [wordI]; omega

theorem fwclr (n : Nat) : Statement (.fwclr n) := fun _ h e => by
  cases e; replace h := of_decide_eq_true h; simp only [wordI]; omega

theorem bfs (n off : Nat) : Statement (.bfs n off) := fun _ h e => by
  cases e; replace h := of_decide_eq_true h; simp only [wordI]; omega

theorem bfc (n off : Nat) : Statement (.bfc n off) := fun _ h e => by
  cases e; replace h := of_decide_eq_true h; simp only [wordI]; omega

theorem barv (b : Nat) : Statement (.barv b) := fun _ h e => by
  cases e; replace h := of_decide_eq_true h; simp only [wordI]; omega

theorem barw (b : Nat) : Statement (.barw b) := fun _ h e => by
  cases e; replace h := of_decide_eq_true h; simp only [wordI]; omega

theorem barvw (b : Nat) : Statement (.barvw b) := fun _ h e => by
  cases e; replace h := of_decide_eq_true h; simp only [wordI]; omega

theorem semp (sem : Nat) : Statement (.semp sem) := fun _ h e => by
  cases e; replace h := of_decide_eq_true h; simp only [wordI]; omega

theorem semv (sem : Nat) : Statement (.semv sem) := fun _ h e => by
  cases e; replace h := of_decide_eq_true h; simp only [wordI]; omega

theorem semtry (rd sem : Nat) : Statement (.semtry rd sem) := fun _ h e => by
  cases e; replace h := of_decide_eq_true h; simp only [wordI]; omega

theorem mtxl (mtx : Nat) : Statement (.mtxl mtx) := fun _ h e => by
  cases e; replace h := of_decide_eq_true h; simp only [wordI]; omega

theorem mtxu (mtx : Nat) : Statement (.mtxu mtx) := fun _ h e => by
  cases e; replace h := of_decide_eq_true h; simp only [wordI]; omega

theorem mtxtry (rd mtx : Nat) : Statement (.mtxtry rd mtx) := fun _ h e => by
  cases e; replace h := of_decide_eq_true h; simp only [wordI]; omega

theorem barany (rd rs1 mask : Nat) : Statement (.barany rd rs1 mask) := fun _ h e => by
  cases e; replace h := of_decide_eq_true h; simp only [wordI]; omega

theorem qpush (q rs1 : Nat) : Statement (.qpush q rs1) := fun _ h e => by
  cases e; replace h := of_decide_eq_true h; simp only [wordR]; omega

theorem qpop (rd q : Nat) : Statement (.qpop rd q) := fun _ h e => by
  cases e; replace h := of_decide_eq_true h; simp only [wordR]; omega

theorem qtry (rd q : Nat) : Statement (.qtry rd q) := fun _ h e => by
  cases e; replace h := of_decide_eq_true h; simp only [wordR]; omega

theorem msend (rs1 rs2 : Nat) : Statement (.msend rs1 rs2) := fun _ h e => by
  cases e; replace h := of_decide_eq_true h; simp only [wordR]; omega

theorem mrecv (rd rs1 : Nat) : Statement (.mrecv rd rs1) := fun _ h e => by
  cases e; replace h := of_decide_eq_true h; simp only [wordR]; omega

theorem mpoll (rd rs1 : Nat) : Statement (.mpoll rd rs1) := fun _ h e => by
  cases e; replace h := of_decide_eq_true h; simp only [wordR]; omega

theorem hqmake (rd rs1 : Nat) : Statement (.hqmake rd rs1) := fun _ h e => by
  cases e; replace h := of_decide_eq_true h; simp only [wordR]; omega

theorem hqrsv (rd rs1 rs2 : Nat) : Statement (.hqrsv rd rs1 rs2) := fun _ h e => by
  cases e; replace h := of_decide_eq_true h; simp only [wordR]; omega

theorem hqpub (rs1 rs2 : Nat) : Statement (.hqpub rs1 rs2) := fun _ h e => by
  cases e; replace h := of_decide_eq_true h; simp only [wordR]; omega

theorem hqpop (rd rs1 : Nat) : Statement (.hqpop rd rs1) := fun _ h e => by
  cases e; replace h := of_decide_eq_true h; simp only [wordR]; omega

theorem tspawn (rd rs1 : Nat) : Statement (.tspawn rd rs1) := fun _ h e => by
  cases e; replace h := of_decide_eq_true h; simp only [wordR]; omega

theorem tdep (rs1 rs2 : Nat) : Statement (.tdep rs1 rs2) := fun _ h e => by
  cases e; replace h := of_decide_eq_true h; simp only [wordR]; omega

theorem tdone (rs1 : Nat) : Statement (.tdone rs1) := fun _ h e => by
  cases e; replace h := of_decide_eq_true h; simp only [wordR]; omega

theorem tnext (rd : Nat) : Statement (.tnext rd) := fun _ h e => by
  cases e; replace h := of_decide_eq_true h; simp only [wordR]; omega

theorem rep (rs1 len stride mask : Nat) : Statement (.rep rs1 len stride mask) := fun _ h e => by
  cases e; replace h := of_decide_eq_true h; simp only [wordI]; omega

theorem halt (rs1 : Nat) : Statement (.halt rs1) := fun _ h e => by
  cases e; replace h := of_decide_eq_true h; simp only [wordR]; omega

theorem tail : Statement (.tail) := fun _ _ e => by cases e; decide

theorem yield : Statement (.yield) := fun _ _ e => by cases e; decide

theorem grpq (rd rs1 : Nat) : Statement (.grpq rd rs1) := fun _ h e => by
  cases e; replace h := of_decide_eq_true h; simp only [wordR]; omega

theorem prio (rs1 : Nat) : Statement (.prio rs1) := fun _ h e => by
  cases e; replace h := of_decide_eq_true h; simp only [wordR]; omega

theorem tlbi (rs1 rs2 : Nat) : Statement (.tlbi rs1 rs2) := fun _ h e => by
  cases e; replace h := of_decide_eq_true h; simp only [wordR]; omega

theorem tlbsync : Statement (.tlbsync) := fun _ _ e => by cases e; decide

theorem pswap (rs1 : Nat) : Statement (.pswap rs1) := fun _ h e => by
  cases e; replace h := of_decide_eq_true h; simp only [wordR]; omega

theorem elog (rd : Nat) : Statement (.elog rd) := fun _ h e => by
  cases e; replace h := of_decide_eq_true h; simp only [wordR]; omega

theorem einj (rs1 rs2 : Nat) : Statement (.einj rs1 rs2) := fun _ h e => by
  cases e; replace h := of_decide_eq_true h; simp only [wordR]; omega

theorem interruptTaken (h : HartId) : Statement (.interruptTaken h) := fun _ _ e => by cases e

theorem impreciseException (h : HartId) : Statement (.impreciseException h) := fun _ _ e => by cases e

theorem hartWake (h : HartId) : Statement (.hartWake h) := fun _ _ e => by cases e

theorem engineCommandStart (c : CellId) (eng : Nat) : Statement (.engineCommandStart c eng) := fun _ _ e => by cases e

theorem engineCommandDone (c : CellId) (eng : Nat) : Statement (.engineCommandDone c eng) := fun _ _ e => by cases e

theorem srcStarved (c : CellId) (eng : Nat) : Statement (.srcStarved c eng) := fun _ _ e => by cases e

theorem bufferedCommandStart (c : CellId) (proc : Nat) : Statement (.bufferedCommandStart c proc) := fun _ _ e => by cases e

theorem commitBufferCommit (h : HartId) : Statement (.commitBufferCommit h) := fun _ _ e => by cases e

theorem commitBufferDiscard (h : HartId) : Statement (.commitBufferDiscard h) := fun _ _ e => by cases e

theorem wordWrite (id : Nat) : Statement (.wordWrite id) := fun _ _ e => by cases e

theorem readRequest (id : Nat) : Statement (.readRequest id) := fun _ _ e => by cases e

theorem writeRequest (id : Nat) : Statement (.writeRequest id) := fun _ _ e => by cases e

theorem poisonRequest (id : Nat) : Statement (.poisonRequest id) := fun _ _ e => by cases e

theorem clearRequest (id : Nat) : Statement (.clearRequest id) := fun _ _ e => by cases e

theorem presenceStatusRead (id : Nat) : Statement (.presenceStatusRead id) := fun _ _ e => by cases e

theorem deferRetry (id : Nat) : Statement (.deferRetry id) := fun _ _ e => by cases e

theorem blockAnswerLands (id : Nat) : Statement (.blockAnswerLands id) := fun _ _ e => by cases e

theorem blockWriteAnswer (id : Nat) : Statement (.blockWriteAnswer id) := fun _ _ e => by cases e

theorem remoteFlagOp (id : Nat) : Statement (.remoteFlagOp id) := fun _ _ e => by cases e

theorem msendRecordArrives (id : Nat) : Statement (.msendRecordArrives id) := fun _ _ e => by cases e

theorem msendRetry (id : Nat) : Statement (.msendRetry id) := fun _ _ e => by cases e

theorem mmsendReceive (id : Nat) : Statement (.mmsendReceive id) := fun _ _ e => by cases e

theorem loadMiss (id : Nat) : Statement (.loadMiss id) := fun _ _ e => by cases e

theorem registration (id : Nat) : Statement (.registration id) := fun _ _ e => by cases e

theorem homeAtomicOp (id : Nat) : Statement (.homeAtomicOp id) := fun _ _ e => by cases e

theorem writeBack (c : CellId) (w : Nat) : Statement (.writeBack c w) := fun _ _ e => by cases e

theorem rangeLock (id : Nat) : Statement (.rangeLock id) := fun _ _ e => by cases e

theorem forward (id : Nat) : Statement (.forward id) := fun _ _ e => by cases e

theorem transferRecall (c : CellId) (w : Nat) : Statement (.transferRecall c w) := fun _ _ e => by cases e

theorem registrationGrant (id : Nat) : Statement (.registrationGrant id) := fun _ _ e => by cases e

theorem l1Fill (id : Nat) : Statement (.l1Fill id) := fun _ _ e => by cases e

theorem capacityEviction (c : CellId) (w : Nat) : Statement (.capacityEviction c w) := fun _ _ e => by cases e

theorem postPerform (id : Nat) : Statement (.postPerform id) := fun _ _ e => by cases e

theorem postAck (id : Nat) : Statement (.postAck id) := fun _ _ e => by cases e

theorem homeMigration (pkg page die : Nat) : Statement (.homeMigration pkg page die) := fun _ _ e => by cases e

theorem recordFetch (c : CellId) (ch : Nat) : Statement (.recordFetch c ch) := fun _ _ e => by cases e

theorem recordStart (c : CellId) (ch : Nat) : Statement (.recordStart c ch) := fun _ _ e => by cases e

theorem recordComplete (c : CellId) (ch : Nat) : Statement (.recordComplete c ch) := fun _ _ e => by cases e

theorem taskStealable (pkg task : Nat) : Statement (.taskStealable pkg task) := fun _ _ e => by cases e

theorem solverDecision (d : DieId) (set : Nat) : Statement (.solverDecision d set) := fun _ _ e => by cases e

theorem decisionWriteRetry (d : DieId) (set : Nat) : Statement (.decisionWriteRetry d set) := fun _ _ e => by cases e

theorem cellDone (c : CellId) : Statement (.cellDone c) := fun _ _ e => by cases e

theorem retentionExpiry (c : CellId) : Statement (.retentionExpiry c) := fun _ _ e => by cases e

theorem lotteryDraw (d : DieId) : Statement (.lotteryDraw d) := fun _ _ e => by cases e

theorem queueTailSnoop (d : DieId) (q : Nat) : Statement (.queueTailSnoop d q) := fun _ _ e => by cases e

theorem launchCommand (d : DieId) (q k : Nat) : Statement (.launchCommand d q k) := fun _ _ e => by cases e

theorem copyCommand (d : DieId) (q k : Nat) : Statement (.copyCommand d q k) := fun _ _ e => by cases e

theorem signalCommand (d : DieId) (q k : Nat) : Statement (.signalCommand d q k) := fun _ _ e => by cases e

theorem waitCommand (d : DieId) (q k : Nat) : Statement (.waitCommand d q k) := fun _ _ e => by cases e

theorem loadImage (d : DieId) (q k : Nat) : Statement (.loadImage d q k) := fun _ _ e => by cases e

theorem graphCommand (d : DieId) (q k : Nat) : Statement (.graphCommand d q k) := fun _ _ e => by cases e

theorem swapCommand (d : DieId) (q k : Nat) : Statement (.swapCommand d q k) := fun _ _ e => by cases e

theorem fenceCommand (d : DieId) (q k : Nat) : Statement (.fenceCommand d q k) := fun _ _ e => by cases e

theorem condNode (d : DieId) (q k : Nat) : Statement (.condNode d q k) := fun _ _ e => by cases e

theorem endNode (d : DieId) (q k : Nat) : Statement (.endNode d q k) := fun _ _ e => by cases e

theorem feWaitPoll (d : DieId) (q k : Nat) : Statement (.feWaitPoll d q k) := fun _ _ e => by cases e

theorem feWaitWake (d : DieId) (q k : Nat) : Statement (.feWaitWake d q k) := fun _ _ e => by cases e

theorem placementAttempt (d : DieId) (q k : Nat) : Statement (.placementAttempt d q k) := fun _ _ e => by cases e

theorem reserveRequest (c : CellId) (d : DieId) (q k : Nat) : Statement (.reserveRequest c d q k) := fun _ _ e => by cases e

theorem placementBackoffExpiry (d : DieId) (q k : Nat) : Statement (.placementBackoffExpiry d q k) := fun _ _ e => by cases e

theorem gangRelease (d : DieId) (q k : Nat) : Statement (.gangRelease d q k) := fun _ _ e => by cases e

theorem coalesceDeadline (d : DieId) (ring : Nat) : Statement (.coalesceDeadline d ring) := fun _ _ e => by cases e

theorem coalesceDlWrite (d : DieId) (ring value : Nat) : Statement (.coalesceDlWrite d ring value) := fun _ _ e => by cases e

theorem leaseBeat (d : DieId) : Statement (.leaseBeat d) := fun _ _ e => by cases e

theorem leaseClaim (d : DieId) : Statement (.leaseClaim d) := fun _ _ e => by cases e

theorem hangMonitorFire (d : DieId) : Statement (.hangMonitorFire d) := fun _ _ e => by cases e

theorem ferryDispatch (d : DieId) : Statement (.ferryDispatch d) := fun _ _ e => by cases e

theorem reboot (d : DieId) (agent : Nat) : Statement (.reboot d agent) := fun _ _ e => by cases e

theorem handback (d : DieId) : Statement (.handback d) := fun _ _ e => by cases e

theorem feIrq (d : DieId) (agent value : Nat) : Statement (.feIrq d agent value) := fun _ _ e => by cases e

theorem fuseSvn (d : DieId) (agent value : Nat) : Statement (.fuseSvn d agent value) := fun _ _ e => by cases e

theorem biasCmd (d : DieId) (agent value : Nat) : Statement (.biasCmd d agent value) := fun _ _ e => by cases e

theorem biasFlipComplete (d : DieId) : Statement (.biasFlipComplete d) := fun _ _ e => by cases e

theorem hostMemRead (pkg addr size : Nat) : Statement (.hostMemRead pkg addr size) := fun _ _ e => by cases e

theorem hostMemWrite (pkg addr size value : Nat) : Statement (.hostMemWrite pkg addr size value) := fun _ _ e => by cases e

theorem hostLinkDown (pkg : Nat) : Statement (.hostLinkDown pkg) := fun _ _ e => by cases e

theorem serviceContextStart (c : CellId) (agent value : Nat) : Statement (.serviceContextStart c agent value) := fun _ _ e => by cases e

theorem bankEviction (h : HartId) : Statement (.bankEviction h) := fun _ _ e => by cases e

theorem swapGraceExpiry (c : CellId) : Statement (.swapGraceExpiry c) := fun _ _ e => by cases e

theorem debugHaltRequest (c : CellId) (agent value : Nat) : Statement (.debugHaltRequest c agent value) := fun _ _ e => by cases e

theorem debugHaltReached (c : CellId) : Statement (.debugHaltReached c) := fun _ _ e => by cases e

theorem debugResume (c : CellId) (agent value : Nat) : Statement (.debugResume c agent value) := fun _ _ e => by cases e

theorem debugStep (c : CellId) (agent value : Nat) : Statement (.debugStep c agent value) := fun _ _ e => by cases e

theorem debugRegRead (c : CellId) (agent value : Nat) : Statement (.debugRegRead c agent value) := fun _ _ e => by cases e

theorem debugRegWrite (c : CellId) (agent value : Nat) : Statement (.debugRegWrite c agent value) := fun _ _ e => by cases e

theorem dieElogRead (d : DieId) : Statement (.dieElogRead d) := fun _ _ e => by cases e

theorem dieEinj (d : DieId) (agent value : Nat) : Statement (.dieEinj d agent value) := fun _ _ e => by cases e

theorem portRetrain (pkg port : Nat) : Statement (.portRetrain pkg port) := fun _ _ e => by cases e

theorem registerWrite (d : DieId) (agent off value : Nat) : Statement (.registerWrite d agent off value) := fun _ _ e => by cases e

theorem pageWalk (d : DieId) (part va : Nat) : Statement (.pageWalk d part va) := fun _ _ e => by cases e

theorem linkReplay (pkg port : Nat) : Statement (.linkReplay pkg port) := fun _ _ e => by cases e

theorem portDown (pkg port : Nat) : Statement (.portDown pkg port) := fun _ _ e => by cases e

theorem linkOperationArrive (src dst lane : Nat) : Statement (.linkOperationArrive src dst lane) := fun _ _ e => by cases e

theorem destinationUnreachable (src dst : Nat) : Statement (.destinationUnreachable src dst) := fun _ _ e => by cases e

theorem powerOn (pkg : Nat) : Statement (.powerOn pkg) := fun _ _ e => by cases e

theorem keyStoreSign (d : DieId) (len msg : Nat) : Statement (.keyStoreSign d len msg) := fun _ _ e => by cases e

theorem attestationRequest (pkg nonce : Nat) : Statement (.attestationRequest pkg nonce) := fun _ _ e => by cases e

theorem powerWindow (pkg watts : Nat) : Statement (.powerWindow pkg watts) := fun _ _ e => by cases e

theorem powerSurge (pkg watts : Nat) : Statement (.powerSurge pkg watts) := fun _ _ e => by cases e

theorem islandLevelChange (d : DieId) (n level : Nat) : Statement (.islandLevelChange d n level) := fun _ _ e => by cases e

theorem correctableError (c : CellId) (array addr synd : Nat) : Statement (.correctableError c array addr synd) := fun _ _ e => by cases e

theorem uncorrectableError (c : CellId) (array addr synd : Nat) : Statement (.uncorrectableError c array addr synd) := fun _ _ e => by cases e

theorem illegalInstruction (word : Nat) : Statement (.illegalInstruction word) := fun _ _ e => by cases e

theorem instructionFetchFault (cause va : Nat) : Statement (.instructionFetchFault cause va) := fun _ _ e => by cases e

theorem storeWriteThrough (id die : Nat) : Statement (.storeWriteThrough id die) := fun _ _ e => by cases e

theorem portUp (pkg port : Nat) : Statement (.portUp pkg port) := fun _ _ e => by cases e

theorem hostLinkUp (pkg : Nat) : Statement (.hostLinkUp pkg) := fun _ _ e => by cases e

end Sys2Proof.Laws.WordForm
end

