-- ==== Sys2Proof/Tests/Slice0.lean ====
section
/-!
SUPPORT. The model's own tests: words of the manual decode, ill-formed terms are refused, and concrete states meet the premises of the
statements.
-/
namespace Sys2Proof.Tests
open Sys2Proof Sys2Proof.Machine

set_option Elab.async false

/-! ### Ill-formed terms: one for each check of WellFormed (R8, R48, R53, R69, R94, R126) -/

theorem test_wf_refuses_words : ∀ i ∈ ([.lui 32 0, .lui 0 1048576, .jal 0 2097152, .jal 0 3, .jalr 0 32 0, .jalr 0 0 4096, .beq 0 32 0,
    .beq 0 0 8192, .slli 0 0 64, .fence 16 0 0 0 0, .fence 0 16 0 0 0, .fence 0 0 16 0 0, .slliw 0 0 32, .lrW 2 0 0 0, .lrW 0 2 0 0,
    .csrrw 0 4096 0, .csrrwi 0 0 32, .bget 16 0, .bget 0 16, .hgetf 0 0 18, .ldq 4 0 0 0 0, .ldq 0 4 0 0 0, .ldq 0 0 256 0 0,
    .stp 0 0 0 0 32, .cntw 0, .cntw 4, .facq 5 0, .facq 2 1, .mma 16 0 0, .mma 0 16 0, .mma 0 0 16, .mdrn 0 0 16, .fset 1024 0,
    .bfs 0 4096, .barv 48, .semp 16, .mtxl 8, .barany 0 0 256, .qpush 16 0, .rep 0 8 0 0, .rep 0 0 32 0, .rep 0 0 0 16] : List Instr),
    i.wf = false := by decide

theorem test_wf_refuses_events : ∀ i ∈ ([.interruptTaken ⟨0, 0, 0, 24⟩, .engineCommandStart ⟨0, 0, 144⟩ 0, .engineCommandStart ⟨0, 0, 0⟩ 3,
    .bufferedCommandStart ⟨0, 0, 0⟩ 3, .homeMigration 64 0 0, .homeMigration 0 0 16, .recordFetch ⟨0, 0, 200⟩ 0, .recordFetch ⟨0, 0, 0⟩ 4,
    .solverDecision ⟨0, 16⟩ 0, .solverDecision ⟨0, 0⟩ 4, .queueTailSnoop ⟨0, 0⟩ 64, .coalesceDeadline ⟨0, 0⟩ 64,
    .coalesceDlWrite ⟨0, 0⟩ 0 (2 ^ 64), .portRetrain 0 16, .pageWalk ⟨0, 0⟩ 256 0, .linkOperationArrive 64 0 0, .linkOperationArrive 0 64 0,
    .linkOperationArrive 0 0 4, .islandLevelChange ⟨0, 0⟩ 8 0, .islandLevelChange ⟨0, 0⟩ 0 8] : List Instr), i.wf = false := by decide

/-! ### Every instruction's word, written bit by bit from the layouts and codes of R45, R50, R53, R54, R69, R94, R126 and R160 -/

theorem test_decode_upper : ∀ p ∈ ([
    (0b11011110101011011011000010110111, .lui 1 0xdeadb),
    (0b11011110101011011011111110010111, .auipc 31 0xdeadb)] : List (Nat × Instr)), decodeTableWord 32 p.1 = some p.2 := by decide

theorem test_decode_jumps : ∀ p ∈ ([
    (0b11011100011010101011001011101111, .jal 5 0x1ab5c6),
    (0b10011100011100010000010101100111, .jalr 10 2 0x9c7)] : List (Nat × Instr)), decodeTableWord 32 p.1 = some p.2 := by decide

theorem test_decode_branches : ∀ p ∈ ([
    (0b10101010001111110000101111100011, .beq 30 3 0x1ab6),
    (0b01010101110101011001110111100011, .bne 11 29 0xd5a),
    (0b10000000110000010100000101100011, .blt 2 12 0x1002),
    (0b10101010001111110101101111100011, .bge 30 3 0x1ab6),
    (0b01010101110101011110110111100011, .bltu 11 29 0xd5a),
    (0b10000000110000010111000101100011, .bgeu 2 12 0x1002)] : List (Nat × Instr)), decodeTableWord 32 p.1 = some p.2 := by decide

theorem test_decode_loads : ∀ p ∈ ([
    (0b10011100011111110000100010000011, .lb 17 30 0x9c7),
    (0b10011100011101011001000010000011, .lh 1 11 0x9c7),
    (0b10011100011100010010111110000011, .lw 31 2 0x9c7),
    (0b10011100011111110011010100000011, .ld 10 30 0x9c7),
    (0b10011100011101011100100010000011, .lbu 17 11 0x9c7),
    (0b10011100011100010101000010000011, .lhu 1 2 0x9c7),
    (0b10011100011111110110111110000011, .lwu 31 30 0x9c7)] : List (Nat × Instr)), decodeTableWord 32 p.1 = some p.2 := by decide

theorem test_decode_stores : ∀ p ∈ ([
    (0b10100100001101011000110110100011, .sb 11 3 0xa5b),
    (0b01011011110100010001001100100011, .sh 2 29 0x5a6),
    (0b10100100110011110010110110100011, .sw 30 12 0xa5b),
    (0b01011010001101011011001100100011, .sd 11 3 0x5a6)] : List (Nat × Instr)), decodeTableWord 32 p.1 = some p.2 := by decide

theorem test_decode_immediates : ∀ p ∈ ([
    (0b10011100011100010000010100010011, .addi 10 2 0x9c7),
    (0b10011100011111110010100010010011, .slti 17 30 0x9c7),
    (0b10011100011101011011000010010011, .sltiu 1 11 0x9c7),
    (0b10011100011100010100111110010011, .xori 31 2 0x9c7),
    (0b10011100011111110110010100010011, .ori 10 30 0x9c7),
    (0b10011100011101011111100010010011, .andi 17 11 0x9c7),
    (0b00000011010100010001000010010011, .slli 1 2 53),
    (0b00000011010111110101111110010011, .srli 31 30 53),
    (0b01000011010101011101010100010011, .srai 10 11 53),
    (0b10011100011100010000100010011011, .addiw 17 2 0x9c7),
    (0b00000001111111110001000010011011, .slliw 1 30 31),
    (0b00000001000101011101111110011011, .srliw 31 11 17),
    (0b01000001111100010101010100011011, .sraiw 10 2 31)] : List (Nat × Instr)), decodeTableWord 32 p.1 = some p.2 := by decide

theorem test_decode_registers : ∀ p ∈ ([
    (0b00000001110100010000100010110011, .add 17 2 29),
    (0b01000000110011110000000010110011, .sub 1 30 12),
    (0b00000000001101011001111110110011, .sll 31 11 3),
    (0b00000001110100010010010100110011, .slt 10 2 29),
    (0b00000000110011110011100010110011, .sltu 17 30 12),
    (0b00000000001101011100000010110011, .xor 1 11 3),
    (0b00000001110100010101111110110011, .srl 31 2 29),
    (0b01000000110011110101010100110011, .sra 10 30 12),
    (0b00000000001101011110100010110011, .or 17 11 3),
    (0b00000001110100010111000010110011, .and 1 2 29),
    (0b00000000110011110000100010111011, .addw 17 30 12),
    (0b01000000001101011000000010111011, .subw 1 11 3),
    (0b00000001110100010001111110111011, .sllw 31 2 29),
    (0b00000000110011110101010100111011, .srlw 10 30 12),
    (0b01000000001101011101100010111011, .sraw 17 11 3),
    (0b00000011110100010000000010110011, .mul 1 2 29),
    (0b00000010110011110001111110110011, .mulh 31 30 12),
    (0b00000010001101011010010100110011, .mulhsu 10 11 3),
    (0b00000011110100010011100010110011, .mulhu 17 2 29),
    (0b00000010110011110100000010110011, .div 1 30 12),
    (0b00000010001101011101111110110011, .divu 31 11 3),
    (0b00000011110100010110010100110011, .rem 10 2 29),
    (0b00000010110011110111100010110011, .remu 17 30 12),
    (0b00000010001101011000000010111011, .mulw 1 11 3),
    (0b00000011110100010100111110111011, .divw 31 2 29),
    (0b00000010110011110101010100111011, .divuw 10 30 12),
    (0b00000010001101011110100010111011, .remw 17 11 3),
    (0b00000011110100010111000010111011, .remuw 1 2 29)] : List (Nat × Instr)), decodeTableWord 32 p.1 = some p.2 := by decide

theorem test_decode_system : ∀ p ∈ ([
    (0b10000011000111110000111110001111, .fence 8 3 1 30 31),
    (0b10011100011101011001010100001111, .fenceI 0x9c7 11 10),
    (0b00000000000000000000000001110011, .ecall),
    (0b00000000000100000000000001110011, .ebreak),
    (0b00110000010101011001100011110011, .csrrw 17 0x305 11),
    (0b11001100001100010010000011110011, .csrrs 1 0xcc3 2),
    (0b00110000010111110011111111110011, .csrrc 31 0x305 30),
    (0b11001100001110101101010101110011, .csrrwi 10 0xcc3 21),
    (0b00110000010110101110100011110011, .csrrsi 17 0x305 21),
    (0b11001100001110101111000011110011, .csrrci 1 0xcc3 21),
    (0b00110000001000000000000001110011, .mret),
    (0b00010000010100000000000001110011, .wfi)] : List (Nat × Instr)), decodeTableWord 32 p.1 = some p.2 := by decide

theorem test_decode_atomics : ∀ p ∈ ([
    (0b00010100000011110010111110101111, .lrW 1 0 31 30),
    (0b00010100000001011011010100101111, .lrD 1 0 10 11),
    (0b00011100110000010010100010101111, .scW 1 0 17 2 12),
    (0b00011100001111110011000010101111, .scD 1 0 1 30 3),
    (0b00001101110101011010111110101111, .amoswapW 1 0 31 11 29),
    (0b00001100110000010011010100101111, .amoswapD 1 0 10 2 12),
    (0b00000100001111110010100010101111, .amoaddW 1 0 17 30 3),
    (0b00000101110101011011000010101111, .amoaddD 1 0 1 11 29),
    (0b00100100110000010010111110101111, .amoxorW 1 0 31 2 12),
    (0b00100100001111110011010100101111, .amoxorD 1 0 10 30 3),
    (0b01100101110101011010100010101111, .amoandW 1 0 17 11 29),
    (0b01100100110000010011000010101111, .amoandD 1 0 1 2 12),
    (0b01000100001111110010111110101111, .amoorW 1 0 31 30 3),
    (0b01000101110101011011010100101111, .amoorD 1 0 10 11 29),
    (0b10000100110000010010100010101111, .amominW 1 0 17 2 12),
    (0b10000100001111110011000010101111, .amominD 1 0 1 30 3),
    (0b10100101110101011010111110101111, .amomaxW 1 0 31 11 29),
    (0b10100100110000010011010100101111, .amomaxD 1 0 10 2 12),
    (0b11000100001111110010100010101111, .amominuW 1 0 17 30 3),
    (0b11000101110101011011000010101111, .amominuD 1 0 1 11 29),
    (0b11100100110000010010111110101111, .amomaxuW 1 0 31 2 12),
    (0b11100100001111110011010100101111, .amomaxuD 1 0 10 30 3)] : List (Nat × Instr)), decodeTableWord 32 p.1 = some p.2 := by decide

theorem test_decode_blocks_and_words : ∀ p ∈ ([
    (0b00000000000001110000011110001011, .bget 15 14),
    (0b00000010000000101000000110001011, .bgetq 3 5),
    (0b00000100000001010000010010001011, .bput 9 10),
    (0b00000110000001110000111110001011, .bclr 31 14),
    (0b00001000000000101000010100001011, .bpois 10 5),
    (0b00001010000001010000100010001011, .bstat 17 10),
    (0b00001100000001110000000000001011, .bwait 14),
    (0b00001110000000101000000010001011, .btest 1 5),
    (0b00010000000001010000000000001011, .brel 10),
    (0b00010010000001110000000000001011, .bopen 14),
    (0b00010101110101011000001010001011, .bstw 5 11 29),
    (0b00010110000001010000000000001011, .bseal 10),
    (0b00011000110001110000111110001011, .bldw 31 14 12),
    (0b00000000000000010001011110001011, .hld 15 2),
    (0b00000010010111110001000000001011, .hst 5 30),
    (0b00000100000001010001000110001011, .hmov 3 10),
    (0b00000110000001011001010010001011, .hadv 9 11),
    (0b00001000000000000001011110001011, .hginc 15),
    (0b00001010001101110001000110001011, .hsub 3 14 3),
    (0b00000001000100101010010100001011, .hgetf 10 5 17),
    (0b00000000001100010011010010001011, .hsetf 9 2 3),
    (0b10011101001111110100100010001011, .ldq 2 1 0xd3 30 17),
    (0b10011101001101011101101010001011, .stp 2 1 0xd3 11 21),
    (0b00000001110100010110000000001011, .invr 2 29),
    (0b00000010000000000110000000001011, .inva),
    (0b00000100110011110110000000001011, .yld 30 12),
    (0b00000110000001011110000010001011, .ownq 1 11),
    (0b00001000001000000110000000001011, .cntw 2),
    (0b00001010000100000110111110001011, .cntr 31 1),
    (0b00001100000100010110000000001011, .facq 1 2),
    (0b00001110010000000110000000001011, .frel 4 0),
    (0b00010000001100000110000000001011, .far 3 0),
    (0b00010010000011110110010100001011, .rlq 10 30),
    (0b00010100001101011110000000001011, .stpa 11 3)] : List (Nat × Instr)), decodeTableWord 32 p.1 = some p.2 := by decide

theorem test_decode_engines_chains_solver : ∀ p ∈ ([
    (0b00000000011100110000010010101011, .mma 9 6 7),
    (0b00000010110001101000000100101011, .mmaz 2 13 12),
    (0b00000100011100110000010010101011, .mmav 9 6 7),
    (0b00000110110001101000000100101011, .mmavz 2 13 12),
    (0b00001000100001001000011110101011, .mdrn 15 9 8),
    (0b00001010000001010000000100101011, .mmrg 2 10),
    (0b00001100000000000000010010101011, .aclr 9),
    (0b00001110000000010000100010101011, .astat 17 2),
    (0b00010001110100010000000000101011, .mmsend 2 29),
    (0b00000000011100110001000110101011, .vadd 3 6 7),
    (0b00000010110001101001010010101011, .vsub 9 13 12),
    (0b00000100011100110001011110101011, .vmul 15 6 7),
    (0b00000110110001101001000110101011, .vfma 3 13 12),
    (0b00001000011100110001010010101011, .vmax 9 6 7),
    (0b00001010110001101001011110101011, .vmin 15 13 12),
    (0b00001100110000110001000110101011, .vscl 3 6 12),
    (0b00001110011101101001010010101011, .vaxpy 9 13 7),
    (0b00010000000011110001011110101011, .vfill 15 30),
    (0b00010010000000110001000110101011, .vcopy 3 6),
    (0b00010100000001101001010010101011, .vexp2 9 13),
    (0b00010110000000110001011110101011, .vrcp 15 6),
    (0b00011000000001101001000110101011, .vrsq 3 13),
    (0b00011010110000110001001000101011, .vcmplt 4 6 12),
    (0b00011100011101101001101010101011, .vcmpeq 21 13 7),
    (0b00011110110000110001010010101011, .vsel 9 6 12),
    (0b00100000000001101001011110101011, .vreds 15 13),
    (0b00100010000000110001000110101011, .vredm 3 6),
    (0b00100100000001101001010010101011, .vargm 9 13),
    (0b00100110011100110001011110101011, .verrs 15 6 7),
    (0b00101000000001101001000110101011, .vtrn 3 13),
    (0b00101010000000110001010010101011, .vcvt 9 6),
    (0b00000000101101110010011110101011, .cvala 15 14 11),
    (0b00000010100000101010000110101011, .cvalb 3 5 8),
    (0b00000100101101010010010010101011, .cvqmx 9 10 11),
    (0b00000110100001110010011110101011, .cvdq 15 14 8),
    (0b00001000000000101010000110101011, .cvi8 3 5),
    (0b00001010101101010010010010101011, .cvrns 9 10 11),
    (0b00001100000001110010011110101011, .cvcrt 15 14),
    (0b00001110001100101010000110101011, .cvlay 3 5 3),
    (0b00000001110101011011000000101011, .cpgo 11 29),
    (0b00000010000000010011000010101011, .cpstat 1 2),
    (0b00000100000011110011000000101011, .cpstop 30),
    (0b00000110000001011011000000101011, .cpwait 11),
    (0b00000000110000010100000000101011, .sqltab 2 12),
    (0b00000010001111110100000000101011, .sqarm 30 3),
    (0b00000101110101011100111110101011, .sqcoef 31 11 29),
    (0b00000110000000010100010010101011, .sqhdl 9 2),
    (0b00001000110011110100000000101011, .sqpart 30 12),
    (0b00001010000001011100010100101011, .sqstat 10 11),
    (0b00001100000000010100011110101011, .sqdec 15 2)] : List (Nat × Instr)), decodeTableWord 32 p.1 = some p.2 := by decide

theorem test_decode_synchronisation : ∀ p ∈ ([
    (0b00100000010111110000000001011011, .fset 0x205 30),
    (0b01100000010101011000000001011011, .fclr 0x205 11),
    (0b10100000010100000000100011011011, .ftst 17 0x205),
    (0b11100000010100000000000001011011, .fwait 0x205),
    (0b00100000010100000001000001011011, .fwclr 0x205),
    (0b00000000001101100010010011011011, .bfs 0x12c 3),
    (0b10101011110001101011101101011011, .bfc 0x2cd 0xabc),
    (0b00000010010100000100000001011011, .barv 37),
    (0b00010010010100000100000001011011, .barw 37),
    (0b00100010010100000100000001011011, .barvw 37),
    (0b00110000110100000100000001011011, .semp 13),
    (0b01000000110100000100000001011011, .semv 13),
    (0b01010000110100000100000011011011, .semtry 1 13),
    (0b01100000011000000100000001011011, .mtxl 6),
    (0b01110000011000000100000001011011, .mtxu 6),
    (0b10000000011000000100111111011011, .mtxtry 31 6),
    (0b10011010010100010100010101011011, .barany 10 2 0xa5),
    (0b00000000000011110101010111011011, .qpush 11 30),
    (0b00000010000001011101100011011011, .qpop 17 11),
    (0b00000100000001011101000011011011, .qtry 1 11),
    (0b00000110001101011101000001011011, .msend 11 3),
    (0b00001000000000010101111111011011, .mrecv 31 2),
    (0b00001010000011110101010101011011, .mpoll 10 30),
    (0b00000000000001011110100011011011, .hqmake 17 11),
    (0b00000011110100010110000011011011, .hqrsv 1 2 29),
    (0b00000100110011110110000001011011, .hqpub 30 12),
    (0b00000110000001011110111111011011, .hqpop 31 11),
    (0b00000000000000010111010101011011, .tspawn 10 2),
    (0b00000010001111110111000001011011, .tdep 30 3),
    (0b00000100000001011111000001011011, .tdone 11),
    (0b00000110000000000111100011011011, .tnext 17)] : List (Nat × Instr)), decodeTableWord 32 p.1 = some p.2 := by decide

theorem test_decode_control : ∀ p ∈ ([
    (0b10010110111000010000000001111011, .rep 2 6 13 9),
    (0b00000000000011110001000001111011, .halt 30),
    (0b00000010000000000001000001111011, .tail),
    (0b00000100000000000001000001111011, .yield),
    (0b00000110000001011001000011111011, .grpq 1 11),
    (0b00001000000000010001000001111011, .prio 2),
    (0b00000001110111110010000001111011, .tlbi 30 29),
    (0b00000010000000000010000001111011, .tlbsync),
    (0b00000100000001011010000001111011, .pswap 11),
    (0b00000110000000000010111111111011, .elog 31),
    (0b00001000110000010010000001111011, .einj 2 12)] : List (Nat × Instr)), decodeTableWord 32 p.1 = some p.2 := by decide

/-! ### The worked encodings, and words that are no instruction (R44, R48, R51) -/

theorem test_decode_worked : decodeTableWord 32 0x001001AB = some (.mma 3 0 1) ∧ decodeTableWord 32 0xB025C50B = some (.ldq 2 3 2 11 10) ∧
    decodeTableWord 32 0xC050005B = some (.fwait 5) ∧ decodeTableWord 32 0x003624DB = some (.bfs 300 3) ∧
    decodeTableWord 32 0x0000107B = some (.halt 0) := by decide

theorem test_decode_illegal : ∀ w ∈ [0x0010082B, 0x00000000, 0xFFFFFFFF, 0x00000007, 0x00000053, 0x0000700B, 0x1600002B, 0x00000001],
    decodeTableWord 32 w = none := by decide

/-! ### Concrete states that meet the premises of the statements -/

/-- Die 0 of package 0, its cell 0, and the cell's hart 0. -/
def d0 : DieId := ⟨0, 0⟩
def c0 : CellId := ⟨0, 0, 0⟩
def h0 : HartId := ⟨0, 0, 0, 0⟩

/-- A page at address 0, where virtual and physical addresses are the same. -/
def page (kind : Nat) : TlbEntry where
  part := 0
  win := 0
  va := 0
  size := 2097152
  pa := 0
  kind := kind
  pin := false
  us := true
  ex := true
  wr := true
  rd := true

/-- A die that runs and has a root for partition 0, with one cell of partition 0 on which one hart runs, behind one page. -/
def world (kind : Nat) (f : Hart → Hart) (g : Cell → Cell) : State :=
  { State.reset with
    harts := [(h0, f { Hart.reset with status := .running })]
    cells := [(c0, g { Cell.reset with ctx := { CellCtx.reset with part := 0, spad := 76 }, tlb := [page kind] })]
    dies := [(d0, { Die.reset d0 with bootState := 3, ptroot := [(0, 1)], tlb := [page kind] })] }

/-- The hart with values in x1, x2 and x3. -/
def withX (a b c : Word) (h : Hart) : Hart := { h with x := ((h.x.set 1 a).set 2 b).set 3 c }

/-- The cell with a word in its L1. -/
def withL1 (w : Nat) (owned : Bool) (d : Word) (c : Cell) : Cell := { c with l1 := [(w, ⟨owned, d⟩)] }

theorem witness_JumpsAndBranches : (world kTracked id id).me.spec = none := by decide

theorem witness_LoadsComplete : ∃ (s t u : State) (e : TlbEntry),
    let va := s.xr 1 + wordOfInt (sx 12 0xFF8)
    (s.Reaches .load va 8 e ∧ s.me.answer = none ∧ s.ownPending s.who 8 = false ∧ s.l1Get s.myCell 8 = some ⟨false, 7⟩) ∧
    (t.Reaches .load va 8 e ∧ t.me.answer = none ∧ t.cellPending t.who 8 = false ∧ t.l1Get t.myCell 8 = none ∧
      t.HomeFree (t.accessOf va 8 e) ∧ t.kindAt e 8 ≠ kReplicated ∧ t.isBad 8 = false ∧ t.hostGone 8 = false) ∧
    u.Reaches .load va 8 e ∧ u.me.answer = some (.word 5) :=
  ⟨world kTracked (withX 16 0 0) (withL1 8 false 7), world kTracked (withX 16 0 0) id,
    world kTracked (fun h => { withX 16 0 0 h with answer := some (.word 5) }) id, page kTracked,
    ⟨by constructor <;> decide, by decide⟩, ⟨by constructor <;> decide, by decide, by decide, by decide, by constructor <;> decide, by decide⟩,
    by constructor <;> decide, by decide⟩

theorem witness_TrackedStoresComplete : ∃ (s t : State) (e : TlbEntry),
    (s.Reaches .store (s.xr 1) 8 e ∧ e.phys 16 % 8 = 0 ∧ s.kindAt e 16 = kTracked ∧ s.me.answer = none ∧ s.cellPending s.who 16 = false ∧
      s.l1Get s.myCell 16 = some ⟨true, 7⟩) ∧
    t.Reaches .store (t.xr 1) 8 e ∧ t.kindAt e 16 = kTracked ∧ t.me.answer = none ∧ t.cellPending t.who 16 = false ∧
      t.l1Get t.myCell 16 = none ∧ t.HomeFree (t.accessOf (t.xr 1) 8 e) :=
  ⟨world kTracked (withX 16 9 0) (withL1 16 true 7), world kTracked (withX 16 9 0) id, page kTracked,
    ⟨by constructor <;> decide, by decide⟩, by constructor <;> decide, by decide, by decide, by decide, by decide, by constructor <;> decide⟩

theorem witness_WrittenThroughStoresComplete : ∃ (s t : State) (e e' : TlbEntry),
    (s.Reaches .store (s.xr 1) 1 e ∧ (s.accessOf (s.xr 1) 1 e).kind = kUntracked ∧ s.me.answer = none ∧ s.cellPending s.who 16 = false ∧
      s.homeCut (s.accessOf (s.xr 1) 1 e) = false ∧ s.flipping 23 = false ∧ s.lockHit (s.accessOf (s.xr 1) 1 e).home 0 23 1 = false) ∧
    t.Reaches .store (t.xr 1) 1 e' ∧ (t.accessOf (t.xr 1) 1 e').kind = kReplicated ∧ t.me.answer = none ∧ t.cellPending t.who 16 = false ∧
      t.homeCut (t.accessOf (t.xr 1) 1 e') = false ∧ t.flipping 23 = false ∧ t.lockHit (t.accessOf (t.xr 1) 1 e').home 0 23 1 = false :=
  ⟨world kUntracked (withX 23 9 0) id, world kReplicated (withX 23 9 0) id, page kUntracked, page kReplicated,
    ⟨by constructor <;> decide, by decide⟩, by constructor <;> decide, by decide⟩

/-- A word that another cell owns, stored in part and stored whole, one whose home is on another package, and a store that is answered. -/
theorem witness_TrackedStoresComplete_asked : ∃ (s t u : State) (e e' : TlbEntry),
    (s.Reaches .store (s.xr 1) 4 e ∧ s.Reaches .store (s.xr 1) 8 e ∧ s.kindAt e 16 = kTracked ∧ s.me.answer = none ∧
      s.cellPending s.who 16 = false ∧ s.l1Get s.myCell 16 = none ∧
      (s.accessOf (s.xr 1) 4 e).home.pkg = s.cur.pkg ∧ s.homeCut (s.accessOf (s.xr 1) 4 e) = false ∧ s.flipping 16 = false ∧ s.busy = [] ∧
      s.held = [] ∧ s.locks = [] ∧ lookup 16 s.words = some (.registered ⟨0, 0, 1⟩)) ∧
    (t.Reaches .store (t.xr 1) 8 e' ∧ t.kindAt e' (e'.phys 16) = kTracked ∧ t.me.answer = none ∧ t.cellPending t.who (e'.phys 16) = false ∧
      t.l1Get t.myCell (e'.phys 16) = none ∧ (t.accessOf (t.xr 1) 8 e').home.pkg ≠ t.cur.pkg ∧ t.homeCut (t.accessOf (t.xr 1) 8 e') = false) ∧
    (u.xr 1).toNat % 8 = 0 ∧ inWindow (u.xr 1) = false ∧ u.me.answer = some .done :=
  ⟨{ world kTracked (withX 16 9 0) id with words := [(16, .registered ⟨0, 0, 1⟩)] },
    { world kTracked (withX 16 9 0) (fun c => { c with tlb := [{ page kTracked with pa := pkgSpan }] }) with
      dies := [(d0, { Die.reset d0 with bootState := 3, ptroot := [(0, 1)], route := [(1, 0x10000)] })] },
    world kTracked (fun h => { withX 16 9 0 h with answer := some .done }) id, page kTracked, { page kTracked with pa := pkgSpan },
    ⟨by constructor <;> decide, by constructor <;> decide, by decide⟩, ⟨by constructor <;> decide, by decide⟩, by decide⟩

/-- Copies that an alias of an untracked page has left: OWNED and registered to the cell, OWNED and not registered, VALID. -/
theorem witness_WrittenThroughStoresComplete_alias : ∀ p ∈ [(true, [(16, WordState.registered c0)]), (true, []), (false, [])],
    let s := { world kUntracked (withX 23 9 0) (withL1 16 p.1 7) with words := p.2 }
    s.l1Get s.myCell 16 = some ⟨p.1, 7⟩ ∧ lookup 16 s.words = (lookup 16 p.2) ∧ s.cellPending s.who 16 = false ∧
      (s.accessOf (s.xr 1) 1 (page kUntracked)).kind = kUntracked ∧ s.me.answer = none := by decide

theorem witness_ReservationsComplete : ∃ (s t : State) (e : TlbEntry),
    (e.phys (s.xr 1).toNat % 8 = 0 ∧ inHost 16 = false ∧ (s.accessOf (s.xr 1) 8 e).kind ≠ kReplicated ∧ s.me.answer = none ∧
      s.cellPending s.who 16 = false ∧ s.HomeFree (s.accessOf (s.xr 1) 8 e) ∧ s.Reaches .load (s.xr 1) 8 e ∧ s.Reaches .store (s.xr 1) 8 e ∧
      s.resvs.contains (s.who, 16, true) = false) ∧
    t.me.answer = none ∧ t.cellPending t.who 16 = false ∧ t.HomeFree (t.accessOf (t.xr 1) 8 e) ∧ t.Reaches .store (t.xr 1) 8 e ∧
      t.resvs.contains (t.who, 16, true) = true :=
  ⟨world kTracked (withX 16 9 0) id, { world kTracked (withX 16 9 0) id with resvs := [(h0, 16, true)] }, page kTracked,
    ⟨by decide, by decide, by decide, by decide, by decide, by constructor <;> decide, by constructor <;> decide, by constructor <;> decide,
      by decide⟩, by decide, by decide, by constructor <;> decide, by constructor <;> decide, by decide⟩

/-- A page of the host's memory. -/
def hostPage : TlbEntry := { page kUntracked with pa := 2 ^ 51 }

/-- The hart acts on a word of host memory, with a count of posts that an rl bit waits for. -/
def atHost (n : Nat) : State := world kUntracked (fun h => { withX 16 9 0 h with postDie := n }) fun c => { c with tlb := [hostPage] }

theorem witness_ReservationsComplete_far : ∃ (s t u : State) (e : TlbEntry),
    (s.me.answer = none ∧ s.cellPending s.who (2 ^ 51 + 16) = false ∧ inHost (e.phys (s.xr 1).toNat) = true ∧
      s.homeCut (s.accessOf (s.xr 1) 8 e) = false ∧ s.RlSettled 1 ∧ s.Reaches .load (s.xr 1) 8 e ∧ s.Reaches .store (s.xr 1) 8 e ∧
      s.Reaches .amo (s.xr 1) 8 e) ∧
    ((t.xr 1).toNat % 8 = 0 ∧ inWindow (t.xr 1) = false ∧ t.me.answer = some (.word 5)) ∧
    ¬ u.RlSettled 1 ∧ u.me.answer = none ∧ u.Reaches .load (u.xr 1) 8 e ∧ u.Reaches .store (u.xr 1) 8 e ∧ u.Reaches .amo (u.xr 1) 8 e :=
  ⟨atHost 0, world kTracked (fun h => { withX 16 9 0 h with answer := some (.word 5) }) id, atHost 1, hostPage,
    ⟨by decide, by decide, by decide, by decide, fun _ => by decide, by constructor <;> decide, by constructor <;> decide,
      by constructor <;> decide⟩,
    by decide, fun h => absurd (h rfl) (by decide), by decide, by constructor <;> decide, by constructor <;> decide, by constructor <;> decide⟩

theorem witness_ReservationsComplete_replicated : ∃ (s : State) (e : TlbEntry), (s.accessOf (s.xr 1) 8 e).kind = kReplicated ∧
    s.me.answer = none ∧ s.cellPending s.who 16 = false ∧ s.HomeFree (s.accessOf (s.xr 1) 8 e) ∧ s.Reaches .store (s.xr 1) 8 e ∧
    s.Reaches .amo (s.xr 1) 8 e ∧ s.resvs.contains (s.who, 16, true) = true :=
  ⟨{ world kReplicated (withX 16 9 0) id with resvs := [(h0, 16, true)] }, page kReplicated, by decide, by decide, by decide,
    by constructor <;> decide, by constructor <;> decide, by constructor <;> decide, by decide⟩

/-- An LR and an AMO of a word that memory holds with an error, and an LR of a replicated page whose own replica is behind and is not. -/
theorem witness_ReservationsComplete_bad :
    (∃ (s : State) (e : TlbEntry), s.isBad 16 = true ∧ s.me.spec = none ∧ s.me.answer = none ∧ s.cellPending s.who 16 = false ∧
      s.HomeFree (s.accessOf (s.xr 1) 8 e) ∧ s.Reaches .load (s.xr 1) 8 e ∧ s.Reaches .amo (s.xr 1) 8 e) ∧
    ∀ l ∈ [[((0, 16), (5 : Word))], []], ∃ (s : State) (e : TlbEntry), s.isBad 16 = false ∧ (s.accessOf (s.xr 1) 8 e).kind = kReplicated ∧
      lookup (s.cur.die, 16) s.replicas = lookup (0, 16) l ∧ s.me.answer = none ∧ s.cellPending s.who 16 = false ∧
      s.HomeFree (s.accessOf (s.xr 1) 8 e) ∧ s.Reaches .load (s.xr 1) 8 e :=
  ⟨⟨{ world kTracked (withX 16 9 0) id with badWords := [16] }, page kTracked, by decide, by decide, by decide, by decide,
      by constructor <;> decide, by constructor <;> decide, by constructor <;> decide⟩,
    fun l h => by
      have o : l = [((0, 16), 5)] ∨ l = [] := by simpa using h
      rcases o with rfl | rfl
      · exact ⟨{ world kReplicated (withX 16 9 0) id with replicas := [((0, 16), 5)] }, page kReplicated, rfl, by decide, rfl, by decide,
          by decide, by constructor <;> decide, by constructor <;> decide⟩
      · exact ⟨world kReplicated (withX 16 9 0) id, page kReplicated, rfl, by decide, rfl, by decide, by decide, by constructor <;> decide,
          by constructor <;> decide⟩⟩

theorem witness_AmosComplete : ∃ (s : State) (e : TlbEntry), s.Reaches .amo (s.xr 1) 4 e ∧ e.phys (s.xr 1).toNat % 4 = 0 ∧ inHost 20 = false ∧
    s.kindAt e 20 ≠ kReplicated ∧ s.me.answer = none ∧ s.cellPending s.who 16 = false ∧ s.HomeFree (s.accessOf (s.xr 1) 4 e) :=
  ⟨world kTracked (withX 20 9 0) id, page kTracked, by constructor <;> decide, by decide, by decide, by decide, by decide, by decide,
    by constructor <;> decide⟩

theorem witness_FencesAndWaitsComplete : ∃ s t u : State,
    (s.released (fld s.me.csr.msScope 0 3) (fld s.me.csr.msScope 8 8) = true ∧ s.me.csr.mie &&& s.mipOf s.cur = 0) ∧
    t.released (fld t.me.csr.msScope 0 3) (fld t.me.csr.msScope 8 8) = false ∧ u.me.csr.mie &&& u.mipOf u.cur ≠ 0 :=
  ⟨world kTracked id id, world kTracked (fun h => { h with postDie := 1 }) id,
    world kTracked (fun h => { h with csr := { h.csr with mie := 8, mip := 8 } }) id, by decide⟩

/-- A store of the hart that is not acknowledged. -/
def storing : State :=
  { world kUntracked id id with ops := [(0, .post ⟨h0, 0, 16, 16, 8, kUntracked, d0, kUntracked⟩ none 0 0 false [] false)] }

theorem witness_FencesAndWaitsComplete_stores : (world kTracked id id).cellStores c0 = false ∧ storing.cellStores storing.myCell = true ∧
    (world kTracked (fun h => { h with answer := some .done }) id).me.answer = some .done := by decide

theorem witness_CsrAccesses : ∃ s t : State,
    (s.csrLegal 0x800 true = true ∧ s.csrLegal 0xCC0 false = true ∧ s.me.spec = none ∧ s.me.mode = .u ∧ s.csrLegal 0x300 false = false ∧
      s.csrLegal 0xC00 false = true ∧ s.csrLegal 0xC01 false = false ∧ s.csrLegal 0xCC0 true = false) ∧
    t.me.mode = .m ∧ t.csrLegal 0x300 true = true ∧ t.me.csr.mcounteren = 0 ∧ t.csrLegal 0xC00 false = true :=
  ⟨world kTracked id id, world kTracked (fun h => { h with mode := .m, csr := { h.csr with mcounteren := 0 } }) id, by decide⟩

theorem witness_TrapsAndReturns : ∃ s t u : State,
    (s.me.spec = none ∧ (s.getCell s.myCell).dbg.getLsbD 3 = false) ∧
    (t.me.spec = none ∧ (t.getCell t.myCell).dbg.getLsbD 3 = true ∧ (t.getCell t.myCell).dbg.getLsbD 17 = false ∧
      (t.getCell t.myCell).haltCause = 0) ∧
    u.me.mode = .m ∧ u.me.csr.repState.getLsbD 35 = true ∧ u.peekInsn .u (u.me.csr.mepc - BitVec.ofNat 64 (4 * 0) - 4) = some 0x0000A07B :=
  ⟨world kTracked id id, world kTracked id (fun c => { c with dbg := 8 }),
    { world kTracked (fun h => { h with mode := .m, csr := { h.csr with mepc := 0x104, repState := 2 ^ 35 + 2 } }) id with
      dies := [(d0, { Die.reset d0 with ptroot := [(0, 1)], tlb := [page kTracked] })], mem := [(0x100, 0x7B), (0x101, 0xA0)] }, by decide⟩

theorem witness_TrapEntryAndReturn : ∃ s t : State,
    (s.me.spec = none ∧ s.interruptible h0 = true ∧ s.impreciseDue h0 = false ∧ (s.getHart h0).mode = .u ∧
      (s.mipOf h0 &&& (s.getHart h0).csr.mie).getLsbD 16 = true ∧
        (∀ d ∈ [11, 3, 19, 18, 17], (s.mipOf h0 &&& (s.getHart h0).csr.mie).getLsbD d = false)) ∧
    t.me.mode = .m ∧ t.me.loop = none :=
  ⟨world kTracked (fun h => { h with csr := { h.csr with mie := 0x10000, mip := 0x10000 } }) id, world kTracked (fun h => { h with mode := .m }) id,
    by decide⟩

theorem witness_MachineInstructions : ∃ s t : State,
    (s.me.mode = .m ∧ s.basePending s.who = false ∧ s.me.postDie = 0 ∧ s.me.postPkg = 0 ∧ s.me.postSys = 0 ∧ (s.getCell s.myCell).elog = []) ∧
    (t.me.mode = .m ∧ t.me.postDie ≠ 0 ∧ (t.getCell t.myCell).elog = [5, 6]) ∧ (world kTracked id id).me.mode = .u ∧
      (world kTracked id id).me.spec = none :=
  ⟨world kTracked (fun h => { h with mode := .m }) id, world kTracked (fun h => { h with mode := .m, postDie := 1 }) (fun c => { c with elog :=
    [5, 6] }), by decide⟩

/-- Four words at 0x60 in the L1. -/
def fourWords (owned : Bool) (c : Cell) : Cell :=
  { c with l1 := [(0x60, ⟨owned, 1⟩), (0x68, ⟨owned, 2⟩), (0x70, ⟨owned, 3⟩), (0x78, ⟨owned, 4⟩)] }

theorem witness_HandleMovesComplete : ∃ (s : State) (e : TlbEntry),
    let at' := fun i : Nat => s.xr 1 + BitVec.ofNat 64 (8 * i)
    let w := fun i : Nat => State.wordOf (e.phys (at' i).toNat)
    (s.xr 1).toNat % 32 = 0 ∧ s.me.answer = none ∧ s.me.op = none ∧ (∀ i < 4, s.ownPending s.who (w i) = false ∧ s.cellPending s.who (w i) = false) ∧
    (∀ i < 4, e.phys (at' i).toNat % 8 = 0) ∧ (∀ i < 4, s.l1Get s.myCell (w i) = some ⟨true, BitVec.ofNat 64 (i + 1)⟩) ∧
    (∀ i < 4, s.Reaches .load (at' i) 8 e) ∧
    (∀ i < 4, s.Reaches .store (at' i) 8 e ∧ s.kindAt e (e.phys (at' i).toNat) = kTracked) ∧ s.lockedWord (s.xr 1) 4 = none := by
  refine ⟨world kTracked (withX 0x60 0 0) (fourWords true), page kTracked, by decide, by decide, by decide, by decide, by decide, by decide,
    fun i h => ?_, fun i h => ⟨?_, ?_⟩, by decide⟩ <;> rcases i with _ | _ | _ | _ | i <;> first | omega | decide | (constructor <;> decide)

theorem witness_PostsComplete : ∃ (s t u : State) (e : TlbEntry),
    (State.postCount s.me 2 ≠ 0) ∧
    (State.postCount t.me 2 = 0 ∧ t.me.answer = none ∧ t.Reaches .load (t.xr 1 + wordOfInt (sx 8 0xFF * 2 ^ 3)) 8 e ∧
      t.ownPending t.who 8 = false ∧ t.l1Get t.myCell 8 = some ⟨false, 7⟩) ∧
    u.Reaches .store (u.xr 1 + wordOfInt (sx 8 0xFF * 2 ^ 3)) 8 e ∧ u.Reaches .amo (u.xr 1) 8 e ∧
    (∀ va ∈ [8, 16], (u.accessOf va 8 e).qa % 8 = 0 ∧ u.cellPending u.who (State.wordOf (u.accessOf va 8 e).qa) = false ∧
        u.postClass (u.accessOf va 8 e).kind (u.accessOf va 8 e).qa (u.accessOf va 8 e).home = 1 ∧ State.postCount u.me 1 = 0 ∧
        u.l1Get u.myCell (State.wordOf (u.accessOf va 8 e).qa) = none) :=
  ⟨world kTracked (fun h => { h with postPkg := 1 }) id, world kTracked (withX 16 0 0) (withL1 8 false 7), world kTracked (withX 16 9 0) id,
    page kTracked, by decide, ⟨by decide, by decide, by constructor <;> decide, by decide⟩, by constructor <;> decide,
    by constructor <;> decide, by
      intro va h
      rcases List.mem_cons.mp h with rfl | h
      · exact ⟨by decide, by decide, by decide, by decide, by decide⟩
      · obtain rfl := List.mem_singleton.mp h
        exact ⟨by decide, by decide, by decide, by decide, by decide⟩⟩

theorem witness_OrderingInstructionsComplete : ∃ (s t : State) (e : TlbEntry),
    (s.released 3 0 = true ∧ State.postCount s.me 1 = 0 ∧ s.ownedIn s.myCell (s.xr 1).toNat (s.xr 2).toNat = [(16, ⟨true, 7⟩)] ∧
      s.yieldsNow s.myCell 16 = true ∧ s.l1Get s.myCell 16 = some ⟨true, 7⟩ ∧ lookup 16 s.words = some (.registered s.myCell) ∧
      s.Reaches .load (s.xr 1) 1 e ∧ s.homeCut (s.accessOf (s.xr 1) 8 e) = false) ∧
    t.released 4 0 = false ∧ t.ownedIn t.myCell (t.xr 1).toNat (t.xr 2).toNat = [] ∧ ∃ u : State,
      u.ownedIn u.myCell (u.xr 1).toNat (u.xr 2).toNat = [(16, ⟨true, 7⟩)] ∧ u.yieldsNow u.myCell 16 = false ∧ u.me.op = none :=
  ⟨{ world kTracked (withX 16 8 0) (withL1 16 true 7) with words := [(16, .registered c0)] },
    world kTracked (fun h => { h with postSys := 1 }) id, page kTracked,
    ⟨by decide, by decide, by decide, by decide, by decide, by decide, by constructor <;> decide, by decide⟩, by decide, by decide,
    { world kTracked (withX 16 8 0) (withL1 16 true 7) with words := [(16, .registered c0)], busy := [(16, 0)] }, by decide, by decide,
    by decide⟩

/-- Handles of `n` FP32 scratch blocks from a block on, and of `n` blocks at an address. -/
def spadH (block n : Nat) : BitVec 256 := BitVec.ofNat 256 (4096 * block + 2 * 2 ^ 76 + 0x08 * 2 ^ 80 + n * 2 ^ 96)
def blkH (va gen n : Nat) : BitVec 256 :=
  BitVec.ofNat 256 (va + gen * 2 ^ 64 + 2 ^ 76 + 0x08 * 2 ^ 80 + 7 * 2 ^ 88 + n * 2 ^ 96 + 2 ^ 128)

/-- The hart with handles in h1 and h2. -/
def withH (a b : BitVec 256) (h : Hart) : Hart := { h with h := (h.h.set 1 a).set 2 b }

/-- The cell with scratch block 0 in a state, opened by a hart. -/
def withTile (st : TileState) (opener : Option Nat) (c : Cell) : Cell :=
  { c with ctx := { c.ctx with tiles := [(0, { Tile.reset with st := st, opener := opener })] } }

theorem noBlocks {o : Option Progress} (h : o = none) : ∀ ids bad, o ≠ some (.blocks ids bad) := by subst h; nofun

theorem witness_BlockReadsComplete : ∃ (s t : State) (es : Nat → TlbEntry),
    ((∀ ids bad, s.me.op ≠ some (.blocks ids bad)) ∧ 1 = hCount (s.hr 2) ∧ hCount (s.hr 1) = 1 ∧ s.SpadHandle 1 ∧ s.BlkHandle 2 .load 0 1 es ∧
      (∀ i < 1, (s.getTile s.myCell (spadTile (s.hr 1) i)).st = .empty)) ∧ t.me.op = some (.blocks [] []) :=
  ⟨world kBlock (withH (spadH 75 1) (blkH 0x1000 4 1)) id, world kBlock (fun h => { h with op := some (.blocks [] []) }) id, fun _ => page kBlock,
    ⟨noBlocks (by decide), by decide, by decide, by constructor <;> decide,
      ⟨by decide, by decide, by decide, by decide, fun i h => by
        obtain rfl : i = 0 := by omega
        constructor <;> decide, by decide⟩, by decide⟩, by decide⟩

theorem witness_BlockWritesComplete : ∃ (s t : State) (es : Nat → TlbEntry),
    ((∀ ids bad, s.me.op ≠ some (.blocks ids bad)) ∧ 1 = hCount (s.hr 2) ∧ hCount (s.hr 1) = 1 ∧ s.SpadHandle 1 ∧ s.BlkHandle 2 .store 1 1 es ∧
      (∀ i < 1, (s.getTile s.myCell (spadTile (s.hr 1) i)).st = .full)) ∧ t.me.op = some (.blocks [] []) :=
  ⟨world kBlock (withH (spadH 0 1) (blkH 0x1000 4 1)) (withTile .full none), world kBlock (fun h => { h with op := some (.blocks [] []) }) id,
    fun _ => page kBlock, ⟨noBlocks (by decide), by decide, by decide, by constructor <;> decide,
      ⟨by decide, by decide, by decide, by decide, fun i h => by
        obtain rfl : i = 0 := by omega
        constructor <;> decide, by decide⟩, by decide⟩, by decide⟩

theorem witness_ScratchInstructionsComplete : ∀ st ∈ [TileState.empty, .filling, .full, .draining, .refused, .poison],
    ∀ o ∈ [none, some 0], let s := world kTracked (fun h => withH (spadH 0 1) 0 (withX 511 511 512 h)) (withTile st o)
    s.me.spec = none ∧ handleBad (s.hr 1) = false ∧ hKind (s.hr 1) = kindSpad ∧ spadPast s.ctx.spad (s.hr 1) = none ∧
      (s.getTile s.myCell (spadTile (s.hr 1) 0)).st = st ∧ (s.getTile s.myCell (spadTile (s.hr 1) 0)).opener = o ∧ hCount (s.hr 1) = 1 ∧
      (s.xr 1).toNat ≤ 511 ∧ 511 < (s.xr 3).toNat ∧ State.readersOf s.ctx 0 = [] := by decide

theorem witness_BlockQuestionsAndFailures : ∃ (s t u : State) (es : Nat → TlbEntry),
    (s.me.op = none ∧ s.BlkHandle 2 .store 2 1 es ∧ s.BlkHandle 2 .store 1 1 es ∧ s.BlkHandle 2 .load 0 1 es) ∧
    (t.me.op = some (.asked 3) ∧ t.me.answer = some (.word 7)) ∧
    u.me.spec = none ∧ u.me.op = some (.blocks [] [(2, 26), (1, 24)]) ∧ (∀ p ∈ [(2, 26), (1, 24)], p ≠ (1, 24) → 1 < p.1) :=
  ⟨world kBlock (withH 0 (blkH 0x1000 4 1)) id, world kBlock (fun h => { h with op := some (.asked 3), answer := some (.word 7) }) id,
    world kBlock (fun h => { h with op := some (.blocks [] [(2, 26), (1, 24)]) }) id, fun _ => page kBlock,
    ⟨by decide, ⟨by decide, by decide, by decide, by decide, fun i h => by
        obtain rfl : i = 0 := by omega
        constructor <;> decide, by decide⟩, ⟨by decide, by decide, by decide, by decide, fun i h => by
        obtain rfl : i = 0 := by omega
        constructor <;> decide, by decide⟩, ⟨by decide, by decide, by decide, by decide, fun i h => by
        obtain rfl : i = 0 := by omega
        constructor <;> decide, by decide⟩⟩, by decide, by decide⟩

theorem witness_HandleInstructionsComplete : (world kTracked (withH (spadH 0 1) (blkH 0x1000 4 1)) id).me.spec = none := by decide

/-- A request for the block at 0x1000, of which the home knows `b`. -/
def asksBlock (req : BlockReq) (gen : Nat) (applied : Bool) (ans : Option BlockAns) (b : Block) (retries : Nat := 0) : State :=
  { world kBlock id (withTile .filling none) with
    ops := [(0, .block req (.hart h0) 0 0x1000 gen 0 0 0 0 retries applied ans)], blocks := [(0x1000, b)] }

theorem witness_PresenceTable (req : BlockReq) (b : Block) :
    let s := asksBlock req 4095 false none b
    pkgOfQa 0x1000 = State.reqPkg (.hart h0) ∧ s.inTurn 0 = true ∧ s.mem.wf = true ∧ s.getBlock 0x1000 = b ∧
      s.getOp 0 = some (.block req (.hart h0) 0 0x1000 4095 0 0 0 0 0 false none) ∧ (s.getDie (stackDie 0x1000)).sillage < 65536 :=
  ⟨by decide, rfl, rfl, rfl, rfl, by show 0 < 65536; decide⟩

theorem witness_PresenceTable_generations : genAhead 0 1 = 4095 ∧ genAhead 2047 0 = 2047 ∧ genAhead 0 2049 = 2047 ∧ genAhead 2048 0 = 2048 ∧
    genAhead 5 5 = 0 := by decide

theorem witness_BlockAnswersAndRetries (w : Word) : ∃ (s t u : State),
    (s.Plain h0 0 ∧ s.getOp 0 = some (.block (.read true) (.hart h0) 0 0x1000 0 0 0 0 0 0 true (some .stale)) ∧
      (s.getTile h0.cellId 0).st = .filling) ∧
    (t.Plain h0 0 ∧ t.getOp 0 = some (.block .clear (.hart h0) 0 0x1000 0 0 0 0 0 0 true (some (.coded w))) ∧
      ∀ ids bad, (t.getHart h0).op ≠ some (.blocks ids bad)) ∧
    u.getOp 0 = some (.block (.read true) (.hart h0) 0 0x1000 0 0 0 0 0 1 true none) ∧ (∀ x ∈ (u.getBlock 0x1000).list, x.op ≠ 0) ∧
      genAhead 0 (u.getBlock 0x1000).gen ≤ 2047 ∧
      ¬ (genAhead 0 (u.getBlock 0x1000).gen = 0 ∧ (u.getBlock 0x1000).filled = true) ∧ (u.getDie (stackDie 0x1000)).sillage < 65536 :=
  ⟨asksBlock (.read true) 0 true (some .stale) Block.reset, asksBlock .clear 0 true (some (.coded w)) Block.reset,
    asksBlock (.read true) 0 true none Block.reset 1, ⟨by constructor <;> decide, rfl, by decide⟩,
    ⟨⟨by decide, rfl, rfl⟩, rfl, noBlocks rfl⟩, rfl, by decide, by decide, by decide, by decide⟩

/-- An access of the hart to the word at 16, and a state with one operation in flight. -/
def acc16 (kind : Nat) : Access := ⟨h0, 0, 16, 16, 8, kind, d0, kind⟩
def flying (kind : Nat) (o : Op) : State := { world kind id id with ops := [(0, o)] }

theorem witness_LoadMissEvents : ∃ s t u v x : State,
    let a := acc16 kTracked
    let fine := fun y : State => y.flipping 16 = false ∧ y.wordBusy 16 (some 0) = false
    (a.kind = kTracked ∧ fine s ∧ s.getOp 0 = some (.load a false none) ∧ s.lockHit a.home a.part a.va.toNat a.size = false ∧
      lookup 16 s.words = none ∧ s.hostGone 16 = false ∧ s.isBad 16 = false) ∧
    (fine t ∧ t.getOp 0 = some (.load a false none) ∧ t.lockHit a.home a.part a.va.toNat a.size = false ∧ lookup 16 t.words = some .lost) ∧
    (fine u ∧ u.getOp 0 = some (.load a false none) ∧ u.lockHit a.home a.part a.va.toNat a.size = false ∧
      lookup 16 u.words = some (.registered c0) ∧ u.l1Get c0 16 = some ⟨true, 7⟩) ∧
    (fine v ∧ v.getOp 0 = some (.load a false none) ∧ v.lockHit a.home a.part a.va.toNat a.size = true) ∧
    fine x ∧ x.getOp 0 = some (.load a true (some (.word 7))) ∧ x.Plain a.hart a.part ∧ x.l1Get a.hart.cellId 16 = none :=
  ⟨flying kTracked (.load (acc16 kTracked) false none),
    { flying kTracked (.load (acc16 kTracked) false none) with words := [(16, .lost)] },
    { flying kTracked (.load (acc16 kTracked) false none) with
      words := [(16, .registered c0)], cells := [(c0, { Cell.reset with l1 := [(16, ⟨true, 7⟩)] })] },
    { flying kTracked (.load (acc16 kTracked) false none) with locks := [⟨d0, 0, 23, 99, 5, c0⟩] },
    flying kTracked (.load (acc16 kTracked) true (some (.word 7))), by decide, by decide, by decide, by decide, by decide, by decide,
      by constructor <;> decide, by decide⟩

/-- The loads that a home cannot serve for its memory, those that a lock holds too, and an answer that finds the word in the L1. -/
theorem witness_LoadMissEvents_more : ∃ s t u : State,
    let a := acc16 kTracked
    let fine := fun y : State => y.flipping 16 = false ∧ y.wordBusy 16 (some 0) = false ∧ y.hostGone 16 = false
    (fine s ∧ s.getOp 0 = some (.load a false none) ∧ s.lockHit a.home a.part a.va.toNat a.size = false ∧ lookup 16 s.words = none ∧
      s.isBad 16 = true) ∧
    (fine t ∧ t.getOp 0 = some (.load a false none) ∧ t.lockHit a.home a.part a.va.toNat a.size = true ∧ lookup 16 t.words = none ∧
      t.isBad 16 = true) ∧
    fine u ∧ u.getOp 0 = some (.load a false (some (.word 7))) ∧ u.Plain a.hart a.part ∧
      (u.getCell a.hart.cellId).l1.length < u.l1Words a.hart.cellId ∧ u.l1Get a.hart.cellId 16 = some ⟨true, 8⟩ :=
  ⟨{ flying kTracked (.load (acc16 kTracked) false none) with badWords := [16] },
    { flying kTracked (.load (acc16 kTracked) false none) with badWords := [16], locks := [⟨d0, 0, 23, 99, 5, c0⟩] },
    { world kTracked id (withL1 16 true 8) with ops := [(0, .load (acc16 kTracked) false (some (.word 7)))] },
    by decide, by decide, by decide, by decide, by constructor <;> decide, by decide, by decide⟩

theorem witness_RegistrationEvents : ∃ s t u x : State,
    let a := acc16 kTracked
    let other : CellId := ⟨0, 0, 1⟩
    let asked := fun y : State => y.flipping 16 = false ∧ y.getOp 0 = some (.register a 9 none false)
    (a.kind = kTracked ∧ a.home.pkg = a.hart.pkg ∧ a.home.pkg = other.pkg ∧ a.qa % a.size = 0 ∧ asked s ∧ s.wordBusy 16 (some 0) = false ∧
      s.lockHit a.home a.part a.va.toNat a.size = false ∧ lookup 16 s.words = none) ∧
    (asked t ∧ t.wordBusy 16 (some 0) = false ∧ t.lockHit a.home a.part a.va.toNat a.size = false ∧
      lookup 16 t.words = some (.registered other) ∧ other ≠ a.hart.cellId) ∧
    (asked u ∧ lookup 16 u.busy = some 0 ∧ u.forwardsOut 16 = false ∧ lookup 16 u.words = some (.registered other) ∧
      u.l1Get other 16 = some ⟨true, 7⟩) ∧
    x.flipping 16 = false ∧ x.getOp 0 = some (.register a 9 (some (.word 7)) true) ∧ x.Plain a.hart a.part ∧
      (x.getHart a.hart).status ≠ .tracked ∧ a.size ∈ [1, 2, 4, 8] ∧
      (∀ d, x.l1Get a.hart.cellId 16 ≠ some ⟨true, d⟩) :=
  ⟨flying kTracked (.register (acc16 kTracked) 9 none false),
    { flying kTracked (.register (acc16 kTracked) 9 none false) with words := [(16, .registered ⟨0, 0, 1⟩)] },
    { flying kTracked (.register (acc16 kTracked) 9 none false) with
      words := [(16, .registered ⟨0, 0, 1⟩)], busy := [(16, 0)], cells := [(⟨0, 0, 1⟩, { Cell.reset with l1 := [(16, ⟨true, 7⟩)] })] },
    flying kTracked (.register (acc16 kTracked) 9 (some (.word 7)) true), by decide, by decide, by decide, by decide, by decide,
    by constructor <;> decide, by decide, by decide, fun _ => by
      show (none : Option L1Word) ≠ _
      nofun⟩

/-- A registration that its hart still waits for, of a whole word and of four bytes of one, and its grant. -/
theorem witness_RegistrationEvents_waiting : ∀ n ∈ [8, 4],
    let a := { acc16 kTracked with size := n }
    (∀ ws ∈ [[], [(16, WordState.registered ⟨0, 0, 1⟩)]], let s := { flying kTracked (.register a 9 none false) with words := ws }
      s.getOp 0 = some (.register a 9 none false) ∧ s.wordBusy 16 (some 0) = false ∧ s.lockHit a.home a.part a.va.toNat a.size = false ∧
        a.hart.hart < 32 ∧ lookup a.hart.hart (s.getCell a.hart.cellId).preempted = none ∧ (s.getCell a.hart.cellId).ctx.part = a.part) ∧
    (let s := flying kTracked (.register a 9 (some (.word 7)) false)
     s.getOp 0 = some (.register a 9 (some (.word 7)) false) ∧ a.qa % a.size = 0 ∧ s.l1Get c0 16 = none ∧ a.hart.cellId = c0 ∧
       a.size ∈ [1, 2, 4, 8]) := by decide

/-- Registrations of part of a LOST word, of a hart that has gone on and of one that waits, and an answer that an owner has supplied. -/
theorem witness_RegistrationEvents_lost : ∀ early ∈ [true, false],
    let a := { acc16 kTracked with size := 4 }
    let s := { flying kTracked (.register a 9 none early) with words := [(16, .lost)] }
    s.getOp 0 = some (.register a 9 none early) ∧ s.wordBusy 16 (some 0) = false ∧ s.lockHit a.home a.part a.va.toNat a.size = false ∧
      s.flipping 16 = false ∧ lookup 16 s.words = some .lost := by decide

theorem witness_LoadMissEvents_supplied :
    let a := acc16 kTracked
    let s := { flying kTracked (.load a false (some (.supplied ⟨0, 0, 1⟩ 7))) with words := [(16, .registered ⟨0, 0, 1⟩)] }
    s.flipping 16 = false ∧ s.wordBusy 16 (some 0) = false ∧ s.getOp 0 = some (.load a false (some (.supplied ⟨0, 0, 1⟩ 7))) ∧
      a.hart.hart < 32 ∧ (s.getCell a.hart.cellId).ctx.part = a.part ∧ lookup a.hart.hart (s.getCell a.hart.cellId).preempted = none ∧
      s.l1Get c0 16 = none := by decide

/-- An atomic operation of a word that memory holds with an error, and an LR whose own replica is not behind. -/
theorem witness_AtomicAndEvictionEvents_bad :
    (let a := acc16 kTracked
     let s := { flying kTracked (.atomic a .add 9 none) with badWords := [16] }
     s.getOp 0 = some (.atomic a .add 9 none) ∧ s.isBad 16 = true ∧ s.hostGone a.qa = false ∧ s.wordBusy 16 (some 0) = false ∧
       lookup 16 s.words = none) ∧
    (let a := acc16 kReplicated
     let s := flying kReplicated (.atomic a .lr 0 none)
     s.getOp 0 = some (.atomic a .lr 0 none) ∧ s.isBad 16 = false ∧ a.kind = kReplicated ∧ lookup (a.hart.die, 16) s.replicas = none ∧
       s.wordBusy 16 (some 0) = false ∧ lookup 16 s.words = none) := by decide

theorem witness_AtomicAndEvictionEvents : ∀ k ∈ [AtomicKind.add, .lr], ∃ s t u : State,
    let a := acc16 kTracked
    (s.getOp 0 = some (.atomic a k 9 none) ∧ k ≠ .sc ∧ s.hostGone a.qa = false ∧ a.home.pkg = a.hart.pkg ∧ a.kind ≠ kReplicated ∧
      inHost a.qa = false ∧ a.qa % a.size = 0 ∧
      s.flipping a.qa = false ∧ s.wordBusy 16 (some 0) = false ∧ s.lockHit a.home a.part a.va.toNat a.size = false ∧
      lookup 16 s.words = none ∧ s.Plain a.hart a.part) ∧
    (t.l1Get c0 16 = some ⟨true, 7⟩ ∧ t.flipping 16 = false ∧ t.wordBusy 16 none = false ∧ lookup 16 t.words = some (.registered c0) ∧
      t.forwardsOut 16 = false) ∧ u.l1Get c0 16 = some ⟨false, 7⟩ := by
  intro k h
  have o : k = .add ∨ k = .lr := by simpa using h
  rcases o with rfl | rfl <;>
    exact ⟨flying kTracked (.atomic (acc16 kTracked) _ 9 none), { world kTracked id (withL1 16 true 7) with words := [(16, .registered c0)] },
    world kTracked id (withL1 16 false 7), ⟨rfl, by decide, by decide, by decide, by decide, by decide, by decide, by decide,
      by decide, by decide, by decide, by constructor <;> decide⟩, by decide, by decide⟩
/-- A gang of one cell with barrier 2 bound to the whole gang and harts 0 and 1. -/
def lpb0 (test : Bool) : Lpb where
  va := 0
  pcs := [0]
  masks := [3]
  width := 1
  height := 1
  spadKib := 320
  slices := 1
  test := test
  scatter := false
  retain := false
  order := 0
  swz := 0
  cap := 0
  kid := 0
  succ := 0
  groups := []
  barriers := [(2, 0, 3)]
  pipes := []
  textBase := 0
  textLen := 4
  hook := 0
def gang0 (test : Bool) (bars : List (Nat × (Nat × List HartId))) : Gang := ⟨0, 0, lpb0 test, [c0], d0, 0, 0, [c0], [], false, bars, []⟩

/-- The hart of `world` in that gang. -/
def inGang (test : Bool) (bars : List (Nat × (Nat × List HartId))) (f : Hart → Hart) : State :=
  { world kTracked f (fun c => { c with ctx := { c.ctx with gang := some 4 } }) with gangs := [(4, gang0 test bars)] }

theorem witness_StoresPerform_words : ∃ s t u v : State,
    let a := acc16 kTracked
    (s.getOp 0 = some (.post a (some 3) 255 9 false [] false) ∧ a.home.pkg = a.hart.pkg ∧ a.kind ≠ kReplicated ∧ s.flipping 16 = false ∧
      s.wordBusy 16 (some 0) = false ∧ s.lockHit a.home a.part a.va.toNat a.size = false ∧ s.hostGone 16 = false ∧ lookup 16 s.words = none) ∧
    (t.getOp 0 = some (.post a (some 3) 255 9 false [] true) ∧ t.Plain a.hart a.part ∧ (t.getHart a.hart).status = .running) ∧
    (u.getOp 0 = some (.post (acc16 kUntracked) none 255 9 false [] false) ∧ u.flipping 16 = false ∧ u.hostGone 16 = false) ∧
    (let w := flying kTracked (.post (acc16 kTracked) none 255 9 false [] false)
     w.getOp 0 = some (.post (acc16 kTracked) none 255 9 false [] false) ∧ lookup 16 w.words = none ∧ w.wordBusy 16 (some 0) = false ∧
       w.flipping 16 = false ∧ w.hostGone 16 = false) ∧
    v.getOp 0 = some (.post (acc16 kUntracked) none 255 9 false [] true) ∧ v.Plain h0 0 ∧ (v.getHart h0).status = .running ∧
      v.l1Get c0 16 = some ⟨false, 7⟩ :=
  ⟨flying kTracked (.post (acc16 kTracked) (some 3) 255 9 false [] false), flying kTracked (.post (acc16 kTracked) (some 3) 255 9 false [] true),
    flying kUntracked (.post (acc16 kUntracked) none 255 9 false [] false),
    { flying kUntracked (.post (acc16 kUntracked) none 255 9 false [] true) with
      cells := [(c0, { (flying kUntracked (.post (acc16 kUntracked) none 255 9 false [] true)).getCell c0 with l1 := [(16, ⟨false, 7⟩)] })] },
    by decide, ⟨by decide, by constructor <;> decide, by decide⟩, by decide, by decide, by decide, by constructor <;> decide, by decide,
    by decide⟩

theorem witness_StoresPerform_migration :
    let s : State := { world kTracked id id with
      dies := [(d0, { Die.reset d0 with bootState := 3, recent := [(5, 1)] })]
      ops := [(0, .load { acc16 kTracked with va := 0x5000, qa := 0x5000 } false none)]
      pool := [.loadMiss 0, .cellDone c0] }
    inHbm (5 * 4096) = true ∧ s.pagePinned 5 = false ∧ s.pageLocked 5 = false ∧ (∀ b ∈ s.busy, b.1 / 4096 ≠ 5) ∧ s.draws 5 1 = true ∧
      s.draws 5 2 = false ∧ s.pool.filter (s.forPage 5) = [.loadMiss 0] := by decide

theorem witness_StoresPerform_rows : ∃ s t u : State,
    let g : Seg := ⟨64, 2, kUntracked, d0, kUntracked⟩
    (s.getOp 0 = some (.row h0 0 2 c0 64 g 0 none false) ∧ s.locks = [] ∧ s.readHeld g = false ∧ s.ownedWords g = [] ∧ s.lostIn g = false ∧
      g.kind = kUntracked) ∧
    (t.getOp 0 = some (.row h0 0 2 c0 64 g 1 (some [1, 2]) false) ∧ t.mem.wf = true ∧ t.flipping g.qa = false ∧ t.hostGone g.qa = false) ∧
    u.getOp 0 = some (.flag h0 0 c0 1023 true) ∧ h0.hart < 64 ∧ (u.getCell c0).ctx.part = 0 ∧ (u.getCell c0).ctx.flagWaiters = [] ∧
      ∀ o ∈ u.ops, 0 ≤ o.1 :=
  ⟨flying kUntracked (.row h0 0 2 c0 64 ⟨64, 2, kUntracked, d0, kUntracked⟩ 0 none false),
    flying kUntracked (.row h0 0 2 c0 64 ⟨64, 2, kUntracked, d0, kUntracked⟩ 1 (some [1, 2]) false), flying kUntracked (.flag h0 0 c0 1023 true),
    by decide, by decide, by decide⟩

theorem witness_FlagsComplete : ∃ s t u : State,
    let fine := fun y : State => y.me.answer = none ∧ y.me.spec = none ∧ y.handOffReady = true ∧ y.flagsPending y.who = false
    (fine s ∧ s.gangTarget (s.xr 1) = some c0 ∧ s.gangTarget (s.xr 2) = none ∧ s.ctx.flagWaiters = [] ∧ s.ctx.flags = 0) ∧
    (fine t ∧ t.ctx.flags.getLsbD 1023 = true) ∧
    u.Plain (c0.hart 0) 0 ∧ u.Plain (c0.hart 1) 0 ∧ u.Plain (c0.hart 2) 0 ∧
      (u.getCell c0).ctx.flagWaiters = [(1023, 0, false), (1023, 1, true), (1023, 2, true)] :=
  ⟨inGang false [] (withX 0 1 0), world kTracked id (fun c => { c with ctx := { c.ctx with flags := BitVec.allOnes 1024 } }),
    world kTracked id (fun c => { c with ctx := { c.ctx with flagWaiters := [(1023, 0, false), (1023, 1, true), (1023, 2, true)] } }),
    ⟨by decide, by decide, by decide, by decide, rfl⟩, ⟨by decide, by
      show (BitVec.allOnes 1024).getLsbD 1023 = true
      simp⟩, by constructor <;> decide, by constructor <;> decide, by constructor <;> decide, by decide⟩

theorem witness_BarriersComplete : ∃ (s t u : State) (g g' : Gang),
    (s.me.spec = none ∧ s.barFor 1 = none ∧ s.barFor 2 = some (4, g, 0) ∧ s.released 1 0 = true ∧ s.cur ∉ (State.barPhase g 2).2 ∧
      lookup 2 s.me.bars = none ∧ s.me.op = none ∧ s.me.resumed = [] ∧ (s.xr 1).toNat = 2 ∧ 47 < (s.xr 2).toNat) ∧
    (t.me.spec = none ∧ t.barFor 2 = some (4, g', 0) ∧ t.released 1 0 = true ∧ t.cur ∈ (State.barPhase g' 2).2 ∧
      lookup 2 t.me.bars = some 7 ∧ (State.barPhase g' 2).1 ≤ 7) ∧
    u.barFor 2 = some (4, g', 0) ∧ u.released 1 0 = false ∧ lookup 2 u.me.bars = some 6 ∧ 6 < (State.barPhase g' 2).1 ∧
      u.me.baranyPtr < 8 :=
  ⟨inGang false [] (withX 2 48 0), inGang false [(2, 7, [h0])] (fun h => { h with bars := [(2, 7)] }),
    inGang false [(2, 7, [h0])] (fun h => { h with bars := [(2, 6)], postDie := 1 }), gang0 false [], gang0 false [(2, 7, [h0])],
    by decide, by decide, by decide⟩

/-- Every hart but 0 and 1 of the gang is gone from it or has arrived: hart 0 is the last. -/
theorem witness_BarriersComplete_last : let g := gang0 false [(2, 0, [⟨0, 0, 0, 1⟩])]
    ∀ m ∈ (State.groupCells g 0).flatMap fun c => (List.range 24).filterMap fun n =>
      if (State.barBinding g 2).any (fun x => x.2.testBit n) then some (c.hart n) else none,
    m = h0 ∨ m ∈ (State.barPhase g 2).2 ∨ m ∈ g.gone := by decide

/-- Barriers 2 and 3 of the whole gang, with an arrival of the hart pending at both: of 3, which has completed, or of none. -/
def twoBarriers (ended : Bool) : State :=
  let g : Gang := { gang0 false [(3, 8, [])] with lpb := { lpb0 false with barriers := [(2, 0, 3), (3, 0, 3)] } }
  { inGang false [] (fun h => { withX 2 0 0 h with bars := [(2, 0), (3, if ended then 7 else 8)] }) with gangs := [(4, g)] }

theorem witness_BarriersComplete_any :
    (∀ j < 2, (3 : Nat).testBit j = true → (2 + j ≤ 47 ∧ (twoBarriers true).barFor (2 + j) ≠ none)) ∧ (twoBarriers true).xr 1 = 2 ∧
    (twoBarriers true).me.baranyPtr = 0 ∧ ((twoBarriers true).gangOf c0).isSome ∧ lookup 2 (twoBarriers true).me.bars = some 0 ∧
    lookup 3 (twoBarriers true).me.bars = some 7 ∧
    ((twoBarriers true).gangOf c0).map (fun g => ((State.barPhase g 2).1, (State.barPhase g 3).1)) = some (0, 8) ∧
    lookup 3 (twoBarriers false).me.bars = some 8 ∧ (inGang false [] (withX 2 0 0)).barFor 2 ≠ none ∧
    lookup 2 (inGang false [] (withX 2 0 0)).me.bars = none := by decide

/-- The cell with a semaphore, a mutex and a queue register. -/
def withSync (s : Sem) (m : Mutex) (q : QueueReg) (c : Cell) : Cell :=
  { c with ctx := { c.ctx with sems := [(0, s)], mutexes := [(0, m)], queues := [(0, q)] } }

theorem witness_SemaphoresAndMutexesComplete : ∃ s t u v w : State,
    let fine := fun y : State => y.me.answer = none ∧ y.me.spec = none ∧ y.handOffReady = true ∧ y.me.service = false ∧ y.cur.hart < 32 ∧
      lookup y.cur.hart (y.getCell y.myCell).preempted = none
    (fine s ∧ s.getSem 0 = ⟨0, [], []⟩ ∧ (s.myMutex 0).holder = none) ∧
    (fine t ∧ t.getSem 0 = ⟨65535, [], []⟩ ∧ (t.myMutex 0).holder = some 5 ∧ 5 ≠ t.cur.hart) ∧
    (fine u ∧ u.getSem 0 = ⟨0, [5], []⟩ ∧ u.Plain (u.myCell.hart 5) u.ctx.part ∧ (u.myMutex 0).holder = some u.cur.hart ∧
      (u.myMutex 0).waiters = []) ∧
    (fine v ∧ (v.myMutex 0).holder = some v.cur.hart ∧ (v.myMutex 0).waiters = [5] ∧ v.Plain (v.myCell.hart 5) v.ctx.part) ∧
    fine w ∧ w.getSem 0 = ⟨65534, [], []⟩ :=
  ⟨world kTracked id id, world kTracked id (withSync ⟨65535, [], []⟩ ⟨some 5, []⟩ ⟨[], none, [], []⟩),
    world kTracked id (withSync ⟨0, [5], []⟩ ⟨some 0, []⟩ ⟨[], none, [], []⟩),
    world kTracked id (withSync ⟨0, [], []⟩ ⟨some 0, [5]⟩ ⟨[], none, [], []⟩),
    world kTracked id (withSync ⟨65534, [], []⟩ ⟨none, []⟩ ⟨[], none, [], []⟩), by decide, by decide,
    ⟨by decide, by decide, by constructor <;> decide, by decide, by decide⟩, ⟨by decide, by decide, by decide, by constructor <;> decide⟩, by decide⟩

theorem witness_QueueRegistersComplete : ∃ s t u v : State,
    let fine := fun y : State => y.me.answer = none ∧ y.me.spec = none ∧ y.handOffReady = true ∧ y.me.service = false
    (fine s ∧ s.getQueue 0 = ⟨[], none, [], []⟩) ∧ (fine t ∧ t.getQueue 0 = ⟨[1, 2, 3, 4, 5, 6, 7, 8], none, [], []⟩) ∧
    (fine u ∧ u.getQueue 0 = ⟨[1, 2, 3, 4, 5, 6, 7], none, [], []⟩) ∧
    fine v ∧ (v.getQueue 0).pipe = some (5, 6) ∧ 5 ≠ v.cur.hart ∧ 6 ≠ v.cur.hart :=
  ⟨world kTracked id id, world kTracked id (withSync ⟨0, [], []⟩ ⟨none, []⟩ ⟨[1, 2, 3, 4, 5, 6, 7, 8], none, [], []⟩),
    world kTracked id (withSync ⟨0, [], []⟩ ⟨none, []⟩ ⟨[1, 2, 3, 4, 5, 6, 7], none, [], []⟩),
    world kTracked id (withSync ⟨0, [], []⟩ ⟨none, []⟩ ⟨[], some (5, 6), [], []⟩), by decide, by decide, by decide, by decide⟩

/-- The cell with a message ring in channel 0. -/
def withRing (r : MsgRing) (c : Cell) : Cell := { c with ctx := { c.ctx with rings := [(0, r)] } }

theorem witness_MessagesComplete : ∃ s t u v w : State,
    let none' := fun y : State => y.me.op = none ∧ y.me.spec = none
    (s.me.op = some (.asked 3) ∧ s.me.answer = some .done) ∧
    (none' t ∧ t.gangTarget (t.xr 2) = none ∧ fld (t.xr 2) 24 5 = 0 ∧ fld (t.xr 3) 29 35 ≠ 0 ∧ t.channelTaken 0 = false ∧
      (t.getRing t.myCell t.ctx.part 0).used = 0) ∧
    (u.getRing u.myCell u.ctx.part 0 = ⟨31, 1, 2, [(31, 1), (0, 9)]⟩ ∧ (1 : Word).getLsbD 5 = false ∧ u.channelTaken 0 = false ∧
      u.me.op = some (.receiving 0 [9]) ∧ [9].length = fld 1 0 5) ∧
    (v.getOp 0 = some (.message h0 0 c0 0 [9] 0 false) ∧ (v.getCell c0).ctx.part = 0 ∧ v.getRing c0 0 0 = ⟨0, 0, 0, []⟩) ∧
    (w.getOp 0 = some (.message h0 0 c0 0 [9] 1 true) ∧ (w.getRing c0 0 0).used = 32) ∧
    ∃ x : State, x.me.op = some (.words [9]) ∧ x.me.spec = none ∧ x.gangTarget (x.xr 2) = none ∧ [9].length = fld (x.xr 2) 24 5 :=
  ⟨world kTracked (fun h => { h with op := some (.asked 3), answer := some .done }) id,
    world kTracked (withX 0 0 (BitVec.ofNat 64 (2 ^ 29))) id,
    world kTracked (fun h => { h with op := some (.receiving 0 [9]) }) (withRing ⟨31, 1, 2, [(31, 1), (0, 9)]⟩),
    flying kTracked (.message h0 0 c0 0 [9] 0 false),
    { world kTracked id (withRing ⟨0, 0, 32, []⟩) with ops := [(0, .message h0 0 c0 0 [9] 1 true)] },
    by decide, by decide, by decide, by decide, by decide,
    world kTracked (fun h => { withX 0 (BitVec.ofNat 64 (2 ^ 24)) 0 h with op := some (.words [9]) }) id, by decide⟩

theorem witness_ControlInstructionsComplete : ∃ (s t : State) (g : Gang),
    ((s.xr 1).toNat % 2 ^ 32 = 0 ∧ s.gangOf s.myCell = some g ∧ (s.xr 1).toNat < g.cells.length ∧ g.cells.length ≤ (s.xr 2).toNat) ∧
    (t.xr 1).toNat % 2 ^ 32 ≠ 0 ∧ t.me.loop = none ∧ t.me.mode = .u :=
  ⟨inGang false [] (withX 0 1 0), world kTracked (withX 4 0 0) id, gang0 false [], by decide⟩

theorem witness_LoopPasses : let l : Loop := ⟨0x100, 2, 3, 7, 1, 1, 15⟩
    let h := { Hart.reset with loop := some l, pc := 0x104 }
    h.loop = some l ∧ h.pc = l.start + BitVec.ofNat 64 (4 * l.idx) ∧ l.len ≤ l.idx + 1 ∧ l.rem = 1 ∧
      ({ l with idx := 0 } : Loop).idx + 1 < l.len ∧ 1 < ({ l with rem := 2 } : Loop).rem ∧ ({ l with rem := 2 } : Loop).rem < 2 ^ 32 ∧
      ({ l with rem := 0 } : Loop).rem = 0 ∧ { h with pc := 0x200 }.pc ≠ l.start + BitVec.ofNat 64 (4 * l.idx) := by decide

theorem witness_HartEndComplete : ∃ (s t u : State) (g : Gang),
    let fine := fun y : State => y.me.service = false ∧ y.cur.hart < 24 ∧ y.me.spec = none ∧
      lookup y.cur.hart (y.getCell y.myCell).preempted = none
    (fine s ∧ s.myMutex 0 = ⟨some s.cur.hart, []⟩ ∧ s.storesDone s.who s.ctx.part = true ∧
      (s.gangOf s.myCell).any (fun g => g.lpb.test) = false ∧
      (∀ p ∈ s.harts, p.1.cellId = s.myCell → p.1 = s.cur ∨ (p.2.status ≠ .running ∧ p.2.status ≠ .tracked)) ∧
      (s.getCell s.myCell).preempted = [] ∧ (s.xr 1).getLsbD 0 = true) ∧
    (fine t ∧ t.ctx.gang = some 4 ∧ lookup 4 t.gangs = some g ∧ (t.gangOf t.myCell).any (fun g => g.lpb.test) = true ∧
      t.storesDone t.who t.ctx.part = true ∧ t.copiesOut t.who t.ctx.part = false) ∧
    fine u ∧ (u.gangOf u.myCell).any (fun g => g.lpb.test) = true ∧ u.storesDone u.who u.ctx.part = false ∧
      u.tracked u.myCell (u.cur.hart / 8) < 4 :=
  ⟨world kTracked (withX (BitVec.ofNat 64 (5 * 2 ^ 32 + 1)) 0 0) (withSync ⟨0, [], []⟩ ⟨some 0, []⟩ ⟨[], none, [], []⟩), inGang true [] id,
    inGang true [] (fun h => { h with postSys := 1 }), gang0 true [], by decide, by decide, by decide⟩

theorem witness_InterruptsAndWakes : ∃ s t u v : State,
    ((world kTracked (fun h => { h with wait := some ⟨.answer, false⟩ }) id).getHart h0).wait = some ⟨.answer, false⟩ ∧
    (s.interruptible h0 = true ∧ s.impreciseDue h0 = false ∧ (s.getHart h0).mode = .u ∧ [11, 3, 19, 18, 17, 16] = [] ++ 11 :: [3, 19, 18, 17, 16] ∧
      (s.mipOf h0 &&& (s.getHart h0).csr.mie).getLsbD 11 = true) ∧
    (t.interruptible h0 = true ∧ t.impreciseDue h0 = false ∧ (t.getHart h0).mode = .m ∧ (t.getHart h0).csr.mstatus.getLsbD 3 = true ∧
      [11, 3, 19, 18, 17, 16] = [11, 3, 19, 18, 17] ++ 16 :: [] ∧ (t.mipOf h0 &&& (t.getHart h0).csr.mie).getLsbD 16 = true ∧
      ∀ d ∈ [11, 3, 19, 18, 17], (t.mipOf h0 &&& (t.getHart h0).csr.mie).getLsbD d = false) ∧
    ((u.getHart h0).wait = some ⟨.interrupt, true⟩ ∧ (u.getHart h0).csr.mie &&& u.mipOf h0 = 0) ∧
    (v.getHart h0).wait = some ⟨.interrupt, true⟩ ∧ (v.getHart h0).csr.mie &&& v.mipOf h0 ≠ 0 :=
  ⟨world kTracked (fun h => { h with csr := { h.csr with mie := 0x800, mip := 0x800 } }) id,
    world kTracked (fun h => { h with mode := .m, csr := { h.csr with mie := 0x10000, mip := 0x10000, mstatus := 8 } }) id,
    world kTracked (fun h => { h with wait := some ⟨.interrupt, true⟩ }) id,
    world kTracked (fun h => { h with wait := some ⟨.interrupt, true⟩, csr := { h.csr with mie := 0x10000, mip := 0x10000 } }) id,
    by decide, by decide, by decide, by decide, by decide⟩

/-- A fault record of the matrix unit. -/
def record0 : FaultRecord := ⟨6, 3, 0, 0, 0, 0x1000, 0, 0⟩

/-- A record whose place is in host memory, with the link down. -/
theorem witness_ImpreciseExceptionTaken_host :
    let e := { page kUntracked with pa := 2 ^ 51 }
    let s := { world kUntracked (fun h => { h with imprecise := some record0, csr := { h.csr with efPtr := 64 } }) id with
      dies := [(d0, { Die.reset d0 with ptroot := [(0, 1)], tlb := [e] })], pkgs := [(0, { Pkg.reset with hostUp := false })] }
    (s.getHart h0).imprecise = some record0 ∧ (s.getHart h0).mode = .u ∧ s.interruptible h0 = true ∧
      s.translateFor h0.dieId (s.getCell h0.cellId).ctx.part 0 (s.getHart h0).csr.efPtr = some e ∧ s.hostGone (e.phys 64) = true := by decide

theorem witness_ImpreciseExceptionTaken : ∃ (s t : State) (g : Seg),
    let fine := fun y : State => (y.getHart h0).imprecise = some record0 ∧ (y.getHart h0).service = false ∧ (y.getHart h0).mode = .u ∧
      y.interruptible h0 = true
    (fine s ∧ (s.getHart h0).csr.efPtr = 0 ∧ (s.getCell h0.cellId).elog.length < 16) ∧
    fine t ∧ t.mem.wf = true ∧ t.recordPlace h0 = some g ∧ t.readHeld g = false ∧ t.ownedWords g = [] ∧ g.kind = kUntracked ∧ g.qa % 64 = 0 :=
  ⟨world kUntracked (fun h => { h with imprecise := some record0 }) id,
    { world kUntracked (fun h => { h with imprecise := some record0, csr := { h.csr with efPtr := 64 } }) id with
      dies := [(d0, { Die.reset d0 with ptroot := [(0, 1)], tlb := [page kUntracked] })] }, ⟨64, 64, kUntracked, d0, kUntracked⟩,
    by decide, by decide⟩
/-- A handle of `n` scratch blocks of a format. -/
def spadF (fmt block n : Nat) : BitVec 256 := BitVec.ofNat 256 (4096 * block + 2 * 2 ^ 76 + fmt * 2 ^ 80 + n * 2 ^ 96)

/-- A VIRTA handle of a 1 x 1 kernel over a byte tensor, with the other fields 0. -/
def virtaH : BitVec 256 := BitVec.ofNat 256 (4 * 2 ^ 76 + 1 * 2 ^ 80 + 2 ^ 96 + 2 ^ 164 + 2 ^ 168)

/-- The hart with handles in h1 to h4, and 3 in ve.c. -/
def withHs (a b c q : BitVec 256) (h : Hart) : Hart :=
  { h with h := (((h.h.set 1 a).set 2 b).set 3 c).set 4 q, csr := { h.csr with veC := 3 } }

/-- A scratch operand passes its checks, and has a format and a number of blocks. -/
abbrev isAt (s : State) (r f n : Nat) : Prop :=
  (handleBad (s.hr r) = false ∧ hKind (s.hr r) = kindSpad ∧ spadPast s.ctx.spad (s.hr r) = none) ∧ hFmt (s.hr r) = f ∧ hCount (s.hr r) = n

theorem isAt_spad {s : State} {r f n : Nat} (h : isAt s r f n) : s.SpadHandle r := ⟨h.1.1, h.1.2.1, h.1.2.2⟩

/-- Nothing holds an engine instruction of the hart up. -/
abbrev clear (s : State) : Prop := s.me.spec = none ∧ s.hasBuffered s.who = false ∧ ∀ e < 3, s.queueFull s.myCell e = false

/-- A state whose hart has the handles in h1 to h4. -/
abbrev hands (a b c q : BitVec 256) : State := world kTracked (withHs a b c q) id

theorem witness_EngineInstructionsComplete_vector :
    (let s := hands (spadF 8 0 1) (spadF 8 1 1) (spadF 8 2 1) (spadF 5 3 1)
     clear s ∧ s.me.csr.veC.toNat = 3 ∧ isAt s 1 8 1 ∧ isAt s 2 8 1 ∧ isAt s 3 8 1 ∧ isAt s 4 5 1 ∧ isVec 8 = true ∧ isFp 8 = true ∧ isVec 5 = true) ∧
    (let s := hands (spadF 9 0 1) (spadF 8 1 2) 0 0
     clear s ∧ isAt s 1 9 1 ∧ isAt s 2 8 2 ∧ 1 = (2 * vecBits 9 + vecBits 8 - 1) / vecBits 8) := by decide

theorem witness_EngineInstructionsComplete_matrix : let s := hands (spadF 1 0 1) (spadF 1 75 1) (spadF 6 2 2) virtaH
    clear s ∧ isAt s 1 1 1 ∧ isAt s 2 1 1 ∧ isAt s 3 6 2 ∧ handleBad (s.hr 4) = false ∧ hKind (s.hr 4) = kindVirta ∧
      spadPast s.ctx.spad (s.hr 4) = none ∧ handleBad (s.hr 5) = true := by decide

theorem witness_EngineInstructionsComplete_conversion :
    (let s := hands (spadF 2 0 1) (spadF 8 1 2) 0 0
     clear s ∧ isAt s 1 2 1 ∧ isAt s 2 8 2) ∧
    (let s := hands (spadF 2 0 1) (spadF 16 1 1) (spadF 24 2 1) 0
     isAt s 1 2 1 ∧ isAt s 2 16 1 ∧ isAt s 3 24 1 ∧ isMx 16 = true ∧ 1 = (2048 + fmtElems 16 - 1) / fmtElems 16) ∧
    (let s := hands (spadF 8 0 1) (spadF 16 1 1) (spadF 24 2 1) (spadF 1 3 1)
     isAt s 1 8 1 ∧ isAt s 2 16 1 ∧ isAt s 3 24 1 ∧ isAt s 4 1 1 ∧ isWide 8 = true ∧
      1 = (1 * fmtElems 8 + fmtElems 16 - 1) / fmtElems 16 ∧ 1 = (1 * fmtElems 8 / 32 + 4095) / 4096) := by decide

theorem witness_EngineInstructionsComplete_layout :
    (let s := hands (spadF 6 0 1) (spadF 5 1 1) (spadF 6 2 1) 0
     isAt s 1 6 1 ∧ isAt s 2 5 1 ∧ isAt s 3 6 1) ∧
    (let s := hands (spadF 8 0 4) (spadF 8 4 4) 0 0
     isAt s 1 8 4 ∧ isAt s 2 8 4 ∧ fmtBits 8 = some 32 ∧ 4 * fmtElems 8 % 4096 = 0 ∧ 4 * fmtElems 8 % 1 = 0) := by decide

/-- A destination past the share of 76 blocks, by one block. -/
theorem witness_EngineInstructionsComplete_past : let s := hands (spadF 8 76 1) (spadF 8 1 1) (spadF 8 2 1) 0
    isAt s 2 8 1 ∧ isAt s 3 8 1 ∧ handleBad (s.hr 1) = false ∧ hKind (s.hr 1) = kindSpad ∧ spadPast s.ctx.spad (s.hr 1) = some 0 := by decide

/-- A command of the hart as it was captured at reset values, on the blocks 0, 1 and 2. -/
def cmd0 (i : Instr) (fmt : Nat) : Cmd :=
  { (world kTracked (withHs (spadF fmt 0 1) (spadF fmt 1 1) (spadF fmt 2 1) 0) id).mkCmd i with
    hd := spadF fmt 0 1, ha := spadF fmt 1 1, hb := spadF fmt 2 1 }

/-- The cell with a command at the head of a queue, block 0 empty and blocks 1 and 2 full. -/
def queued (e : Nat) (k : Cmd) (c : Cell) : Cell :=
  { c with ctx := { c.ctx with mq := if e = 0 then [k] else [], vq := if e = 1 then [k] else [], tiles := [(1, { Tile.reset with st :=
    .full }), (2, { Tile.reset with st := .full })] } }

/-- The premises about the command of an instruction that waits at the head of queue `e`, for a format. -/
abbrev startable (i : Instr) (e f : Nat) : Prop :=
  let k := cmd0 i f
  let s := world kTracked id (queued e k)
  (s.getCell c0).ctx.queue (engineOf k.instr) = [k] ∧ k.result = none ∧ k.rows = [] ∧ s.enginesPaused c0 = false ∧
    (∀ j ∈ k.reads, (s.getTile c0 j).st = .full) ∧ (∀ j ∈ k.writes, (s.getTile c0 j).st = .empty) ∧
    (hFmt k.hd = f ∧ hCount k.hd = 1) ∧ (hFmt k.ha = f ∧ hCount k.ha = 1) ∧ (hFmt k.hb = f ∧ hCount k.hb = 1) ∧ k.csr.fmt % 2 ^ 16 = 0x0101

theorem witness_EngineCommandsStart : startable (.vadd 1 2 3) 1 1 ∧ startable (.vmin 1 2 3) 1 5 ∧ startable (.vfill 1 2) 1 8 ∧
    startable (.vcopy 1 2) 1 8 ∧ startable (.vcmplt 1 2 3) 1 5 ∧ startable (.mmaz 0 2 3) 0 1 ∧ startable (.aclr 0) 0 1 :=
  ⟨⟨rfl, by decide +kernel⟩, ⟨rfl, by decide +kernel⟩, ⟨rfl, by decide +kernel⟩, ⟨rfl, by decide +kernel⟩, ⟨rfl, by decide +kernel⟩,
    ⟨rfl, by decide +kernel⟩, rfl, by decide +kernel⟩
/-- The cell with a queue of its matrix unit and of its vector engine, its commit buffer, and blocks in given states. -/
def engines (mq vq : List Cmd) (commit : List Buffered) (tiles : List (Nat × Tile)) (c : Cell) : Cell :=
  { c with ctx := { c.ctx with mq := mq, vq := vq, commit := commit, tiles := tiles } }

/-- An open prediction that flag 0 is 1. -/
def spec0 : Spec := ⟨0, some 0, true, false, 0x200, Vector.replicate 32 0, 0⟩

theorem witness_EngineCommandsEnd_commands :
    (let k := { cmd0 (.vadd 1 2 3) 8 with result := some ⟨[(0, none)], [], [], 0⟩ }
     let s := world kTracked id (engines [] [k] [] [(0, { Tile.reset with st := .filling })])
     (s.getCell c0).ctx.queue 1 = [k] ∧ k.result = some ⟨[(0, none)], [], [], 0⟩ ∧ (s.getCell c0).dbg.getLsbD 17 = false ∧
       (s.getTile c0 0).st = .filling ∧ ∀ j ∈ k.reads, (s.getTile c0 j).brel = none) ∧
    (let k := cmd0 (.vadd 1 2 3) 8
     let s := world kTracked (fun h => { h with status := .halted }) (engines [] [k] [] [])
     (s.getCell c0).ctx.queue 1 = [k] ∧ k.result = none ∧ k.rows = [] ∧ s.starved c0 k = true ∧
       ∀ j ∈ k.writes, (s.getTile c0 j).st = .empty) ∧
    (let k := cmd0 (.astat 5 0) 8
     let s := world kTracked id (engines [k] [] [] [])
     (s.getCell c0).ctx.queue 0 = [k] ∧ k.result = none ∧ s.enginesPaused c0 = false ∧ k.instr = .astat 5 0 ∧ k.src.cellId = c0 ∧
       k.part = (s.getCell c0).ctx.part ∧ k.src.hart < 32 ∧ lookup k.src.hart (s.getCell k.src.cellId).preempted = none) :=
  ⟨⟨rfl, rfl, by decide +kernel⟩, ⟨rfl, by decide +kernel⟩, ⟨rfl, by decide +kernel, by decide +kernel, rfl, by decide +kernel⟩⟩

theorem witness_EngineCommandsEnd_prediction :
    (let b : Buffered := ⟨cmd0 (.vadd 1 2 3) 8, 1, false, 1, []⟩
     let s := world kTracked (fun h => { h with spec := some spec0 }) (engines [] [] [b] [])
     (s.getCell c0).ctx.commit = [b] ∧ b.staged = false ∧ (s.getCell c0).ctx.queue b.eng = [] ∧ b.cmd.src = h0 ∧ s.queueFull c0 b.eng = false ∧
       b.eng = engineOf b.cmd.instr ∧ (s.getHart h0).spec = some spec0 ∧ s.resolvable h0 (s.getHart h0) = true ∧
       spec0.flag = some 0 ∧ (s.getCell c0).ctx.flags.getLsbD 0 ≠ spec0.expect) ∧
    (let s := world kTracked (fun h => { h with spec := some { spec0 with expect := false } }) id
     (s.getHart h0).spec = some { spec0 with expect := false } ∧ s.resolvable h0 (s.getHart h0) = true ∧
       (s.getCell c0).ctx.flags.getLsbD 0 = false ∧ (s.getCell c0).ctx.commit = [] ∧ s.Plain h0 (s.getCell c0).ctx.part) :=
  ⟨⟨rfl, rfl, rfl, rfl, by decide +kernel, rfl, rfl, by decide +kernel⟩, rfl, by decide +kernel, by decide +kernel, rfl, by constructor <;> decide⟩

/-- A branch on scalars that resolves as predicted, one that resolves the other way, and a flag that has been handed over since. -/
theorem witness_EngineCommandsEnd_scalar : ∀ sp ∈ [{ spec0 with flag := none }, { spec0 with flag := none, expect := false },
      { spec0 with expect := false, handed := true }],
    let s := world kTracked (fun h => { h with spec := some sp }) id
    h0.cellId = c0 ∧ (s.getHart h0).spec = some sp ∧ s.resolvable h0 (s.getHart h0) = true ∧ (s.getCell c0).ctx.commit = [] ∧
      (s.getCell c0).ctx.flags.getLsbD 0 = false ∧ h0.hart < 32 ∧ lookup h0.hart (s.getCell c0).preempted = none := by decide +kernel

/-- A buffered command that its prediction commits, and one that a committed command keeps from being staged. -/
theorem witness_EngineCommandsEnd_buffer :
    (let b : Buffered := ⟨cmd0 (.vadd 1 2 3) 8, 1, false, 1, []⟩
     let s := world kTracked (fun h => { h with spec := some { spec0 with expect := false } }) (engines [] [] [b] [])
     (s.getHart h0).spec = some { spec0 with expect := false } ∧ s.resolvable h0 (s.getHart h0) = true ∧
       (s.getCell c0).ctx.flags.getLsbD 0 = false ∧ (s.getCell c0).ctx.commit = [b] ∧ b.cmd.src = h0 ∧ s.queueFull c0 b.eng = false ∧
       b.eng = engineOf b.cmd.instr ∧ b.tag = 1 ∧ b.rows = [] ∧ b.cmd.rows = []) ∧
    (let b : Buffered := ⟨cmd0 (.vadd 1 2 3) 8, 1, false, 1, []⟩
     let s := world kTracked id (engines [] [cmd0 (.vadd 1 2 3) 8] [b] [])
     (s.getCell c0).ctx.commit = [b] ∧ (s.getCell c0).ctx.queue b.eng = [cmd0 (.vadd 1 2 3) 8]) :=
  ⟨⟨rfl, by decide +kernel, by decide +kernel, rfl, rfl, by decide +kernel, rfl, rfl, rfl, rfl⟩, rfl, rfl⟩

/-- The words of an `aclr 0` descriptor, and of one of `mma 0` with the handles at 32 and 64. -/
theorem witness_EngineCommandsEnd_descriptors :
    (let s := { inGang false [] (withX 64 0 0) with harts :=
        [(h0, { withX 64 0 0 Hart.reset with
          status := .running
          op := some (.words (BitVec.ofNat 64 ((encode (.aclr 0)).getD 0) :: List.replicate 7 0)) })] }
     ∃ ws, s.me.op = some (.words ws) ∧ (s.xr 1).toNat % 64 = 0 ∧ s.gangTarget (s.xr 2) = some c0 ∧ fld (ws.getD 0 0) 32 32 = 0 ∧
       fld (ws.getD 5 0) 16 48 = 0 ∧ ws.getD 6 0 = 0 ∧ ws.getD 7 0 = 0 ∧ encode (.aclr 0) = some (ws.getD 0 0).toNat ∧ ws.length = 8) ∧
    (let ws : List Word := BitVec.ofNat 64 ((encode (.mma 0 0 0)).getD 0) :: 32 :: 64 :: List.replicate 13 0
     fld (ws.getD 0 0) 32 32 = 0 ∧ encode (.mma 0 0 0) = some (ws.getD 0 0).toNat ∧ ws.length = 16 ∧ ws.getD 1 0 ≠ 0 ∧ ws.getD 2 0 ≠ 0 ∧
       (ws.getD 1 0).toNat % 32 = 0 ∧ (ws.getD 2 0).toNat % 32 = 0) :=
  ⟨⟨_, rfl, by decide +kernel, by decide +kernel, by decide +kernel, by decide +kernel, by decide +kernel, by decide +kernel, by decide +kernel,
    by decide +kernel⟩, by decide +kernel⟩

theorem witness_EngineCommandsEnd_received :
    let k := { cmd0 (.aclr 0) 8 with hd := 0, hb := 0 }
    let s := flying kTracked (.matrix h0 0 c0 5 k)
    let t := { s with cells := [(c0, { (s.getCell c0) with ctx := { (s.getCell c0).ctx with capin := 5 } })] }
    t.getOp 0 = some (.matrix h0 0 c0 5 k) ∧ (t.getCell c0).ctx.part = 0 ∧ 5 = (t.getCell c0).ctx.capin ∧ t.allHalted c0 = false ∧
      k.instr = .aclr 0 ∧ k.rows = [] ∧ t.queueFull c0 0 = false ∧ t.me.answer = none ∧ t.hasBuffered t.who = false ∧
      ∀ o ∈ t.ops, 0 ≤ o.1 :=
  ⟨rfl, rfl, rfl, by decide +kernel, rfl, rfl, by decide +kernel⟩

/-- The cell with copy channel 0 in a state. -/
def withChan (v : Channel) (c : Cell) : Cell := { c with ctx := { c.ctx with chans := [(0, v)] } }

/-- A channel that runs a chain of the hart. -/
def busy0 : Channel := { Channel.reset with busy := true, owner := some h0 }

theorem witness_ChannelInstructionsComplete : ∃ s t u v : State,
    let fine := fun y : State => y.me.answer = none ∧ y.me.spec = none
    (fine s ∧ (s.xr 2).toNat % 64 = 0 ∧ s.xr 2 ≠ 0 ∧ (s.xr 3).toNat % 64 ≠ 0 ∧ s.xr 1 = 0 ∧ s.handOffReady = true ∧
      (s.getChan s.myCell 0).busy = false) ∧
    (fine t ∧ t.handOffReady = true ∧ (t.getChan t.myCell 0).busy = true ∧ (t.getChan t.myCell 0).cur = none) ∧
    (fine u ∧ (u.getChan u.myCell 0).busy = true ∧ (u.getChan u.myCell 0).cur ≠ none) ∧
    fine v ∧ v.xr 2 = 0 ∧ v.handOffReady = true ∧ (v.getChan v.myCell 0).busy = false :=
  ⟨world kTracked (withX 0 64 65) id, world kTracked id (withChan busy0),
    world kTracked id (withChan { busy0 with cur := some ⟨64, 1, 0, [], 2, 0, none, none, none, [], none, none, none, 0⟩ }), world kTracked id id,
    by decide +kernel, by decide +kernel, ⟨by decide +kernel, by decide +kernel, by
      show some _ ≠ none
      nofun⟩, by decide +kernel⟩

/-- A record that copies scratch block 0 to block 1, tells nobody and ends its chain; and one that sets flag 5. -/
def recCopy : BitVec 2048 := BitVec.ofNat 2048 (1 + (2 * 2 ^ 8 + 2 * 2 ^ 10) * 2 ^ 64 + 4096 * 2 ^ 192 + 4096 * 2 ^ 512)
def recFlag : BitVec 2048 := BitVec.ofNat 2048 (1 + 2 * 2 ^ 64 + 5 * 2 ^ 320)
def run0 (b : BitVec 2048) (stage next : Nat) : RecRun := ⟨4096, b, 9, [], stage, next, none, none, none, [], none, none, none, 0⟩

/-- The value of a computation that ended in one. -/
theorem ok_of {α : Type} {x : Except Nat α} {v : α} (h : x.toOption = some v) : x = .ok v := by cases x <;> simp_all [Except.toOption]

theorem witness_ChainsProceed_fetch :
    let s := world kTracked id (withChan { busy0 with fetch := 4096 })
    let v := s.getChan c0 0
    ∃ t, v.busy = true ∧ s.enginesPaused c0 = false ∧ v.stopping = false ∧ v.fetch ≠ 0 ∧ v.cache.length < 8 ∧
      s.recordPieces c0 0 v.mode v.fetch = .ok [⟨4096, 256, kTracked, d0, kTracked⟩] ∧
      s.tryLock [] s.nextId c0 0 v.fetch (v.fetch + 255) [⟨4096, 256, kTracked, d0, kTracked⟩] = .held t :=
  ⟨_, rfl, by decide +kernel, rfl, by decide +kernel, by decide +kernel, ok_of (by decide +kernel), rfl⟩

theorem witness_ChainsProceed_chain :
    (∀ v ∈ [{ busy0 with stopping := true }, { busy0 with unowned := true }, busy0, { busy0 with cache := [(4096, recCopy, 9)] }],
      let s := world kTracked id (withChan v)
      (s.getChan c0 0).busy = true ∧ s.enginesPaused c0 = false ∧ (s.getChan c0 0).failed = none ∧ (s.getChan c0 0).fetch = 0) :=
  by decide +kernel

/-- The cell with a record under way in channel 0 and block 0 in a state. -/
def moving (r : RecRun) (st : TileState) (c : Cell) : Cell :=
  { c with ctx := { c.ctx with chans := [(0, { busy0 with cur := some r })], tiles := [(0, { Tile.reset with st := st })] } }

theorem witness_ChainsProceed_start :
    (let s := world kTracked id (moving (run0 recCopy 0 0) .full)
     s.recordBadFor c0 0 recCopy = false ∧ Rec.kind recCopy = 0 ∧ ∀ i ∈ State.filledTiles recCopy, (s.getTile c0 i).st = .empty) ∧
    (let s := world kTracked id (moving (run0 recFlag 0 0) .full)
     s.recordBadFor c0 0 recFlag = false ∧ Rec.kind recFlag = 2) ∧
    (let s := world kTracked id (moving (run0 (recFlag ||| 2) 0 0) .full)
     s.recordBadFor c0 0 (recFlag ||| 2) = true) := by decide +kernel

theorem witness_ChainsProceed_move :
    (let s := world kTracked id (moving (run0 recCopy 2 0) .full)
     0 < State.units recCopy ∧ Rec.sform recCopy = 2 ∧ Rec.dform recCopy = 2 ∧ (s.getTile c0 (Rec.saddr recCopy / 4096 + 0)).st = .full) ∧
    State.units recCopy ≤ 1 ∧
    (let s := world kTracked id (moving (run0 recCopy 3 1) .full)
     s.postsOut c0 (run0 recCopy 3 1) (Rec.scope recCopy) (Rec.group recCopy) = false) := by decide +kernel

theorem witness_ChainsProceed_end :
    (let s := { world kTracked id (moving (run0 recFlag 4 0) .full) with ops := [(9, .lock c0 0 0 4096 4351 [⟨4096, 256, kTracked, d0, kTracked⟩] 1)] }
     s.getOp 9 = some (.lock c0 0 0 4096 4351 [⟨4096, 256, kTracked, d0, kTracked⟩] 1) ∧ s.readHeld ⟨4096, 8, kTracked, d0, kTracked⟩ = false) ∧
    Rec.kind recFlag = 2 ∧ Rec.frem recFlag = false ∧ Rec.tdec recFlag = false ∧ Rec.flag recFlag = 5 ∧
    (let s := world kTracked id (moving (run0 recFlag 7 0) .full)
     (s.getCell c0).ctx.flagWaiters = [] ∧ (s.getChan c0 0).owner = some h0 ∧ h0.hart < 32 ∧
       lookup h0.hart (s.getCell h0.cellId).preempted = none) := by
  decide +kernel

/-- A made descriptor of 8 entries at 64, with counts and its ring at 1024; its scope is the cell. -/
def withQueue (ctl reserved published popped : Nat) : State :=
  { world kTracked (withX 64 (BitVec.ofNat 64 (2 ^ 48)) 8) id with
    mem := [(64, 1024), (72, ctl), (80, reserved), (88, published), (96, popped)].foldl
      (fun m p => Memory.setWord m p.1 (BitVec.ofNat 64 p.2)) [] }

/-- What the statement asks of the place of the descriptor, in a form that can be decided. -/
abbrev queueFine (s : State) : Prop :=
  s.me.spec = none ∧ s.me.answer = none ∧ s.kindAt (page kTracked) 64 = kTracked ∧ (∀ w ∈ State.pieceWords 64 64, s.cellPending s.who w = false) ∧
    s.flipping 64 = false ∧ (∀ p ∈ s.busy, p.1 < 64 ∨ 64 + 64 ≤ p.1) ∧ s.lockHit (s.homeOf kTracked 64) s.ctx.part 64 64 = false ∧
    (∀ p ∈ s.words, p.1 < 64 ∨ 64 + 64 ≤ p.1) ∧ s.mem.wf = true ∧ s.xr 1 = 64 ∧ (s.xr 1).toNat % 64 = 0 ∧
    tlbFind (s.getCell s.myCell).tlb s.ctx.part s.cur.pkg 64 = some (page kTracked) ∧ leafAllows .amo s.me.mode (page kTracked) = true ∧
    s.rootValid s.cur.dieId s.ctx.part s.cur.pkg = true ∧ State.heldIn s.held s (64, 64 + 64) = false ∧ (∀ b ∈ s.badWords, b < 64 ∨ 64 + 64 ≤ b)

theorem queueFine_at {s : State} (h : queueFine s) : s.QueueAt 64 (page kTracked) := by
  obtain ⟨-, -, hk, hi, hs, hb, hl, hw, hm, -, -, ht, ha, hr, hh, hg⟩ := h
  exact ⟨⟨by decide, by decide, by decide, hr, ht, ha, by decide, by decide⟩, hk, by decide, hi, hs, hh, hb, hl, hw, hg, hm⟩

theorem witness_HardwareQueuesComplete_made :
    (let s := withQueue 3 5 5 5
     queueFine s ∧ (s.hqAt 64).invalid = false ∧ (s.hqAt 64).made = false) ∧
    (let s := withQueue 2 0 0 0
     queueFine s ∧ (s.hqAt 64).invalid = true) ∧
    (let s := withQueue (2 ^ 32 + 3) 0 0 0
     queueFine s ∧ (s.hqAt 64).made = true ∧ (s.hqAt 64).cell = s.myCell ∧ (s.hqAt 64).scope = 0 ∧ (s.hqAt 64).cap = 8 ∧
       s.released 0 (s.hqAt 64).group = true ∧ s.poppersOf 64 = []) :=
  ⟨by decide +kernel, by decide +kernel, by decide +kernel⟩

/-- Tickets reserved, published and popped, at the last ones before the count wraps and where the queue is full. -/
theorem witness_HardwareQueuesComplete_counts : ∀ p ∈ [(2 ^ 48 - 1, 2 ^ 48 - 1, 2 ^ 48 - 1), (8, 1, 0), (1, 1, 0), (0, 0, 0)],
    let s := withQueue (2 ^ 32 + 3) p.1 p.2.1 p.2.2
    queueFine s ∧ (s.hqAt 64).rsv.toNat = p.1 ∧ (s.hqAt 64).pub.toNat = p.2.1 ∧ (s.hqAt 64).pop.toNat = p.2.2 ∧ (s.hqAt 64).pend = 0 ∧
      (s.xr 3).toNat = 8 ∧ fld (s.xr 2) 48 7 = 1 ∧ fld (s.xr 2) 55 9 = 0 := by decide +kernel

/-- An entry whose page the cell's TLB holds, and one that no TLB holds. -/
theorem witness_HardwareQueuesComplete_entry :
    (let s := withQueue (2 ^ 32 + 3) 1 1 0
     let ea := (s.hqAt 64).entryVa (s.hqAt 64).pop.toNat
     (s.atQueue 64).entryRead s.who s.ctx.part ea (page kTracked) = .value 0 ∧ ea.toNat % 8 = 0 ∧
       s.walked s.cur.dieId s.ctx.part s.cur.pkg ea = true ∧
       tlbFind (s.getCell s.myCell).tlb s.ctx.part s.cur.pkg ea.toNat = some (page kTracked)) ∧
    (let s := { withQueue (2 ^ 32 + 3) 1 1 0 with mem := Memory.setWord (withQueue (2 ^ 32 + 3) 1 1 0).mem 64 0x1000000 }
     let ea := (s.hqAt 64).entryVa (s.hqAt 64).pop.toNat
     ea = 0x1000000 ∧ s.walked s.cur.dieId s.ctx.part s.cur.pkg ea = true ∧ s.me.walkFault = none ∧
       tlbFind (s.getCell s.myCell).tlb s.ctx.part s.cur.pkg ea.toNat = none ∧
       tlbFind (s.getDie s.cur.dieId).tlb s.ctx.part s.cur.pkg ea.toNat = none) :=
  ⟨⟨rfl, by decide +kernel, by decide +kernel, by decide +kernel⟩, by decide +kernel⟩

/-- A task of the gang, ready or not. -/
def task0 (count : Nat) (ready : Option Nat) (taken : Option HartId) (succ : Nat) : Task :=
  ⟨0x1000, 0, 4, c0, count, 0, 0, false, succ, ready, false, taken, true, []⟩

/-- The hart in its gang, with tasks on the die. -/
def withTasks (l : List (Nat × Task)) (a b : Word) : State :=
  { inGang false [] (withX a b 0) with dies := [(d0, { Die.reset d0 with bootState := 3, ptroot := [(0, 1)], tlb := [page kTracked], tasks := l })] }

/-- A task record at 64 in the L1, of the owner's cell, with a dependence count. -/
def withRecord (w2 : Word) (owned : Bool) : State :=
  { inGang false [] (withX 64 0 0) with cells := [(c0, { Cell.reset with
      ctx := { CellCtx.reset with part := 0, spad := 76, gang := some 4 }
      tlb := [page kTracked]
      l1 := [(64, ⟨owned, 0⟩), (72, ⟨owned, 0⟩), (80, ⟨owned, w2⟩), (88, ⟨owned, 0⟩)] })] }

theorem witness_TasksComplete_spawn : ∀ p ∈ [(0xFFFFFFFF * 2 ^ 32, false), (5 * 2 ^ 16, true)],
    let w : Word := BitVec.ofNat 64 p.1
    let s := withRecord w true
    let at' := fun i : Nat => (64 : Word) + BitVec.ofNat 64 (8 * i)
    let ws := [0, 0, w, 0]
    s.me.spec = none ∧ s.me.answer = none ∧ s.me.op = none ∧ s.xr 1 = 64 ∧ s.recordBad ws = p.2 ∧
      (∀ i < 4, s.kindAt (page kTracked) (at' i).toNat = kTracked ∧ s.cellPending s.who (State.wordOf (at' i).toNat) = false ∧
        s.l1Get s.myCell (State.wordOf (at' i).toNat) = some ⟨true, ws.getD i 0⟩ ∧ (page kTracked).phys (at' i).toNat = 64 + 8 * i ∧
        tlbFind (s.getCell s.myCell).tlb s.ctx.part s.cur.pkg (at' i).toNat = some (page kTracked)) ∧
      s.released (s.recordTask 64 ws).scope (s.recordTask 64 ws).group = true ∧ (s.recordTask 64 ws).owner.pkg = s.cur.pkg ∧
      (s.recordTask 64 ws).owner.die < 16 ∧ (s.getDie (s.recordTask 64 ws).owner.dieId).tasks.length < 16384 := by decide +kernel

theorem witness_TasksComplete_dependences :
    (let s := withTasks [] 3 0
     s.me.spec = none ∧ s.me.answer = none ∧ s.getTask 0 (s.xr 1).toNat = none) ∧
    (∀ p ∈ [(1, (-1 : Word), 0), (65534, 1, 65535)], let s := withTasks [(3, task0 p.1 none none 0xFFFFFFFF)] 3 p.2.1
      s.getTask 0 (s.xr 1).toNat = some (task0 p.1 none none 0xFFFFFFFF) ∧ s.released 0 0 = true ∧
        (p.1 : Int) + (s.xr 2).toInt = p.2.2) ∧
    (let s := withTasks [(3, task0 0 (some 0) (some h0) 4), (4, task0 1 none none 0xFFFFFFFF)] 3 0
     s.getTask 0 (s.xr 1).toNat = some (task0 0 (some 0) (some h0) 4) ∧ s.who = h0 ∧ s.getTask 0 4 = some (task0 1 none none 0xFFFFFFFF)) := by
  decide +kernel

theorem witness_TasksComplete_next :
    (let t := task0 0 (some 1) none 0xFFFFFFFF
     let t' := task0 0 (some 2) none 0xFFFFFFFF
     let s := withTasks [(16383, t'), (0, t)] 0 0
     s.me.op = none ∧ s.cur.die < 16 ∧ (s.getDie s.cur.dieId).tasks = [(16383, t'), (0, t)] ∧ s.mayTake t = true ∧ s.mayTake t' = true ∧
       t.owner = s.myCell ∧ State.inExtent (s.gangOf s.myCell) t.owner t.scope t.group s.myCell = true ∧ s.getTask 0 0 = some t ∧ t.ready.isSome ∧
       t.taken = none ∧ t.nosteal = false) ∧
    (let s := withTasks [] 0 0
     s.nextTask = none ∧ s.tasksLeft = false) ∧
    (let s := withTasks [(0, task0 1 none none 0xFFFFFFFF)] 0 0
     s.nextTask = none ∧ s.tasksLeft = true) := by decide +kernel
/-- A one-stage table, and its image. -/
def table1 : List Word := 1 :: List.replicate 47 0
def solver1 : SolverTable := imageTable table1

/-- An image of one sample from time 0 to 2 in steps of 1, with one slice and one element. -/
def set1 (h : Word) : List Word :=
  [BitVec.ofNat 64 (1 + 2 ^ 16 + 2 ^ 32), 1, 0, 0, 0, 0, 0, 0, BitVec.ofNat 64 (0x3F800000 * 2 ^ 32), 0x40000000, 0, 0, 0, 0, 0, 0] ++
    (List.range 10).flatMap fun _ => [0, h, 0, 0]
def sample1 (st : SampleState) (parts : List (Nat × Nat)) : Sample := { imageSample (set1 0) 8 with st := st, parts := parts }
def armed (x : Sample) (slices err : Nat) : SampleSet := ⟨0, slices, 1, 1, 0, 0, 0, h0, 0, err, [x], 0⟩

/-- The hart with solver words loaded, and a die with an armed set. -/
def solving (a b : Word) (op : Option Progress) (sets : List (Nat × SampleSet)) (decisions : List Decision) : State :=
  { world kBlock (fun h => { withX a b 0 h with op := op }) id with
    dies := [(d0, { Die.reset d0 with
      bootState := 3
      ptroot := [(0, 1)]
      tlb := [page kBlock]
      tables := [(0, solver1)]
      sets := sets
      decisions := decisions })] }

theorem witness_SolverComplete_tables :
    (let s := solving 64 0 (some (.words table1)) [] []
     s.me.spec = none ∧ (s.xr 1).toNat % 64 = 0 ∧ s.me.op = some (.words table1) ∧ table1.length = 48 ∧ tableBad table1 = false ∧
       ((s.getDie (s.solverDie (s.xr 2))).sets.any fun p => p.2.table == fld (s.xr 2) 0 2) = false) ∧
    tableBad (9 :: List.replicate 47 0) = true ∧ fld (0 : Word) 0 16 = 0 := by decide +kernel

/-- The second word of a BLK handle of one block. -/
def blkWord : Word := BitVec.ofNat 64 (2 ^ 12 + 8 * 2 ^ 16 + 2 ^ 32)

theorem witness_SolverComplete_arm :
    (let s := solving 64 0 (some (.words (set1 blkWord))) [] []
     s.me.op = some (.words (set1 blkWord)) ∧ fld ((set1 blkWord).getD 0 0) 0 16 = 1 ∧ (set1 blkWord).length = 8 + 48 * 1 ∧
       setBad (set1 blkWord) = false ∧ lookup (fld (s.xr 2) 2 2) (s.getDie (s.solverDie (s.xr 2))).tables = some solver1 ∧
       sampleBad solver1 (set1 blkWord) 8 = false ∧ lookup (fld (s.xr 2) 0 2) (s.getDie (s.solverDie (s.xr 2))).sets = none) ∧
    (let s := solving 64 0 none [(0, armed (sample1 .ready []) 1 0)] []
     (lookup (fld (s.xr 2) 0 2) (s.getDie (s.solverDie (s.xr 2))).sets).any SampleSet.outstanding = true) ∧
    setBad (513 :: List.replicate 7 0) = true := by decide +kernel

theorem witness_SolverComplete_ask :
    (∀ p ∈ [(sample1 .collecting [], 1, 0), (sample1 .collecting [(0, 5)], 2, 0), (sample1 .done [], 1, 0), (sample1 .failed [], 1, 7)],
      let s := solving 0 1 none [(0, armed p.1 p.2.1 p.2.2)] []
      lookup (fld (s.xr 1) 8 2) (s.getDie (s.solverDie (s.xr 1))).sets = some (armed p.1 p.2.1 p.2.2) ∧
        (armed p.1 p.2.1 p.2.2).samples[fld (s.xr 1) 0 8]? = some p.1 ∧
        lookup (armed p.1 p.2.1 p.2.2).table (s.getDie (s.solverDie (s.xr 1))).tables = some solver1 ∧ solver1.s = 1 ∧
        fld (s.xr 1) 10 4 < 10 ∧ fld (s.xr 1) 16 16 < p.2.1) ∧
    (let s := solving 0x2400 0 none [] []
     lookup (fld (s.xr 1) 8 2) (s.getDie (s.solverDie (s.xr 1))).sets = none ∧ fld (0x2800 : Word) 10 4 = 10 ∧
       fld (0x91 : Word) 4 4 = 9 ∧ fld (0x91 : Word) 0 4 = 1 ∧ fld (0xC1 : Word) 4 4 = 12 ∧ fld (0xD0 : Word) 4 4 = 13 ∧ fld (0xF0 : Word) 4 4 = 15 ∧
       fld (0x11 : Word) 4 4 = 1 ∧ fld (0x12 : Word) 0 4 = 2 ∧ solver1.s < fld (0x81 : Word) 4 4 ∧ fld (0x81 : Word) 4 4 = 8) := by decide +kernel

theorem witness_SolverComplete_decision :
    (let s := solving 0 0 none [(0, armed (sample1 .ready [(0, 0)]) 1 0)] []
     lookup 0 (s.getDie d0).sets = some (armed (sample1 .ready [(0, 0)]) 1 0) ∧ lookup 0 (s.getDie d0).tables = some solver1 ∧
       (armed (sample1 .ready [(0, 0)]) 1 0).err = 0 ∧
       (verdict solver1 (armed (sample1 .ready [(0, 0)]) 1 0) (sample1 .ready [(0, 0)])).failed = false ∧
       (verdict solver1 (armed (sample1 .ready [(0, 0)]) 1 0) (sample1 .ready [(0, 0)])).acc = true) ∧
    (let v := { armed (sample1 .done []) 1 0 with samples := [sample1 .done [], sample1 .ready [(0, 0)]] }
     let s := solving 0 0 none [(0, v)] []
     lookup 0 (s.getDie d0).sets = some v ∧ v.err = 0 ∧ (∀ x ∈ v.samples, x.st ≠ .collecting) ∧ ∃ x ∈ v.samples, x.st = .ready) ∧
    (verdict solver1 (armed (sample1 .ready [(0, 0x7F800000)]) 1 0) (sample1 .ready [(0, 0x7F800000)])).failed = true := by decide +kernel

/-- Two decisions wait to be sent again, and the block of the first does not translate. -/
theorem witness_SolverComplete_stopped : let k : Decision := ⟨0, 0, 0, 2 ^ 30, 0, 0, none⟩
    let k' : Decision := ⟨0, 0, 0, 4096, 1, 0, none⟩
    let s := solving 0 0 none [(0, armed (sample1 .collecting []) 1 0)] [k, k']
    (s.getDie d0).decisions = [k, k'] ∧ k' ≠ k ∧ lookup 0 (s.getDie d0).sets = some (armed (sample1 .collecting []) 1 0) ∧
      (armed (sample1 .collecting []) 1 0).arm = k.arm ∧
      (s.updDie d0 fun x => { x with decisions := [k'] }).translateFor d0 k.part d0.pkg (BitVec.ofNat 64 k.va) = none := by decide +kernel

theorem witness_SolverComplete_retry : let k : Decision := ⟨0, 0, 0, 4096, 0, 0, none⟩
    let s := solving 0 0 none [] [k]
    (s.getDie d0).decisions = [k] ∧
      (s.updDie d0 fun x => { x with decisions := [] }).translateFor d0 k.part d0.pkg (BitVec.ofNat 64 k.va) = some (page kBlock) ∧
      (page kBlock).kind = kBlock ∧ physFault (page kBlock) ((page kBlock).phys k.va) = false := by decide +kernel
/-- A page of block space at 2 MiB. -/
def blockPage : TlbEntry := { page kBlock with va := 2097152, pa := 2097152 }

/-- Queue 0 of the die, mapped with 16 commands at 0x1000, its tail at 0x2000 and its head at 0x2008, with one command in progress. -/
def feWorld (r : Running) (mem : Memory) (f : FeQueue → FeQueue) (g : Die → Die) : State :=
  { world kTracked id id with
    mem := mem
    dies := [(d0, g { Die.reset d0 with
      bootState := 3
      ptroot := [(0, 1)]
      tlb := [page kTracked, blockPage]
      queueTable := [(0, [0x1000, 0x2000, 0x2008, BitVec.ofNat 64 (1 + 4 * 2 ^ 16 + 2 ^ 32)])]
      queues := [(0, f { FeQueue.reset with running := [(7, r)] })] })] }

/-- A command or node of the queue, with its words. -/
def cmd (ws : List Word) (node : Option Nat) (step : Nat) : Running := ⟨3, 0x10C0, ws, node, none, step, [], false, false, none, 0⟩

/-- The access comes to these bytes; the store is made. -/
theorem bytes_of {x : State.FeGot} {l : List Byte} (h : (match x with | .bytes l' => decide (l' = l) | _ => false) = true) : x = .bytes l := by
  cases x <;> simp_all
theorem done_of {x : State.FeSent} (h : (match x with | .done _ => true | _ => false) = true) : ∃ a, x = .done a := by cases x <;> simp_all
theorem fault_of {x : State.FeGot} (h : (match x with | .fault => true | _ => false) = true) : x = .fault := by cases x <;> simp_all
theorem refused_of {x : State.FeSent} (h : (match x with | .fault => true | _ => false) = true) : x = .fault := by cases x <;> simp_all

theorem witness_FrontEndCommandsComplete_draw :
    let s := feWorld (cmd [] none 0) [(0x1000, 9)] (fun v => { v with running := [], tail := 1 }) id
    let e := (s.qEntry d0 0).getD ⟨0, 0, 0, 0, 0, 0⟩
    s.dieRuns d0 = true ∧ (s.getDie d0).ferry = false ∧ s.ferrying d0 = false ∧ s.readyQueues d0 = [(0, 1)] ∧ s.qEntry d0 0 = some e ∧
      (s.getFe d0 0).graph = none ∧
      (s.updDie d0 fun v => { v with lottery := State.lotteryNext v.lottery }).feRead d0 e.part (State.commandVa e 0) 64 =
        .bytes (9 :: List.replicate 63 0) ∧ reservedAt false (State.wordsOf 8 (9 :: List.replicate 63 0)) = none :=
  ⟨by decide +kernel, by decide +kernel, by decide +kernel, by decide +kernel, by decide +kernel, by decide +kernel, bytes_of (by decide +kernel),
    by decide +kernel⟩

theorem witness_FrontEndCommandsComplete_tail :
    let s := feWorld (cmd [] none 0) [(0x2000, 16)] id id
    let e := (s.qEntry d0 0).getD ⟨0, 0, 0, 0, 0, 0⟩
    s.dieRuns d0 = true ∧ s.qEntry d0 0 = some e ∧ s.readTail d0 e = some 16 ∧
      ((16 : Word) - BitVec.ofNat 64 (s.getFe d0 0).head).toNat ≤ 2 ^ e.log2n := by decide +kernel

/-- The die with the tail word registered to the front end, and out of range by one command. -/
def tailWorld : State :=
  { feWorld (cmd [] none 0) [(0x2000, 17)] id id with
    words := [(0x2000, .registered (feCell d0))]
    cells := [(feCell d0, { Cell.reset with l1 := [(0x2000, ⟨true, 17⟩)] })] }

theorem witness_FrontEndCommandsComplete_range : let s := tailWorld
    let e := (s.qEntry d0 0).getD ⟨0, 0, 0, 0, 0, 0⟩
    s.tailHeld d0 e = true ∧ s.chanPiece (feCell d0) e.part .m .load e.taila.toNat 8 = .ok ⟨0x2000, 8, kTracked, d0, kTracked⟩ ∧
      s.qEntry d0 0 = some e ∧ s.readTail d0 e = some 17 ∧ 2 ^ e.log2n < ((17 : Word) - BitVec.ofNat 64 (s.getFe d0 0).head).toNat ∧
      (s.getFe d0 0).outOfRange = false ∧
      ∃ a, ((s.setFe d0 0 { s.getFe d0 0 with outOfRange := true }).logDie d0 false 50 0 0 0 0).feStore d0 e.part e.heada
        (BitVec.ofNat 64 (s.getFe d0 0).head) = .done a ∧ a.tailHeld d0 e = true :=
  ⟨by decide +kernel, ok_of (by decide +kernel), by decide +kernel, by decide +kernel, by decide +kernel, by decide +kernel, _, rfl, by decide +kernel⟩

/-- The die with a store of the front end to 0x3000 under way. -/
def feStoring (r : Running) : State :=
  { feWorld r [] id id with ops := [(0, .post ⟨(feCell d0).hart 0, 0, 0x3000, 0x3000, 8, kUntracked, d0, kUntracked⟩ none 0 0 false [] true)] }

theorem witness_FrontEndCommandsComplete_acked :
    (let r := cmd [3, 0x3000, 1, 0, 0] none 1
     let s := feStoring r
     s.getRun d0 0 7 = some r ∧ r.finish = none ∧ fld (r.word 0) 0 4 = 3 ∧ r.step = 1 ∧ (r.word 1).toNat % 8 = 0 ∧ r.word 1 ≠ 0 ∧
       s.feAcked d0 (s.qPart d0 0) (r.word 1) = false) ∧
    (∀ r ∈ [cmd [3, 0x3000, 1, 0, 0] none 1, cmd [3, 0x3000, 1, 0, 1] none 1, cmd [5, 0, 0, 0x3000] none 1],
      let s := feWorld r [] id id
      s.getRun d0 0 7 = some r ∧ r.finish = none ∧ r.step = 1 ∧ s.feAcked d0 (s.qPart d0 0) 0x3000 = true ∧
        (fld (r.word 0) 0 4 = 3 ∧ r.word 1 = 0x3000 ∨ fld (r.word 0) 0 4 = 5 ∧ r.word 3 = 0x3000)) := by decide +kernel

/-- Commands and nodes that the clauses name, each in progress and not finished; its operation and its first words. -/
theorem witness_FrontEndCommandsComplete_commands : ∀ p ∈ [(cmd [2, 65] none 0, 2), (cmd [2, 0] none 0, 2), (cmd [2, 64] none 0, 2),
      (cmd [2, 64] none 1, 2), (cmd [3, 4] none 0, 3), (cmd [3, 0x3000, 1, 0, 0] none 0, 3), (cmd [3, 0x1000000, 1, 0, 0] none 0, 3),
      (cmd [3, 0, 0, 0, 1] none 1, 3), (cmd [4, 0x3000, 1, 3, 1] none 0, 4), (cmd [4, 0x200000, 0, 0, 2] none 0, 4), (cmd [4, 0, 0, 0, 3] none 0, 4),
      (cmd [7, 64, BitVec.ofNat 64 (2 ^ 16 * 3 + 3)] none 0, 7), (cmd [7, 64, BitVec.ofNat 64 (2 ^ 16 * 3 + 2)] none 0, 7),
      (cmd [BitVec.ofNat 64 (5 + 2 ^ 24 * 2), 0x3000] (some 1) 0, 5), (cmd [6] (some 1) 0, 6), (cmd [8, 5] none 0, 8), (cmd [8, 5] none 1, 8),
      (cmd [9] none 0, 9), (cmd [5, 0x3000, 0, 8] none 0, 5), (cmd [5, 0x3000, 0, 4] none 0, 5)],
    let s := feWorld p.1 [] id id
    s.getRun d0 0 7 = some p.1 ∧ p.1.finish = none ∧ fld (p.1.word 0) 0 4 = p.2 ∧ (s.getDie d0).feCopy = none ∧
      (s.getChan (feCell d0) 0).busy = false ∧ s.berthing d0.pkg 5 = [] ∧ (s.getFe d0 0).graph = none ∧
      (∀ x ∈ (s.getFe d0 0).running, x.1 = 7 ∨ p.1.idx ≤ x.2.idx) := by decide +kernel

theorem witness_FrontEndCommandsComplete_store : let s := feWorld (cmd [3, 0x3000, 1, 0, 0] none 0) [] id id
    (∃ a, s.feStore d0 (s.qPart d0 0) 0x3000 1 = .done a) ∧ s.feStore d0 (s.qPart d0 0) 0x8000000 1 = .fault ∧ (s.feRing d0 5).thr ≤ 1 ∧
      (s.feRing d0 5).count = 0 ∧ s.feRead d0 (s.qPart d0 0) 0x3000 8 = .bytes (List.replicate 8 0) ∧
      s.chanBlock (feCell d0) 0 .m .load d0.pkg 0x200000 = .ok 0x200000 ∧ s.chanPiece (feCell d0) 0 .m .store 0x3000 8 =
        .ok ⟨0x3000, 8, kTracked, d0, kTracked⟩ ∧ s.feRead d0 (s.qPart d0 0) 0x8000000 64 = .fault :=
  ⟨done_of (by decide +kernel), refused_of (by decide +kernel), by decide +kernel, by decide +kernel, bytes_of (by decide +kernel),
    ok_of (by decide +kernel), ok_of (by decide +kernel), fault_of (by decide +kernel)⟩

theorem witness_FrontEndCommandsComplete_words : let s := { feWorld (cmd [] none 0) [] id id with cells := [] }
    let g : Seg := ⟨0x3000, 8, kUntracked, d0, kUntracked⟩
    let u := { s with dies := [(d0, { Die.reset d0 with ptroot := [(0, 1)], tlb := [page kUntracked] })] }
    u.chanPiece (feCell d0) 0 .m .store 0x3000 8 = .ok g ∧ u.readHeld g = false ∧ u.lockHit g.home 0 0x3000 8 = false ∧
      u.hostGone g.qa = false ∧ u.ownedWords g = [] ∧ g.qa % 8 = 0 :=
  ⟨ok_of (by decide +kernel), by decide +kernel⟩

/-- A graph of three nodes, of which node 1 ran after node 0. -/
def graph0 (faulted : Bool) : GraphRun := ⟨7, 64, 3, 1, [0], faulted⟩

theorem witness_FrontEndCommandsComplete_nodes :
    (let s := feWorld (cmd [BitVec.ofNat 64 (5 + 2 ^ 24 * 2), 0x3000] (some 1) 0) [] (fun v => { v with graph := some (graph0 false) }) id
     (s.getFe d0 0).graph = some (graph0 false) ∧ s.feReadHome d0 (s.qPart d0 0) 0x3000 = .bytes (List.replicate 8 0) ∧
       fld (BitVec.ofNat 64 (5 + 2 ^ 24 * 2)) 24 16 = 2 ∧ 2 < (graph0 false).n ∧ 1 < 2) ∧
    (let s := feWorld (cmd [9] none 0) [] (fun v => { v with running := (6, { cmd [9] none 0 with idx := 2 }) :: v.running }) id
     ∃ p ∈ (s.getFe d0 0).running, p.1 ≠ 7 ∧ p.2.idx < 3) :=
  ⟨⟨by decide +kernel, bytes_of (by decide +kernel), by decide +kernel⟩, _, List.mem_cons_self .., by decide +kernel⟩

theorem witness_FrontEndCommandsComplete_swap :
    let s := { feWorld (cmd [8, 5] none 0) [] id id with cells := [(c0, { Cell.reset with berth := some ({ CellCtx.reset with part := 5 }, []) })] }
    s.berthing d0.pkg 5 = [c0] ∧ (s.getCell c0).swap = 0 := by decide +kernel

theorem witness_FrontEndCommandsComplete_end : let s := feWorld (cmd [9] none 0) [] (fun v => { v with head := 3 }) id
    ∃ a b e, s.qEntry d0 0 = some e ∧ (s.getFe d0 0).completed = [] ∧ (s.getFe d0 0).head = 3 ∧
      s.feStore d0 0 (0x10C0 + 56) (BitVec.ofNat 64 (0 % 256 * 256 + 1)) = .done a ∧ a.feAcked d0 0 (0x10C0 + 56) = true ∧
      a.feStore d0 0 e.heada (BitVec.ofNat 64 (3 + 1)) = .done b ∧ (b.passHead d0 0 (3 + 1, [])).feAcked d0 0 e.heada = true ∧
      (cmd [9] none 0).told = 0 ∧ (cmd [9] none 0).idx = 3 := by
  exact ⟨_, _, ⟨0x1000, 0x2000, 0x2008, 1, 4, 0⟩, by decide +kernel, by decide +kernel, by decide +kernel, rfl, by decide +kernel, rfl,
    by decide +kernel, rfl, rfl⟩

theorem witness_FrontEndCommandsComplete_rings :
    (let s := feWorld (cmd [9] none 0) [] id fun v => { v with rings := [(5, ⟨4, 9, 10, 2, 0⟩)] }
     (s.feRing d0 5).count ≠ 0 ∧ (s.feRing d0 5).dl ≠ 0 ∧ (s.feRing d0 63).count = 0) := by decide +kernel

/-- The header of an image at 0x4000 with one empty section, whose table follows it. -/
def header0 : List Byte := [0x54, 0x52, 0x4C, 0x53, 1, 0, 1, 0] ++ List.replicate 8 0 ++ [64] ++ List.replicate 47 0

theorem witness_FrontEndCommandsComplete_load :
    let r := cmd [5, 0x4000, 0, 0x3000] none 0
    let s := feWorld r (Memory.writeBytes [] 0x4000 header0) id id
    let x : Section := ⟨0, 0, 0, 0, false, false⟩
    ∃ a b, s.getRun d0 0 7 = some r ∧ s.feRead d0 (s.qPart d0 0) 0x4000 64 = .bytes header0 ∧ Image.headerBad header0 = none ∧
      s.feRead d0 (s.qPart d0 0) (0x4000 + 64) 32 = .bytes (List.replicate 32 0) ∧ s.feRead d0 (s.qPart d0 0) (0x4000 + 0) 0 = .bytes [] ∧
      Image.num header0 6 2 = 1 ∧ Image.num header0 8 4 = 0 ∧ Image.num header0 12 4 = 0 ∧ Image.num header0 16 8 = 64 ∧
      (Image.entries 32 1 (List.replicate 32 0)).mapM Image.sectionOf = some [x] ∧ (Image.entries 16 0 []).mapM Image.blockOf = some [] ∧
      s.sectionBytes d0 (s.qPart d0 0) 0x4000 [x] = .inr [(x, [])] ∧ (([(x, ([] : List Byte))].flatMap fun p => Image.pagesOf p.1).eraseDups) = [] ∧
      fld ((lookup 0 (s.getDie d0).ptroot).getD 0) 0 1 = 1 ∧ s.feStore d0 (s.qPart d0 0) 0x3000 0 = .done a ∧
      s.feStore d0 (s.qPart d0 0) 0x3000 (BitVec.ofNat 64 (Image.num header0 40 8)) = .done b ∧ r.step = 0 := by
  obtain ⟨a, ha⟩ := done_of (x :=
    (feWorld (cmd [5, 0x4000, 0, 0x3000] none 0) (Memory.writeBytes [] 0x4000 header0) id id).feStore d0 0 0x3000 0) (by decide +kernel)
  exact ⟨a, a, by decide +kernel, bytes_of (by decide +kernel), by decide +kernel, bytes_of (by decide +kernel), bytes_of (by decide +kernel),
    by decide +kernel, by decide +kernel, by decide +kernel, by decide +kernel, by decide +kernel, by decide +kernel, rfl, by decide +kernel,
    by decide +kernel, ha, ha, rfl⟩

theorem witness_FrontEndCommandsComplete_header : Image.headerBad (List.replicate 64 0) = some 0 := by decide
/-- A launch parameter block of one cell and one hart, with a scratch size in KiB. -/
def block0 (spad : Byte) : List Byte := List.replicate 24 0 ++ [1, 0, 0, 0, 1, 1, spad, 0, 1, 0] ++ List.replicate 222 0

/-- A LAUNCH in progress. -/
def launching (run : Option LaunchRun) : Running := { cmd [1, 0x4000] none 0 with launch := run }
def run1 (l : Lpb) (st : LaunchStage) : LaunchRun := ⟨l, 0, st, []⟩

theorem checked_of {x : State.Checked} (h : (match x with | .ok _ => true | _ => false) = true) : ∃ l, x = .ok l := by cases x <;> simp_all
theorem badly_of {x : State.Checked} {a b : Nat} (h : (match x with | .bad c d => decide (c = a ∧ d = b) | _ => false) = true) : x = .bad a b := by
  cases x <;> simp_all

theorem witness_LaunchesProceed_check :
    (let s := feWorld (launching none) (Memory.writeBytes [] 0x4000 (block0 16)) id id
     s.getRun d0 0 7 = some (launching none) ∧ fld ((launching none).word 0) 0 4 = 1 ∧ ((launching none).word 1).toNat % 64 = 0 ∧
       s.feRead d0 (s.qPart d0 0) 0x4000 256 = .bytes (block0 16) ∧ ∃ lp, s.checkLpb d0 (s.qPart d0 0) 0x4000 = .ok lp) ∧
    (let s := feWorld (launching none) (Memory.writeBytes [] 0x4000 (block0 8)) id id
     s.feRead d0 (s.qPart d0 0) 0x4000 256 = .bytes (block0 8) ∧ Image.num (block0 8) 48 8 = 0 ∧ Image.num (block0 8) 56 8 = 0 ∧
       Image.num (block0 8) 30 2 % 16 ≠ 0 ∧ s.checkLpb d0 (s.qPart d0 0) 0x4000 = .bad 2 30) ∧
    (let s := feWorld { launching none with words := [1, 0x8000000] } [] id id
     s.feRead d0 (s.qPart d0 0) 0x8000000 256 = .fault) :=
  ⟨⟨by decide +kernel, by decide +kernel, by decide +kernel, bytes_of (by decide +kernel), checked_of (by decide +kernel)⟩,
    ⟨bytes_of (by decide +kernel), by decide +kernel, by decide +kernel, by decide +kernel, badly_of (by decide +kernel)⟩,
    fault_of (by decide +kernel)⟩

/-- The die with a launch at a stage, and cells 0 and 1 with given contexts. -/
def placing (run : LaunchRun) (x y : CellCtx) (gangs : List (Nat × Gang)) : State :=
  { feWorld (launching (some run)) [] id id with
    cells := [(c0, { Cell.reset with ctx := x }), (⟨0, 0, 1⟩, { Cell.reset with ctx := y })]
    gangs := gangs }
def idle0 : CellCtx := { CellCtx.reset with part := 0 }

theorem witness_LaunchesProceed_choose :
    (let run := run1 (lpb0 false) .choosing
     let s := placing run idle0 idle0 []
     s.getRun d0 0 7 = some (launching (some run)) ∧ State.scatters (launching (some run)) run = false ∧
       s.chooseRect d0 (s.qPart d0 0) run.lpb = some [c0]) ∧
    (let run := run1 { lpb0 false with width := 48, height := 48 } .choosing
     let s := placing run { idle0 with use := .busy } idle0 []
     s.chooseRect d0 (s.qPart d0 0) run.lpb = none) := by decide +kernel

theorem witness_LaunchesProceed_reserve :
    (let run := run1 (lpb0 false) (.reserving [c0, ⟨0, 0, 1⟩] [] [c0, ⟨0, 0, 1⟩] false false)
     let s := placing run idle0 idle0 []
     s.getRun d0 0 7 = some (launching (some run)) ∧ c0 ≠ ⟨0, 0, 1⟩ ∧ s.grants c0 (s.qPart d0 0) run.lpb.kid = true ∧
       (s.getCell c0).ctx.use = .idle) ∧
    (let s := placing (run1 (lpb0 false) .backoff) { idle0 with use := .busy } { idle0 with use := .reserved d0 0 7 none } []
     s.grants c0 (s.qPart d0 0) 0 = false ∧ (s.getCell ⟨0, 0, 1⟩).ctx.use = .reserved d0 0 7 none) ∧
    (let run := run1 (lpb0 false) (.reserving [c0, ⟨0, 0, 1⟩] [⟨0, 0, 1⟩] [c0] false false)
     let s := placing run { idle0 with use := .busy } { idle0 with use := .reserved d0 0 7 none } []
     s.getRun d0 0 7 = some (launching (some run)) ∧ s.grants c0 (s.qPart d0 0) run.lpb.kid = false ∧
       (s.getCell ⟨0, 0, 1⟩).ctx.use = .reserved d0 0 7 none) ∧
    (let run := run1 (lpb0 false) (.reserving [c0] [] [c0] false false)
     let s := placing run idle0 idle0 []
     s.getRun d0 0 7 = some (launching (some run)) ∧ s.grants c0 (s.qPart d0 0) run.lpb.kid = true) := by decide +kernel

theorem witness_LaunchesProceed_release :
    let g := { gang0 false [] with started := [] }
    let run := run1 (lpb0 false) (.setup 4)
    let s := placing run { idle0 with gang := some 4 } idle0 [(4, g)]
    s.getRun d0 0 7 = some (launching (some run)) ∧ lookup 4 s.gangs = some g ∧ g.cells = [c0] ∧ g.started = [] ∧
      (s.getCell c0).ctx.gang = some 4 ∧ (∀ m < 24, (s.getHart (c0.hart m)).service = false) ∧
      (s.getCell c0).preempted = [] ∧
      (run.lpb.masks.getD (1 / 8) 0).testBit (1 % 8) = true ∧ (run.lpb.masks.getD (23 / 8) 0).testBit (23 % 8) = false := by decide +kernel

/-- The banks of processor 0 are all in use: 8 harts, and 4 that are pre-empted and have posts under way. -/
theorem witness_LaunchesProceed_banks :
    let g := { gang0 false [] with started := [] }
    let run := run1 (lpb0 false) (.setup 4)
    let busy := { Hart.reset with status := .running, postDie := 1 }
    let s0 := placing run { idle0 with gang := some 4 } idle0 [(4, g)]
    let s := { s0.updCell c0 (fun v => { v with preempted := (List.range 4).map fun n => (n, busy) }) with
      harts := (List.range 8).map fun n => (c0.hart n, { busy with service := decide (n < 4) }) }
    s.startCell run.lpb c0 = none ∧ lookup 4 s.gangs = some g ∧ (s.getCell c0).ctx.gang = some 4 := by decide +kernel

theorem witness_LaunchesProceed_done :
    (let g := { gang0 false [] with cmd := 7 }
     let s := placing (run1 (lpb0 false) (.running 4)) { idle0 with gang := some 4, lastHalted := true, retainBit := true } idle0 [(4, g)]
     let t := { s with harts := [] }
     (t.getCell c0).ctx.lastHalted = true ∧ t.allHalted c0 = true ∧ t.cellIdle c0 = true ∧ (t.getCell c0).ctx.gang = some 4 ∧
       lookup 4 t.gangs = some g ∧ g.cells = [c0] ∧ g.doneCells = [] ∧ (t.getCell c0).ctx.part = g.part ∧
       t.getRun g.die g.queue g.cmd = some (launching (some (run1 (lpb0 false) (.running 4))))) ∧
    (let g := { gang0 false [] with cells := [c0, ⟨0, 0, 1⟩] }
     g.doneCells.length + 1 ≠ g.cells.length) := by decide +kernel

theorem witness_LaunchesProceed_expiry : let s := placing (run1 (lpb0 false) .backoff) { idle0 with use := .retained ⟨0, 5, 1, 1⟩ } idle0 []
    (s.getCell c0).ctx.use = .retained ⟨0, 5, 1, 1⟩ := by decide +kernel

/-- The cell with a swap stage, and a berthed partition. -/
def swapping (n : Nat) (w : Option (HartId × Nat)) (l1 : List (Nat × L1Word)) (c : Cell) : Cell :=
  { c with
    ctx := { c.ctx with use := .busy }
    swap := n
    swapWaiter := w
    l1 := l1
    berth := some ({ CellCtx.reset with part := 5 }, [(0, { Hart.reset with status := .running, pc := 0x500 })]) }

theorem witness_SwapsAndServiceContexts_swap :
    (let s := world kTracked (fun h => { withX 144 2304 0 h with mode := .m }) id
     s.me.mode = .m ∧ s.me.spec = none ∧ s.me.answer = none ∧ (s.xr 1).toNat % 2 ^ 12 ≤ 2303 ∧ 2303 < (s.xr 2).toNat % 2 ^ 12 ∧
       (⟨s.cur.pkg, 144 / 144, 144 % 144⟩ : CellId) ≠ s.myCell ∧ (s.getCell ⟨0, 1, 0⟩).swap = 0) ∧
    (let s := { world kTracked (fun h => { withX 144 2304 0 h with mode := .m }) id with cells := [(⟨0, 1, 0⟩, { Cell.reset with swap := 1 })] }
     s.me.mode = .m ∧ s.me.spec = none ∧ s.me.answer = none ∧ (s.getCell ⟨0, 1, 0⟩).swap ≠ 0) ∧
    (∀ n ∈ [1, 2], let s := world kTracked id (swapping n none [])
      (s.getCell c0).swap = n ∧ s.swapWaits c0 = false ∧ State.liveHart (s.getHart (c0.hart 0)) = true) ∧
    (let s := world kTracked id (fun c => { swapping 1 none [] c with dbg := BitVec.ofNat 64 (2 ^ 17) })
     (s.getCell c0).swap = 1 ∧ s.swapWaits c0 = true) ∧
    (let s := world kTracked (fun h => { h with answer := some .done }) (swapping 3 none [])
     (s.getCell c0).swap = 3 ∧ s.unfinished c0 = true) ∧
    (let s := world kTracked id (swapping 3 (some (⟨0, 1, 0, 0⟩, 0xFF)) [(16, ⟨true, 7⟩)])
     (s.getCell c0).swap = 3 ∧ s.swapWaits c0 = false ∧ s.unfinished c0 = false ∧ s.betweenPoints c0 = false ∧ s.pathWaits c0 = false ∧
       (s.getCell c0).ctx.part ≠ 0xFF ∧
       (s.getCell c0).ctx.use = .busy ∧ (s.getCell c0).berth.isSome ∧ lookup 16 (s.getCell c0).l1 = some ⟨true, 7⟩ ∧
       lookup (c0.hart 0) s.harts = some s.me ∧ s.me.spec = none) := by decide +kernel

theorem witness_SwapsAndServiceContexts_waiter : (world kTracked id (swapping 3 (some (⟨0, 1, 0, 0⟩, 0xFF)) [])).Plain ⟨0, 1, 0, 0⟩ 0xFF := by
  constructor <;> decide

theorem witness_SwapsAndServiceContexts_service :
    (let s := world kTracked id id
     let w : Word := BitVec.ofNat 64 (2 ^ 63 + 23)
     s.dieRuns c0.dieId = true ∧ w.getLsbD 63 = true ∧ fld w 0 5 < 24 ∧ s.slotBusy c0 (fld w 0 5) = false) ∧
    (let e : Starting := ⟨23, [0], 3, 0x700⟩
     let s := world kTracked id (fun c => { c with starting := [e] })
     (s.getCell c0).starting = [e] ∧ s.startWaits c0 e = false ∧ s.banksUsed c0 (e.slot % 32 / 8) < 12) := by decide +kernel

/-- Twelve banks in use on a processor, one of them by a context that a service context pre-empted. -/
def banked : State :=
  { world kTracked id (fun c => { c with
      starting := [⟨1, [], 3, 0x700⟩]
      csave := 0x40000
      preempted := (List.range 4).map fun n => (n, { Hart.reset with status := .running }) }) with
    harts := (List.range 8).map fun n => (⟨0, 0, 0, n⟩, { Hart.reset with status := .running }) }

theorem witness_SwapsAndServiceContexts_eviction :
    ((banked.getCell h0.cellId).starting.any fun x => procOf x.slot == procOf h0.hart) = true ∧ 12 ≤ banked.banksUsed h0.cellId (procOf h0.hart) ∧
      banked.evictee h0.cellId (procOf h0.hart) = some h0.hart ∧
      lookup h0.hart (banked.getCell h0.cellId).preempted = some { Hart.reset with status := .running } ∧ Hart.reset.absent = [] ∧
        banked.requestsOut h0 = false ∧
      banked.mem.wf = true ∧ (banked.getCell h0.cellId).csave.toNat % 2 ^ 18 = 0 := by decide +kernel
/-- A cell that is halted by the debugger, with one hart. -/
def halted0 : State := world kTracked id (fun c => { c with dbg := BitVec.ofNat 64 (2 ^ 17) })

theorem witness_DebuggerComplete :
    (let s := world kTracked id id
     s.dieRuns c0.dieId = true ∧ (s.getCell c0).dbg.getLsbD 17 = false ∧ (s.getCell c0).haltCause = 0 ∧ (1 : Word).getLsbD 0 = true) ∧
    (let s := world kTracked id (fun c => { c with haltCause := 7 })
     (s.getCell c0).haltCause ≠ 0 ∧ (s.getCell c0).haltCause < 8 ∧ s.haltReady c0 = true ∧ ∀ n < 24, (s.getHart (c0.hart n)).spec = none) ∧
    (let s := world kTracked (fun h => { h with spec := some spec0, wait := some ⟨.answer, false⟩ }) fun c => { c with haltCause := 1 }
     (s.getCell c0).haltCause ≠ 0 ∧ s.haltReady c0 = false) ∧
    (lookup h0.hart (halted0.getCell c0).preempted = none ∧ halted0.gangThere ⟨0, 0, 0, 23⟩ = false ∧ halted0.dieRuns c0.dieId = true ∧
      (halted0.getCell c0).dbg.getLsbD 17 = true ∧ (halted0.getHart (c0.hart 0)).status ≠ .absent ∧
      (halted0.getHart (c0.hart 0)).absent = [] ∧ (halted0.getHart (c0.hart 23)).status = .absent ∧
      (4 : Word).getLsbD 2 = true ∧ (16 : Word).getLsbD 2 = false ∧ (16 : Word).getLsbD 4 = true) ∧
    (∀ n ∈ [0, 31, 0x100, 0x13F, 0x2000, 0x1341, 0x1342], let w : Word := BitVec.ofNat 64 (2 ^ 63 + n)
      w.getLsbD 63 = true ∧ w.getLsbD 62 = false ∧ fld w 16 5 = 0 ∧ fld w 0 16 = n) ∧
    (let w : Word := BitVec.ofNat 64 (2 ^ 63 + 2 ^ 62 + 24 * 2 ^ 16 + 31)
     w.getLsbD 63 = true ∧ w.getLsbD 62 = true ∧ fld w 16 5 = 24 ∧ fld w 0 16 = 31) := by decide +kernel

/-- The package with its HDM decoder at 4 TiB of the host's addresses, over all of HBM. -/
def hosted : State := { world kTracked id id with pkgs := [(0, { Pkg.reset with hdmBase := 2 ^ 42, hdmSize := 2 ^ 40 })] }

theorem witness_HostAndPackageLinks_host :
    (let s := hosted
     let piece := s.hostPiece 64 8
     (s.getPkg 0).hostUp = true ∧ s.hdmAddr 0 (2 ^ 42 + 64) 8 = some 64 ∧ s.hdmAddr 0 (2 ^ 42 + 2 ^ 36) 8 = some (2 ^ 36) ∧
       s.hdmAddr 0 (2 ^ 42 + 2 ^ 40) 1 = none ∧ s.hdmAddr 0 (2 ^ 42 - 8) 8 = none ∧ 2 ^ 42 + 2 ^ 40 + 1 ≤ 2 ^ 51 ∧
         s.dieRuns (stackDie 64) = true ∧ s.dieRuns (stackDie (2 ^ 36)) = false ∧
       s.pieceHeld piece = false ∧ s.ownedWords piece = [] ∧ s.lostIn piece = false ∧ s.badIn piece = false ∧ s.mem.wf = true) ∧
    (let s := { hosted with badWords := [64] }
     s.badIn (s.hostPiece 64 8) = true ∧ s.pieceHeld (s.hostPiece 64 8) = false ∧ s.ownedWords (s.hostPiece 64 8) = [] ∧
       s.lostIn (s.hostPiece 64 8) = false) ∧
    (let s := world kTracked id id
     let w : Word := BitVec.ofNat 64 (2 ^ 63 + 2 ^ 52 + 5 * 2 ^ 12)
     s.dieRuns d0 = true ∧ fld (s.getDie d0).biasCmd 62 1 = 0 ∧ w.getLsbD 63 = true ∧ inHbm (State.biasPage d0 w * 4096) = true ∧
       stackDie (State.biasPage d0 w * 4096) = d0 ∧ s.hostBias.contains (State.biasPage d0 w) ≠ w.getLsbD 52) ∧
    (let s := feWorld (cmd [] none 0) [] id fun v => { v with biasCmd := BitVec.ofNat 64 (2 ^ 62), flip := some (5, true) }
     s.dieRuns d0 = true ∧ fld (s.getDie d0).biasCmd 62 1 = 1 ∧ (s.getDie d0).flip = some (5, true) ∧ s.pageBusy 5 = false) ∧
    (let s := { feWorld (cmd [] none 0) [] id (fun v => { v with flip := some (5, true) }) with busy := [(5 * 4096, 3)] }
     (s.getDie d0).flip = some (5, true) ∧ s.pageBusy 5 = true) := by decide +kernel

/-- A package whose port 15 is in a state, on which replays of one flit have been counted. -/
def ported (st again : Nat) : State := { world kTracked id id with pkgs := [(0, { Pkg.reset with ports := [(15, ⟨st, 8, 1, 65535, again⟩)] })] }

/-- A link with one operation on its way, where the number is the next one and where it is not, with words at the home. -/
def wired (n recv : Nat) (busy : List (Nat × Nat)) : State :=
  { flying kTracked (.load (acc16 kTracked) false none) with
    busy := busy
    flows := [((1, 0, 0), ⟨1, recv, [(n, .loadMiss 0, 0)], [⟨n, .loadMiss 0, 0, 0⟩], [], []⟩)] }

/-- The state in which the operation on its way has been taken off the link. -/
def taken (s : State) (n : Nat) : State :=
  { s with flows := store (1, 0, 0) { s.getFlow 1 0 0 with wire := [], sent := [], recvSeq := (n + 1) % 2 ^ 32 } s.flows }

theorem witness_HostAndPackageLinks_links :
    (let s := { ported 2 0 with flows := [((0, 3, 0), ⟨1, 0, [(0, .loadMiss 0, 15)], [], [], []⟩)] }
     s.portPending 0 15 = true ∧ (s.getPort 0 15).st = 2 ∧ (ported 2 0).portPending 0 15 = false) ∧
    (let s := { ported 0 0 with flows := [((0, 3, 0), ⟨1, 0, [(0, .loadMiss 0, 15)], [], [], []⟩)] }
     s.portPending 0 15 = true ∧ (s.getPort 0 15).st = 0) ∧
    ((ported 1 0).getPort 0 15).st = 1 ∧ ((ported 2 0).getPort 0 15).st = 2 ∧ ((ported 2 14).getPort 0 15).again = 14 ∧
    ((ported 2 15).getPort 0 15).again = 15 ∧ State.reset.dieRuns ⟨0, 15⟩ = false ∧ (ported 1 0).dieRuns ⟨0, 0⟩ = true ∧
    (∀ p ∈ [(3, 4), (4, 4), (5, 4), (0, 2 ^ 32 - 1)], let s := wired p.1 p.2 []
      (s.getFlow 1 0 0).wire = [⟨p.1, .loadMiss 0, 0, 0⟩] ∧ (s.getFlow 1 0 0).waiting = [] ∧ (s.getFlow 1 0 0).recvSeq = p.2) ∧
    (3 + 2 ^ 32 - 4) % 2 ^ 32 = 2 ^ 32 - 1 ∧ (0 + 2 ^ 32 - (2 ^ 32 - 1)) % 2 ^ 32 = 1 ∧
    ((taken (wired 4 4 []) 4).strayAnswer 0 (.loadMiss 0) = false ∧ (taken (wired 4 4 []) 4).mustHold (.loadMiss 0) = false) ∧
    ((taken (wired 4 4 [(16, 9)]) 4).strayAnswer 0 (.loadMiss 0) = false ∧ (taken (wired 4 4 [(16, 9)]) 4).mustHold (.loadMiss 0) = true) ∧
    (∀ n ∈ [3, 4], let s := { ported 2 0 with
        pkgs := [(0, { Pkg.reset with ports := [(15, ⟨2, 8, 2, 0, 0⟩)] })]
        dies := [(d0, { Die.reset d0 with bootState := 3, route := [(3, BitVec.ofNat 64 (2 ^ 16 + 15))] })]
        flows := [((1, 3, 0), ⟨1, 0, [], [⟨0, .loadMiss 0, 0, n⟩], [], []⟩)] }
      (s.getFlow 1 3 0).wire = [⟨0, .loadMiss 0, 0, n⟩] ∧ (s.getFlow 1 3 0).sent = [] ∧ s.routePort 0 3 = some 15 ∧ (s.getPort 0 15).st = 2) ∧
    (let a := { acc16 kTracked with home := ⟨1, 0⟩ }
     let s := flying kTracked (.load a false none)
     s.isCut 0 1 = false ∧ s.routePort 0 1 = none ∧ s.ops = [(0, .load a false none)] ∧ a.hart.pkg = 0 ∧ a.home.pkg = 1 ∧ a.hart.hart < 32 ∧
       (∀ l < 2, (∀ x ∈ (s.getFlow 0 1 l).sent, x.2.1 = .loadMiss 0) ∧ (s.getFlow 0 1 l).waiting = [] ∧ (s.getFlow 0 1 l).doomed = []) ∧
       (s.getCell a.hart.cellId).ctx.part = a.part ∧ lookup a.hart.hart (s.getCell a.hart.cellId).preempted = none) := by decide +kernel

/-- The die with its registers changed. -/
def dieWorld (g : Die → Die) : State := feWorld (cmd [] none 0) [] id g

theorem witness_FirmwareEvents_registers :
    (let s := dieWorld fun v => { v with fsvnRaised := some 3, bootSvn := 5 }
     s.dieRuns d0 = true ∧ s.fsvn d0 = 3 ∧ (s.getDie d0).leader = 0 ∧ (7 : Nat) ≠ (s.getDie d0).leader ∧
       s.fsvn d0 < fld (BitVec.ofNat 64 (2 ^ 63 + 5)) 0 8 ∧ fld (BitVec.ofNat 64 (2 ^ 63 + 5)) 0 8 ≤ (s.getDie d0).bootSvn ∧
       fld (BitVec.ofNat 64 (2 ^ 63 + 3)) 0 8 ≤ s.fsvn d0 ∧ (s.getDie d0).bootSvn < fld (BitVec.ofNat 64 (2 ^ 63 + 6)) 0 8) ∧
    (State.dieRuns State.reset d0 = false) ∧
    (∀ n ∈ [2 ^ 63, 2 ^ 63 + 2 ^ 13 + 143 * 2 ^ 5 + 23], let w : Word := BitVec.ofNat 64 n
      w.getLsbD 63 = true ∧ fld w 5 8 < 144 ∧ fld w 0 5 < 24) ∧
    (51 ≤ fld (BitVec.ofNat 64 (51 * 2 ^ 32)) 32 8 ∧ fld (BitVec.ofNat 64 (100 * 2 ^ 32)) 32 8 ≤ 100) := by decide +kernel

theorem witness_FirmwareEvents_interrupt : (world kTracked id id).Plain h0 0 := by constructor <;> decide

theorem lease_here : pkgOfQa (State.leaseAt 0) = 0 := by
  have := Nat.mod_lt (Config.leasePage 0) (show 0 < 2 ^ 28 by decide)
  simp only [pkgOfQa, State.leaseAt, pkgSpan]
  omega

theorem witness_FirmwareEvents_lease :
    (let s := { dieWorld id with replicas := [((0, State.leaseAt 0), 0x50)] }
     s.dieRuns d0 = true ∧ (s.getDie d0).leader = d0.die ∧ (s.getDie d0).leaseTerm < fld (s.replicaWord d0 (State.leaseAt d0.pkg)) 4 32) ∧
    (let s := dieWorld id
     (s.getDie d0).leader = d0.die ∧ fld (s.replicaWord d0 (State.leaseAt d0.pkg)) 4 32 ≤ (s.getDie d0).leaseTerm ∧ s.mem.wf = true) ∧
    (let s := { dieWorld id with dies := [(⟨0, 15⟩, { Die.reset d0 with bootState := 3, leaseTerm := 0 })] }
     s.dieRuns ⟨0, 15⟩ = true ∧ (s.getDie ⟨0, 15⟩).leader ≠ 15 ∧ fld (s.mem.word (State.leaseAt 0)) 0 4 = (s.getDie ⟨0, 15⟩).leader ∧
       fld (s.mem.word (State.leaseAt 0)) 4 32 = (s.getDie ⟨0, 15⟩).leaseTerm) ∧
    (let s := { dieWorld id with dies := [(⟨0, 15⟩, { Die.reset d0 with bootState := 3 })] }
     fld (s.mem.word (State.leaseAt 0)) 4 32 ≠ (s.getDie ⟨0, 15⟩).leaseTerm) := by
  have h : ∀ r, (State.replicaWord { dieWorld id with replicas := r } d0 (State.leaseAt 0)) =
      (lookup (0, State.leaseAt 0) r).getD 0 := fun r => by
    have m : (dieWorld id).mem.word (State.leaseAt 0) = 0 := rfl
    unfold State.replicaWord
    rw [if_pos (show pkgOfQa (State.leaseAt 0) = d0.pkg from lease_here), show ({ dieWorld id with replicas :=
      r } : State).mem = (dieWorld id).mem from rfl, m]
    rfl
  refine ⟨⟨rfl, rfl, ?_⟩, ⟨rfl, ?_, rfl⟩, ⟨rfl, by decide, rfl, rfl⟩, ?_⟩
  · show 1 < fld (State.replicaWord { dieWorld id with replicas := [((0, State.leaseAt 0), 0x50)] } d0 (State.leaseAt 0)) 4 32
    rw [h]
    simp [lookup]
    decide
  · show fld (State.replicaWord { dieWorld id with replicas := [] } d0 (State.leaseAt 0)) 4 32 ≤ 1
    rw [h]
    decide
  · show fld (0 : Word) 4 32 ≠ 1
    decide

theorem witness_FirmwareEvents_ferry :
    (let s := dieWorld id
     s.readyQueues d0 = [] ∧ (s.getDie d0).ferry = false) ∧
    (let s := dieWorld fun v => { v with ferry := true, ferryPtr := 63 }
     (s.getDie d0).ferry = true ∧ s.qEntry d0 63 = none) ∧
    (let s := feWorld (cmd [] none 0) [(0x1000, 2)] (fun v => { v with running := [], tail := 1 }) fun v => { v with ferry := true }
     s.readyQueues d0 ≠ [] ∧ (s.getDie d0).ferry = true ∧ s.qEntry d0 0 = some ⟨0x1000, 0x2000, 0x2008, 1, 4, 0⟩ ∧ (s.getFe d0 0).graph = none ∧
       (s.getFe d0 0).outOfRange = false ∧ (s.getFe d0 0).disp < (s.getFe d0 0).tail ∧ (s.getFe d0 0).running = [] ∧
       s.feRead d0 0 (State.commandVa ⟨0x1000, 0x2000, 0x2008, 1, 4, 0⟩ 0) 64 = .bytes (2 :: List.replicate 63 0) ∧
       fld ((State.wordsOf 8 (2 :: List.replicate 63 0)).getD 0 0) 0 4 = 2 ∧ reservedAt false (State.wordsOf 8 (2 :: List.replicate 63 0)) = none) :=
  ⟨by decide +kernel, by decide +kernel, by decide +kernel, by decide +kernel, by decide +kernel, by decide +kernel, by decide +kernel,
    by decide +kernel, by decide +kernel, bytes_of (by decide +kernel), by decide +kernel⟩

theorem witness_FirmwareEvents_boot : (∀ i < 16, (State.reset.getDie ⟨0, i⟩).bootState = 0 ∧ State.reset.dieRuns ⟨0, i⟩ = false) ∧
    (∀ n ∈ [1, 2], let s := dieWorld fun v => { v with bootState := n }
      (s.getDie d0).bootState = n ∧ ∀ i < 16, i ≠ d0.die → (s.getDie ⟨0, i⟩).bootState ≠ 1 ∧ (s.getDie ⟨0, i⟩).bootState ≠ 2) ∧
    5 * Pkg.reset.limit < 4 * 4501 ∧ 4 * 4500 ≤ 5 * Pkg.reset.limit := by decide +kernel

/-- Page tables at 0x10000 that map the first gibibyte of partition 0, and a miss that a hart waits for. -/
def missing (root : Word) : State :=
  { dieWorld fun v => { v with ptroot := [(0, root)], misses := [⟨0, 0, 5, [h0], []⟩], tlb := [] } with
    mem := [(0x10000, 0x11001), (0x11000, 0x12001), (0x12000, 1 + 2 + 8 + 64 + 128)].foldl (fun m p => Memory.setWord m p.1 (BitVec.ofNat 64 p.2)) [] }

/-- What an error of the unified array of a cell strikes depends on the share of its scratch memory; here the share ends above and below. -/
theorem witness_ErrorsAndTraps_unified (addr : Nat) :
    (∃ n, let s := world kTracked id fun c => { c with ctx := { c.ctx with spad := n } }
      Config.arrayObject 0 addr % 80 < (s.getCell c0).ctx.spad) ∧
    (∃ n, let s := world kTracked id fun c => { c with ctx := { c.ctx with spad := n }, l1 := [(16, ⟨true, 7⟩)] }
      (s.getCell c0).ctx.spad ≤ Config.arrayObject 0 addr % 80 ∧ (s.getCell c0).l1 = [(16, ⟨true, 7⟩)]) :=
  ⟨⟨80, Nat.mod_lt _ (by decide)⟩, 0, Nat.zero_le _, rfl⟩

theorem witness_ErrorsAndTraps_bank : ∀ n < 24, let s := { world kTracked id id with
      harts := (List.range 24).map fun n => (⟨0, 0, 0, n⟩, { Hart.reset with status := .running }) }
    lookup n (s.getCell c0).preempted = none ∧ (s.getHart (c0.hart n)).status = .running ∧ (s.getHart (c0.hart n)).service = false := by
  decide +kernel

theorem witness_ErrorsAndTraps_blocks : let b : Block := ⟨4, true, false, [⟨true, 7, 4, none⟩], 0⟩
    let s := { world kBlock id id with blocks := [(0x1000, b)] }
    s.blocks = [(0x1000, b)] ∧ stackDie 0x1000 = c0.dieId ∧ b.list ≠ [] := by decide +kernel

/-- An armed injection of a cell's queue array or of a die's memory, and a step that changes its word, that writes the value it held, or that
does not write it. -/
theorem witness_ErrorsAndTraps_fired (addr : Nat) :
    (∀ w ∈ [[], [(0, (5 : Word))]], let s := world kTracked id (fun c => { c with einj := some (2, 0, 5) })
      let t := world kTracked id (fun c => { c with einj := some (2, 0, 5), ctx := { c.ctx with rings := [(0, ⟨0, 0, 0, w⟩)] } })
      s.cells = [(c0, s.getCell c0)] ∧ (∀ p ∈ s.dies, p.2.einj = none) ∧ (s.getCell c0).einj = some (2, 0, 5) ∧
        (t.getCell c0).einj = (s.getCell c0).einj ∧
        decide (s.arrayRead c0 2 0 0 = t.arrayRead c0 2 0 0) = w.isEmpty ∧
        let other := s.arrayFlip c0 2 0 0
        (id other).arrayRead c0 2 0 0 = other.arrayRead c0 2 0 0 ∧ (s.arrayRead c0 2 0 0 ≠ other.arrayRead c0 2 0 0)) ∧
    (let s := dieWorld fun v => { v with einj := some (32, addr, 5) }
     let t := { s with mem := [(State.stackWord d0 (Config.arrayObject 32 addr), 5)] }
     s.dies = [(d0, s.getDie d0)] ∧ (∀ p ∈ s.cells, p.2.einj = none) ∧ (s.getDie d0).einj = some (32, addr, 5) ∧
       (t.getDie d0).einj = (s.getDie d0).einj ∧ s.mem.word (State.stackWord d0 (Config.arrayObject 32 addr)) = 0 ∧
       t.mem.word (State.stackWord d0 (Config.arrayObject 32 addr)) = 5) :=
  ⟨by decide +kernel, rfl, fun p h => by
    simp [dieWorld, feWorld, world] at h
    subst h
    rfl, rfl, rfl, by
    simp [dieWorld, feWorld, Memory.word, Memory.readBytes, Memory.read, Memory.unlisted, bytesToNat, List.range_succ], by
    simp [Memory.word, Memory.readBytes, Memory.read, Memory.unlisted, bytesToNat, List.range_succ]⟩

/-- The word that an error of a memory array strikes lies on the cell's die. -/
theorem witness_ErrorsAndTraps_struck (array addr : Nat) : let s := world kTracked id id
    stackDie (State.stackWord c0.dieId (Config.arrayObject array addr)) = c0.dieId ∧ c0.die < 16 ∧
      (∀ o ∈ s.ops, ∀ a val g r, o.2 ≠ .register a val (some (.word g)) r) := by
  refine ⟨?_, by decide, by intro o h; simp [world, State.reset] at h⟩
  have h : Config.arrayObject array addr % 2 ^ 33 < 2 ^ 33 := Nat.mod_lt _ (by decide)
  simp only [stackDie, State.stackWord, pkgOfQa, paOf, pkgSpan, c0, CellId.dieId, DieId.mk.injEq]
  omega

theorem witness_ErrorsAndTraps :
    (let s := world kTracked id (fun c => { c with istore := [(0x100, 0)], einj := some (2, 0, 5) })
     (s.getCell c0).elog.length < 16 ∧ (s.getDie c0.dieId).elog.length < 64 ∧ State.cellArray 2 = true ∧ State.cellArray 3 = true ∧
       State.dieArray 16 = true ∧ (s.getCell c0).istore = [(0x100, 0)] ∧ (s.getCell c0).einj = some (2, 0, 5) ∧
       s.dieRuns d0 = true ∧ s.me.spec = none ∧ (s.getDie d0).elog = [] ∧ (s.getDie d0).misses = [] ∧ s.blockPage 5 = false) ∧
    (let s := dieWorld fun v => { v with elog := [7, 8] }
     (s.getDie d0).elog = [7, 8] ∧ s.dieRuns d0 = true ∧ State.reset.dieRuns d0 = false) ∧
    (let s := missing 0
     (s.getDie d0).misses = [⟨0, 0, 5, [h0], []⟩] ∧ 0x5FFF / 4096 = 5 ∧ s.walk d0 0 0 (5 * 4096) = none) ∧
    (let s := missing 0x10001
     (s.walk d0 0 0 (5 * 4096)).any fun e => decide (e.va ≤ 5 * 4096) && decide (5 * 4096 < e.va + e.size)) := by decide +kernel

theorem witness_DecodeOfEncode : (Instr.addi 31 0 0xFFF).wf = true ∧ encode (.addi 31 0 0xFFF) = some 0xFFF00F93 := by decide

/-- A hart at 0x100, where memory holds `addi x1, x2, -1`. -/
def fetching (w : Nat) : State := { world kTracked (fun h => { h with pc := 0x100 }) id with mem := Memory.writeBytes [] 0x100 (bytesOfWord w) }

theorem witness_StepsRunInstructions : (fetching 0xFFF10093).Issues ∧ (fetching 0xFFF10093).FetchesAt (page kTracked) 0xFFF10093 ∧
    decodeTableWord 32 0xFFF10093 = some (.addi 1 2 0xFFF) ∧ decodeTableWord 32 0 = none ∧
    ((fetching 0xFFF10093).issued (page kTracked) 0xFFF10093).baseBranch (.addi 1 2 0xFFF) = none ∧
    ∃ s : State, s.turn = .event (.cellDone c0) ∧ Event.Names (.cellDone c0) (.cellDone c0) :=
  ⟨by constructor <;> decide +kernel, by constructor <;> decide +kernel, by decide +kernel, by decide +kernel, rfl,
    { State.reset with turn := .event (.cellDone c0) }, rfl, rfl⟩

theorem witness_StepsRunInstructions_events :
    (let s := { flying kTracked (.load (acc16 kTracked) false none) with busy := [(16, 9)], turn := .event (.loadMiss 0) }
     s.turn = .event (.loadMiss 0) ∧ s.mustHold (.loadMiss 0) = true) ∧
    (let e := Event.recordFetch c0 0
     let s := { world kTracked id (withChan { busy0 with fetch := 0x8000000 }) with turn := .event e }
     s.turn = .event e ∧ s.mustHold e = false ∧ ∃ n ∈ s.needs e, s.missing n = true) ∧
    (∀ t ∈ [Turn.event (.recordFetch c0 0), .held (.recordFetch c0 0)],
     let s := { world kTracked id (withChan { busy0 with fetch := 4096 }) with turn := t }
     s.mustHold (.recordFetch c0 0) = false ∧ s.needs (.recordFetch c0 0) ≠ [] ∧ ∀ n ∈ s.needs (.recordFetch c0 0), s.missing n = false) := by
  decide +kernel

theorem witness_MemoryFormKept : State.reset.mem.wf = true ∧ (fetching 0xFFF10093).mem.wf = true := by decide +kernel

theorem witness_MemoryReadsBack : Memory.wf [] = true ∧ Memory.wf [(0, 255), (2 ^ 52, 1)] = true := by decide +kernel
/-! ### One step each, with results worked by hand from the rules that a comment names -/

/-- The state an instruction leaves. -/
def after (o : Out) : State := match o with
  | .next t => t
  | _ => State.reset

/-- x[rd] after an instruction on x1 and x2. -/
def resultOf (i : Instr) (a b : Word) : Word := (after (exec i (world kTracked (withX a b 0) id))).xr 3

-- R54: sums wrap, W results are sign-extended, shift amounts are taken modulo the width.
theorem test_add_wraps : resultOf (.add 3 1 2) (-1) 2 = 1 := by decide
theorem test_addiw_sign : resultOf (.addiw 3 1 1) 0x7FFFFFFF 0 = 0xFFFFFFFF80000000 := by decide
theorem test_sra_sign : resultOf (.sra 3 1 2) (-8) 65 = -4 := by decide
theorem test_sltiu_minus_one : resultOf (.sltiu 3 1 0xFFF) 5 0 = 1 := by decide
-- R55: the corners of division, and the upper half of a signed product.
theorem test_div_by_zero : resultOf (.div 3 1 2) 7 0 = -1 ∧ resultOf (.remu 3 1 2) 7 0 = 7 := by decide
theorem test_div_overflow : resultOf (.div 3 1 2) 0x8000000000000000 (-1) = 0x8000000000000000 := by decide
theorem test_mulhsu : resultOf (.mulhsu 3 1 2) (-1) (-1) = -1 := by decide
-- R9: x0 ignores writes.
theorem test_x0 : (after (exec (.addi 0 0 5) (world kTracked id id))).xr 0 = 0 := by decide
-- R54: a jump backwards links to the next word.
theorem test_jal : let t := after (exec (.jal 3 0x1FFFFC) (world kTracked (fun h => { h with pc := 0x100 }) id))
    t.me.pc = 0xFC ∧ t.xr 3 = 0x104 := by decide
-- R61, R62: a system call from U mode.
theorem test_ecall : let t := after (exec .ecall (world kTracked (fun h => { h with pc := 0x100, csr := { h.csr with mtvec := 0x201, mstatus :=
  8 } }) id))
    t.me.pc = 0x200 ∧ t.me.mode = .m ∧ t.me.csr.mcause = 8 ∧ t.me.csr.mepc = 0x100 ∧ t.me.csr.mstatus = 0x80 := by decide
-- R59: a store-conditional without a reservation writes 1 and stores nothing.
theorem test_sc_fails : let t := after (exec (.scW 0 0 3 1 2) (world kTracked (withX 16 9 0) id))
    t.xr 3 = 1 ∧ t.mem = [] := by decide
-- R60: amomin compares signed 32-bit numbers and returns the sign-extended old value.
theorem test_amomin : let t := after (exec (.amominW 0 0 3 1 2) { world kTracked (withX 16 5 0) id with mem := Memory.setWord [] 16 0xFFFFFFFE })
    t.xr 3 = 0xFFFFFFFFFFFFFFFE ∧ t.mem.word 16 = 0xFFFFFFFE := by decide
-- R11: an M-mode register may not be written from U mode: an illegal instruction, cause 2.
theorem test_csr_privilege : (after (exec (.csrrw 3 0x300 1) (world kTracked id id))).me.csr.mcause = 2 := by decide
-- R112: the generation of a handle wraps at 4,096.
theorem test_hginc_wraps : hGen ((after (exec (.hginc 1) (world kTracked (withH (blkH 0x1000 4095 1) 0) id))).hr 1) = 0 := by decide
-- R79: a take from a count of 1, and R80: a free mutex is taken.
theorem test_semtry : let t := after (exec (.semtry 3 0) (world kTracked id (withSync ⟨1, [], []⟩ ⟨none, []⟩ ⟨[], none, [], []⟩)))
    t.xr 3 = 1 ∧ t.getSem 0 = ⟨0, [], []⟩ := by decide
theorem test_mtxtry : let t := after (exec (.mtxtry 3 0) (world kTracked id id))
    t.xr 3 = 1 ∧ t.myMutex 0 = ⟨some 0, []⟩ := by decide
-- R113: the stride of a BLK handle is read sign-extended.
theorem test_hgetf_stride : (after (exec (.hgetf 3 2 8) (world kTracked (withH 0 (blkH 0x1000 0 1)) id))).xr 3 = 1 := by decide
end Sys2Proof.Tests
end

section
/-!
### Memory reads back what was written (O58)

A memory in canonical form is a function from addresses to bytes with one listing: `write` updates the function at one
address, `writeBytes` over a range, and two listings of one function are equal.
-/
namespace Sys2Proof.Machine
namespace Memory

/-! #### One byte -/

theorem read_cons_of_lt (m : Memory) {x a : Nat} (b : Byte) (lt : x < a) : read ((a, b) :: m) x = unlisted := by
  simp [read, lt, (Nat.ne_of_lt lt).symm]

@[simp] theorem read_cons_self (m : Memory) (a : Nat) (b : Byte) : read ((a, b) :: m) a = b := by simp [read]

theorem read_cons_of_gt (m : Memory) {x a : Nat} (b : Byte) (lt : a < x) : read ((a, b) :: m) x = read m x := by
  simp [read, Nat.ne_of_lt lt, Nat.lt_asymm lt]

theorem wfFrom_cons {lo a : Nat} {b : Byte} {m : Memory} :
    wfFrom lo ((a, b) :: m) = true ↔ lo ≤ a ∧ b ≠ unlisted ∧ wfFrom (a + 1) m = true := by
  simp [wfFrom, and_assoc]

/-- Below the lowest address that it lists, a memory reads as unlisted. -/
theorem read_of_lt_wfFrom {lo x : Nat} {m : Memory} (h : wfFrom lo m = true) (lt : x < lo) : read m x = unlisted := by
  cases m with
  | nil => rfl
  | cons p m =>
    obtain ⟨le, -, -⟩ := wfFrom_cons.mp h
    exact read_cons_of_lt m p.2 (by omega)

/-- The two forms in which `write` lists a byte below the listing `m` read alike. -/
theorem read_listed {a : Nat} {m : Memory} (h : wfFrom (a + 1) m = true) (b : Byte) (c : Nat) :
    (if b = unlisted then m else (a, b) :: m).read c = if c = a then b else m.read c := by
  have below : c ≤ a → m.read c = unlisted := fun le => read_of_lt_wfFrom h (by omega)
  obtain lt | rfl | gt := Nat.lt_trichotomy c a
  · split
    · rw [if_neg (by omega)]
    · rw [read_cons_of_lt m b lt, if_neg (by omega), below (by omega)]
  · split <;> simp [*]
  · split
    · rw [if_neg (by omega)]
    · rw [read_cons_of_gt m b gt, if_neg (by omega)]

theorem read_write {lo : Nat} {m : Memory} (h : wfFrom lo m = true) (a c : Nat) (b : Byte) :
    (m.write a b).read c = if c = a then b else m.read c := by
  induction m generalizing lo with
  | nil => exact read_listed (m := []) rfl b c
  | cons p m ih =>
    obtain ⟨a', b'⟩ := p
    obtain ⟨-, nb, hm⟩ := wfFrom_cons.mp h
    obtain lt | rfl | gt := Nat.lt_trichotomy a a'
    · simp only [write, if_pos lt]
      exact read_listed (wfFrom_cons.mpr ⟨lt, nb, hm⟩) b c
    · have above : c ≠ a → read ((a, b') :: m) c = read m c := fun ne => by
        obtain lt | gt := Nat.lt_or_gt_of_ne ne
        · rw [read_cons_of_lt m b' lt, read_of_lt_wfFrom hm (Nat.lt_succ_of_lt lt)]
        · exact read_cons_of_gt m b' gt
      simp only [write, Nat.lt_irrefl, if_false, if_true, read_listed hm b c]
      split
      · rfl
      · next ne => exact (above ne).symm
    · simp only [write, if_neg (Nat.lt_asymm gt), if_neg (Nat.ne_of_gt gt), read, ih hm]
      split
      · rw [if_neg (by omega)]
      · split
        · rw [if_neg (by omega)]
        · rfl

/-! #### A range of bytes -/

theorem read_writeBytes_of_outside {m : Memory} (h : m.wf = true) {a c : Nat} {bs : List Byte} (out : c < a ∨ a + bs.length ≤ c) :
    (m.writeBytes a bs).read c = m.read c := by
  induction bs generalizing m a with
  | nil => rfl
  | cons b bs ih =>
    rw [List.length_cons] at out
    rw [writeBytes, ih (wf_write h a b) (by omega), read_write h, if_neg (by omega)]

theorem read_writeBytes_add {m : Memory} (h : m.wf = true) (a : Nat) {bs : List Byte} {i : Nat} (lt : i < bs.length) :
    (m.writeBytes a bs).read (a + i) = bs[i] := by
  induction bs generalizing m a i with
  | nil => contradiction
  | cons b bs ih =>
    cases i with
    | zero => simp [writeBytes, read_writeBytes_of_outside (wf_write h a b), read_write h]
    | succ i => simpa [writeBytes, Nat.add_left_comm, Nat.add_comm] using ih (wf_write h a b) (a + 1) (Nat.lt_of_succ_lt_succ lt)

theorem readBytes_writeBytes {m : Memory} (h : m.wf = true) (a : Nat) (bs : List Byte) :
    (m.writeBytes a bs).readBytes a bs.length = bs := by
  refine List.ext_getElem (by simp [readBytes]) fun i _ lt => ?_
  simpa [readBytes] using read_writeBytes_add h a lt

/-! #### A word, little-endian -/

@[simp] theorem length_natToBytes (n v : Nat) : (natToBytes n v).length = n := by
  induction n generalizing v with
  | zero => rfl
  | succ n ih => simp [natToBytes, ih]

theorem bytesToNat_natToBytes (n v : Nat) : bytesToNat (natToBytes n v) = v % 256 ^ n := by
  induction n generalizing v with
  | zero => simp [natToBytes, bytesToNat, Nat.mod_one]
  | succ n ih => rw [natToBytes, bytesToNat, ih, Nat.pow_succ', Nat.mod_mul]; rfl

theorem natToBytes_getElem {n v i : Nat} (lt : i < (natToBytes n v).length) : (natToBytes n v)[i] = BitVec.ofNat 8 (v / 256 ^ i) := by
  induction n generalizing v i with
  | zero => contradiction
  | succ n ih =>
    cases i with
    | zero => simp [natToBytes]
    | succ i => simp [natToBytes, ih, Nat.div_div_eq_div_mul, Nat.pow_succ']

theorem word_setWord {m : Memory} (h : m.wf = true) (a : Nat) (w : Word) : (m.setWord a w).word a = w := by
  have back : (m.setWord a w).readBytes a 8 = natToBytes 8 w.toNat := by
    simpa [setWord] using readBytes_writeBytes h a (natToBytes 8 w.toNat)
  rw [word, back, bytesToNat_natToBytes]
  exact BitVec.eq_of_toNat_eq (by have := w.isLt; simp; omega)

/-- The byte of a word at offset `n` holds its bits 8 `n` and up: the least significant byte stands first (R4). -/
theorem read_setWord_add {m : Memory} (h : m.wf = true) (a : Nat) (w : Word) {n : Nat} (lt : n < 8) :
    (m.setWord a w).read (a + n) = w.extractLsb' (8 * n) 8 := by
  rw [setWord, read_writeBytes_add h a (by simpa using lt), natToBytes_getElem]
  exact BitVec.eq_of_toNat_eq (by simp [Nat.shiftRight_eq_div_pow, Nat.pow_mul])

/-! #### Canonical listings of one function are equal -/

theorem eq_of_read {lo : Nat} {m m' : Memory} (h : wfFrom lo m = true) (h' : wfFrom lo m' = true) (same : ∀ x, m.read x = m'.read x) :
    m = m' := by
  induction m generalizing lo m' with
  | nil =>
    cases m' with
    | nil => rfl
    | cons p m' =>
      obtain ⟨-, nb, -⟩ := wfFrom_cons.mp h'
      exact absurd ((read_cons_self m' p.1 p.2).symm.trans (same p.1).symm) nb
  | cons p m ih =>
    obtain ⟨-, nb, hm⟩ := wfFrom_cons.mp h
    cases m' with
    | nil => exact absurd ((read_cons_self m p.1 p.2).symm.trans (same p.1)) nb
    | cons p' m' =>
      obtain ⟨a, b⟩ := p
      obtain ⟨a', b'⟩ := p'
      obtain ⟨-, nb', hm'⟩ := wfFrom_cons.mp h'
      obtain lt | rfl | gt := Nat.lt_trichotomy a a'
      · exact absurd (by simpa [read_cons_of_lt m' b' lt] using same a) nb
      · obtain rfl : b = b' := by simpa using same a
        congr 1
        refine ih hm hm' fun x => ?_
        obtain le | gt := Nat.lt_or_ge a x
        · simpa [read_cons_of_gt _ b le] using same x
        · rw [read_of_lt_wfFrom hm (by omega), read_of_lt_wfFrom hm' (by omega)]
      · exact absurd (by simpa [read_cons_of_lt m b gt] using (same a').symm) nb'

end Memory

/-- Settles O58: one written byte changes what is read at its own address alone; ranges and words follow byte by byte. -/
theorem memoryReadsBack : Obligations.MemoryReadsBack := by
  intro m m' a c n b bs w h
  exact ⟨Memory.read_write h a c b, Memory.readBytes_writeBytes h a bs, Memory.read_writeBytes_of_outside h,
    Memory.word_setWord h a w, Memory.read_setWord_add h a w, fun h' same => Memory.eq_of_read h h' same⟩

end Sys2Proof.Machine
end

section
/-!
### Operations that leave memory alone

One lemma per operation, in the order of the model. A result that comes in an option, a pair or an answer has its lemma under `mem_of_`.
-/
namespace Sys2Proof.Machine

/-- The state in which the translation of the rows of a drain ends. -/
def RowsTry.state : RowsTry → State
  | .ok _ s => s
  | .stop s => s

namespace State

@[simp] theorem mem_updMyCtx (s : State) (f : CellCtx → CellCtx) : (s.updMyCtx f).mem = s.mem := rfl

@[simp] theorem mem_setTile (s : State) (c : CellId) (i : Nat) (v : Tile) : (s.setTile c i v).mem = s.mem := rfl

@[simp] theorem mem_setAcc (s : State) (c : CellId) (i : Nat) (v : AccTile) : (s.setAcc c i v).mem = s.mem := rfl

@[simp] theorem mem_setChan (s : State) (c : CellId) (i : Nat) (v : Channel) : (s.setChan c i v).mem = s.mem := rfl

@[simp] theorem mem_setH (s : State) (r : Nat) (v : BitVec 256) : (s.setH r v).mem = s.mem := rfl

@[simp] theorem mem_pending (s : State) (k : WaitKind) : (s.pending k).mem = s.mem := rfl

@[simp] theorem mem_stall (s : State) : s.stall.mem = s.mem := rfl

@[simp] theorem mem_note (s : State) (p : Progress) : (s.note p).mem = s.mem := rfl

@[simp] theorem mem_setResv (s : State) (h : HartId) (word : Nat) (wide : Bool) : (s.setResv h word wide).mem = s.mem := rfl

@[simp] theorem mem_trapEntry (s : State) (intr : Bool) (c : Nat) (epc tval : Word) : (s.trapEntry intr c epc tval).mem = s.mem := rfl

@[simp] theorem mem_illegal (s : State) (i : Instr) : (s.illegal i).mem = s.mem := by simp [illegal]

@[simp] theorem mem_logCell (s : State) (c : CellId) (ue : Bool) (array addr synd part hart : Nat) :
    (s.logCell c ue array addr synd part hart).mem = s.mem := rfl

@[simp] theorem mem_raiseMip (s : State) (h : HartId) (c : Nat) : (s.raiseMip h c).mem = s.mem := by simp [raiseMip]

theorem mem_jumpTo (s : State) (target : Word) {write : State → State} (h : (write s).mem = s.mem) :
    (s.jumpTo target write).mem = s.mem := by
  unfold jumpTo
  split
  · exact mem_trap ..
  · exact h

@[simp] theorem mem_branch (s : State) (taken : Bool) (off : Nat) : (s.branch taken off).mem = s.mem := by
  unfold branch
  split
  · exact mem_jumpTo _ _ rfl
  · rfl

@[simp] theorem mem_fillMicro (s : State) (c : CellId) (e : TlbEntry) : (s.fillMicro c e).mem = s.mem := rfl

@[simp] theorem mem_fillShared (s : State) (d : DieId) (e : TlbEntry) : (s.fillShared d e).mem = s.mem := rfl

@[simp] theorem mem_enterMiss (s : State) (win : Nat) (va : Nat) : (s.enterMiss win va).mem = s.mem := by
  unfold enterMiss
  dsimp only
  repeat' split
  all_goals simp

@[simp] theorem mem_unitMiss (s : State) (c : CellId) (part win va : Nat) : (s.unitMiss c part win va).mem = s.mem := by
  unfold unitMiss
  dsimp only
  repeat' split
  all_goals simp

theorem mem_of_translate_ok {s t : State} {win : Nat} {va : Word} {e : TlbEntry} (h : s.translate win va = .ok e t) : t.mem = s.mem := by
  unfold translate at h
  split at h
  · cases h
  · dsimp only at h
    repeat' split at h
    all_goals cases h
    all_goals rfl

theorem mem_of_translate_wait {s t : State} {win : Nat} {va : Word} (h : s.translate win va = .wait t) : t.mem = s.mem := by
  unfold translate at h
  split at h
  · cases h
  · dsimp only at h
    repeat' split at h
    all_goals cases h
    exact mem_enterMiss ..

@[simp] theorem mem_walkMiss (s : State) (d : DieId) (m : Miss) : (s.walkMiss d m).mem = s.mem := by
  unfold walkMiss
  split
  · exact mem_foldl _ (fun _ _ => mem_foldl _ (fun _ _ => mem_wake ..) ..) ..
  · exact mem_foldl _ (fun _ _ => mem_updWho ..) ..

@[simp] theorem mem_l1Invalidate (s : State) (c : CellId) (w : Nat) : (s.l1Invalidate c w).mem = s.mem := by
  unfold l1Invalidate
  repeat' split
  all_goals simp

@[simp] theorem mem_noteRegistration (s : State) (w : Nat) (c : CellId) : (s.noteRegistration w c).mem = s.mem := rfl

@[simp] theorem mem_answerLoad (s : State) (id : Nat) (a : Access) (inv : Bool) (src : Nat) (ans : Answer) :
    (s.answerLoad id a inv src ans).mem = s.mem := by simp [answerLoad]

@[simp] theorem mem_loseWord (s : State) (w : Nat) (home : DieId) : (s.loseWord w home).mem = s.mem := rfl

@[simp] theorem mem_hold (s : State) (e : Event) : (s.hold e).mem = s.mem := rfl

@[simp] theorem mem_applyReplica (s : State) (id d w : Nat) (mask val : Word) : (s.applyReplica id d w mask val).mem = s.mem := by
  unfold applyReplica
  split <;> simp

@[simp] theorem mem_logDropped (s : State) (a : Access) : (s.logDropped a).mem = s.mem := rfl

@[simp] theorem mem_clearAnswer (s : State) : s.clearAnswer.mem = s.mem := rfl

@[simp] theorem mem_request (s : State) (a : Access) (o : Op) (e : Nat → Event) : (s.request a o e).mem = s.mem := by simp [request]

@[simp] theorem mem_registering (s : State) (a : Access) (val : Word) : (s.registering a val).mem = s.mem := rfl

@[simp] theorem mem_unlock (s : State) (id : Nat) : (s.unlock id).mem = s.mem := rfl

@[simp] theorem mem_spoilLoads (s : State) (c : CellId) (hit : Nat → Bool) : (s.spoilLoads c hit).mem = s.mem := rfl

@[simp] theorem mem_invalidate (s : State) (c : CellId) (hit : Nat → Bool) : (s.invalidate c hit).mem = s.mem := rfl

@[simp] theorem mem_acquire (s : State) (scope : Nat) : (s.acquire scope).mem = s.mem := by
  unfold acquire
  split <;> simp

@[simp] theorem mem_uncount (s : State) (d : DieId) (e : Sillage) : (s.uncount d e).mem = s.mem := rfl

@[simp] theorem mem_homePoison (s : State) (id blk gen : Nat) : (s.homePoison id blk gen).mem = s.mem := by
  unfold homePoison
  dsimp only
  repeat' split
  all_goals simp

@[simp] theorem mem_homeClear (s : State) (id blk gen : Nat) : (s.homeClear id blk gen).mem = s.mem := by
  unfold homeClear
  dsimp only
  repeat' split
  all_goals simp

@[simp] theorem mem_homeStatus (s : State) (id blk : Nat) : (s.homeStatus id blk).mem = s.mem := by simp [homeStatus]

@[simp] theorem mem_markApplied (s : State) (id : Nat) : (s.markApplied id).mem = s.mem := by
  unfold markApplied
  split <;> simp

@[simp] theorem mem_sendBlock (s : State) (src : Nat) (req : BlockReq) (who : Requester) (part blk gen tile idx : Nat)
    (data : BitVec 32768) (side : BitVec 512) :
    (s.sendBlock src req who part blk gen tile idx data side).mem = s.mem := by simp [sendBlock]

@[simp] theorem mem_setTileFor (s : State) (c : CellId) (part i : Nat) (v : Tile) :
    (s.setTileFor c part i v).mem = s.mem := by simp [setTileFor]

@[simp] theorem mem_blockDone (s : State) (h : HartId) (part id idx : Nat) (cause : Option Nat) :
    (s.blockDone h part id idx cause).mem = s.mem := by simp [blockDone]

@[simp] theorem mem_missedException (s : State) (h : HartId) (part : Nat) (r : FaultRecord) : (s.missedException h part r).mem = s.mem := by
  unfold missedException
  dsimp only
  repeat' split
  all_goals simp

@[simp] theorem mem_postImprecise (s : State) (h : HartId) (part : Nat) (r : FaultRecord) : (s.postImprecise h part r).mem = s.mem := by
  unfold postImprecise
  dsimp only
  split <;> simp

@[simp] theorem mem_cancelRows (s : State) (k : Cmd) : (s.cancelRows k).mem = s.mem :=
  mem_foldl _ (fun t id => by
    dsimp only
    repeat' split
    all_goals simp) ..

@[simp] theorem mem_engineFault (s : State) (c : CellId) (k : Cmd) (sub : Nat) (claimed : Bool) (keep : Option Nat) :
    (s.engineFault c k sub claimed keep).mem = s.mem := by
  unfold engineFault
  simp only [mem_postImprecise, mem_cancelRows, apply_ite State.mem, mem_setAcc, ite_self]
  exact mem_foldl _ (fun t i => by simp [apply_ite State.mem]) ..

@[simp] theorem mem_enqueue (s : State) (c : CellId) (k : Cmd) : (s.enqueue c k).mem = s.mem := rfl

@[simp] theorem mem_enterBuffer (s : State) (k : Cmd) (rows : List RowReq) : (s.enterBuffer k rows).mem = s.mem := by
  unfold enterBuffer
  dsimp only
  split <;> simp

@[simp] theorem mem_issue (s : State) (i : Instr) : (s.issue i).mem = s.mem := by
  unfold issue
  dsimp only
  repeat' split
  all_goals simp

@[simp] theorem mem_wakeTiles (s : State) (c : CellId) (part : Nat) : (s.wakeTiles c part).mem = s.mem := by
  unfold wakeTiles
  split
  · rfl
  · exact mem_foldl _ (fun t n => by simp [apply_ite State.mem]) ..

@[simp] theorem mem_changeTile (s : State) (c : CellId) (part i : Nat) (v : Tile) :
    (s.changeTile c part i v).mem = s.mem := by simp [changeTile]

@[simp] theorem mem_endDrain (s : State) (c : CellId) (part i : Nat) : (s.endDrain c part i).mem = s.mem := by
  unfold endDrain
  dsimp only
  repeat' split
  all_goals simp

theorem mem_sendRead (s : State) (q : Bool) (gen tile idx qa : Nat) (ids : List Nat) (bad : List (Nat × Nat)) :
    (s.sendRead q gen tile idx qa ids bad).1.mem = s.mem := by
  unfold sendRead
  dsimp only
  split
  · split <;> simp
  · simp

@[simp] theorem mem_blocksWait (s : State) (ids : List Nat) (bad : List (Nat × Nat)) : (s.blocksWait ids bad).mem = s.mem := by
  unfold blocksWait
  repeat' split
  all_goals simp

theorem mem_sendWrite (s : State) (gen tile idx qa : Nat) (ids : List Nat) (bad : List (Nat × Nat)) :
    (s.sendWrite gen tile idx qa ids bad).1.mem = s.mem := by
  unfold sendWrite
  dsimp only
  repeat' split
  all_goals simp

/-- A fold over a state that carries lists along leaves memory alone if each of its steps does. -/
theorem mem_foldl_fst {α β : Type} (f : State × β → α → State × β) (h : ∀ p a, (f p a).1.mem = p.1.mem) (l : List α) (p : State × β) :
    (l.foldl f p).1.mem = p.1.mem := by
  induction l generalizing p with
  | nil => rfl
  | cons a l ih => rw [List.foldl_cons, ih, h]

@[simp] theorem mem_bputGo (s : State) (d b : BitVec 256) (qas : List Nat) : (s.bputGo d b qas).mem = s.mem := by
  unfold bputGo
  dsimp only
  split
  · split <;> simp
  · rw [mem_blocksWait]
    exact mem_foldl_fst _ (fun _ _ => mem_sendWrite ..) ..

@[simp] theorem mem_landRead (s : State) (h : HartId) (part id pkg tile idx : Nat) (q : Bool) (ans : BlockAns) :
    (s.landRead h part id pkg tile idx q ans).mem = s.mem := by
  unfold landRead
  extract_lets t _ r s1 s2
  have h1 : s1.mem = s.mem := by
    unfold s1
    split
    · exact mem_changeTile ..
    · rfl
  have h2 : s2.mem = s1.mem := by
    unfold s2
    split
    · exact mem_logCell ..
    · rfl
  rw [mem_dropOp]
  split
  · exact h2.trans h1
  · exact (mem_blockDone ..).trans (h2.trans h1)

@[simp] theorem mem_landWrite (s : State) (h : HartId) (part id tile idx : Nat) (req : BlockReq) (ans : BlockAns) :
    (s.landWrite h part id tile idx req ans).mem = s.mem := by
  unfold landWrite
  repeat' split
  all_goals simp

@[simp] theorem mem_releaseTile (s : State) (i : Nat) : (s.releaseTile i).mem = s.mem := by
  unfold releaseTile
  dsimp only
  repeat' split
  all_goals simp

@[simp] theorem mem_readDone (s : State) (c : CellId) (part id i : Nat) : (s.readDone c part id i).mem = s.mem := by
  unfold readDone
  dsimp only
  repeat' split
  all_goals simp

@[simp] theorem mem_settleRows (s : State) (l : List (Word × Except Nat RowReq)) : (s.settleRows l).state.mem = s.mem := by
  unfold settleRows
  split
  · exact mem_trap ..
  · exact mem_trap ..
  · rfl

theorem mem_rowsOf (l : List (Nat × Word)) (s : State) (acc : List (Word × Except Nat RowReq)) : (rowsOf l s acc).state.mem = s.mem := by
  induction l generalizing s acc with
  | nil => exact mem_settleRows ..
  | cons r l ih =>
    unfold rowsOf
    split
    · exact ih ..
    · split
      · exact mem_trap ..
      · next h => exact mem_of_translate_wait h
      · next h =>
        have m := mem_of_translate_ok h
        dsimp only
        repeat' split
        · exact mem_trap ..
        all_goals exact (ih ..).trans m

theorem mem_registerRows (h : HartId) (part : Nat) (c : CellId) (rs : List RowReq) (s : State) (ids : List Nat) :
    (registerRows h part c rs s ids).1.mem = s.mem := by
  induction rs generalizing s ids with
  | nil => rfl
  | cons r rs ih =>
    unfold registerRows
    split
    · rfl
    · simp [ih]

@[simp] theorem mem_moveRows (s : State) (k : Cmd) (ids : List Nat) (left : List RowReq) : (s.moveRows k ids left).mem = s.mem := by
  unfold moveRows
  dsimp only
  repeat' split
  all_goals simp [mem_registerRows]

@[simp] theorem mem_issueRows (s : State) (i : Instr) : (s.issueRows i).mem = s.mem := by
  unfold issueRows
  dsimp only
  split
  · exact mem_moveRows ..
  · split
    · exact mem_trap ..
    · have m := mem_rowsOf (drainList (s.mkCmd i)) s []
      split
      · next h => rwa [h] at m
      · next h =>
        rw [h] at m
        split
        · exact (mem_enterBuffer ..).trans m
        · exact (mem_moveRows ..).trans m

@[simp] theorem mem_clearFlag (s : State) (c : CellId) (part n : Nat) : (s.clearFlag c part n).mem = s.mem := by simp [clearFlag]

@[simp] theorem mem_setFlag (s : State) (c : CellId) (part n : Nat) : (s.setFlag c part n).mem = s.mem := by
  unfold setFlag
  split
  · rfl
  · exact (mem_foldl _ (fun _ _ => mem_answer ..) ..).trans (mem_updCtxFor ..)

@[simp] theorem mem_putFlag (s : State) (c : CellId) (part n : Nat) (v : Bool) : (s.putFlag c part n v).mem = s.mem := by
  unfold putFlag
  split <;> simp

@[simp] theorem mem_handedOver (s : State) (n : Nat) : (s.handedOver n).mem = s.mem := rfl

@[simp] theorem mem_parkOnFlag (s : State) (n : Nat) (clears : Bool) : (s.parkOnFlag n clears).mem = s.mem := rfl

@[simp] theorem mem_predict (s : State) (flag : Option Nat) (expect : Bool) (takenPc other : Word) :
    (s.predict flag expect takenPc other).mem = s.mem := by simp [predict]

@[simp] theorem mem_branchFlag (s : State) (n : Nat) (off : Nat) (on : Bool) : (s.branchFlag n off on).mem = s.mem := by
  unfold branchFlag
  dsimp only
  repeat' split
  all_goals simp

@[simp] theorem mem_arrive (s : State) (i b : Nat) : (s.arrive i b).mem = s.mem := by
  unfold arrive
  dsimp only
  repeat' split
  · rfl
  · rfl
  · exact mem_barSettle ..

@[simp] theorem mem_barWait (s : State) (g : Gang) (b : Nat) : (s.barWait g b).mem = s.mem := by
  unfold barWait
  split <;> simp

@[simp] theorem mem_barW (s : State) (b : Nat) (g : Gang) : (s.barW b g).mem = s.mem := by
  unfold barW
  split <;> simp

@[simp] theorem mem_barVw (s : State) (b : Nat) : (s.barVw b).mem = s.mem := by
  unfold barVw
  split <;> simp

@[simp] theorem mem_setSem (s : State) (n : Nat) (v : Sem) : (s.setSem n v).mem = s.mem := rfl

@[simp] theorem mem_handTo (s : State) (h : Nat) (a : Answer) : (s.handTo h a).mem = s.mem := by simp [handTo]

@[simp] theorem mem_semTake (s : State) (n : Nat) : (s.semTake n).mem = s.mem := by
  unfold semTake
  dsimp only
  split <;> simp

@[simp] theorem mem_semGive (s : State) (n : Nat) : (s.semGive n).mem = s.mem := by
  unfold semGive
  dsimp only
  split <;> simp

@[simp] theorem mem_setMutex (s : State) (c : CellId) (part n : Nat) (v : Mutex) : (s.setMutex c part n v).mem = s.mem := by simp [setMutex]

@[simp] theorem mem_freeMutex (s : State) (c : CellId) (part n : Nat) : (s.freeMutex c part n).mem = s.mem := by
  unfold freeMutex
  split <;> simp

@[simp] theorem mem_takeMutex (s : State) (n : Nat) : (s.takeMutex n).mem = s.mem := by simp [takeMutex]

@[simp] theorem mem_dropInsn (s : State) (qa addr synd : Nat) : (s.dropInsn qa addr synd).mem = s.mem := rfl

/-- The state in which a fetch ends. -/
def Fetched.state : Fetched → State
  | .word _ s => s
  | .fault _ s => s
  | .wait s => s

@[simp] theorem mem_fetchAt (s : State) (e : TlbEntry) (qa : Nat) : (s.fetchAt e qa).state.mem = s.mem := by
  unfold fetchAt
  repeat' split
  all_goals rfl

@[simp] theorem mem_fetch (s : State) : s.fetch.state.mem = s.mem := by
  unfold fetch
  dsimp only
  split
  · rfl
  · split
    · rfl
    · next h => exact mem_of_translate_wait h
    · next h =>
      split
      · exact (mem_fetchAt ..).trans (mem_of_translate_ok h)
      · rfl

@[simp] theorem mem_askHalt (s : State) (c : CellId) (cause : Nat) : (s.askHalt c cause).mem = s.mem := by
  unfold askHalt
  split <;> simp

@[simp] theorem mem_resumeCell (s : State) (c : CellId) : (s.resumeCell c).mem = s.mem := rfl

@[simp] theorem mem_dbgStore (s : State) (c : CellId) (v : Word) : (s.dbgStore c v).mem = s.mem := by
  unfold dbgStore
  dsimp only
  repeat' split
  all_goals simp

@[simp] theorem mem_updCsr (s : State) (h : HartId) (f : HartCsrs → HartCsrs) : (s.updCsr h f).mem = s.mem := rfl

@[simp] theorem mem_csrSet (s : State) (h : HartId) (n : Nat) (v : Word) : (s.csrSet h n v).mem = s.mem := by
  unfold csrSet
  split <;> simp

@[simp] theorem mem_csrOp (s : State) (i : Instr) (rd n : Nat) (writes : Bool) (new : Word → Word) :
    (s.csrOp i rd n writes new).mem = s.mem := by
  unfold csrOp
  repeat' split
  all_goals simp

@[simp] theorem mem_returnFromTrap (s : State) : s.returnFromTrap.mem = s.mem := rfl

@[simp] theorem mem_shootdown (s : State) (hit : DieId → Bool) (mode part va : Nat) : (s.shootdown hit mode part va).mem = s.mem := rfl

@[simp] theorem mem_setQueue (s : State) (q : Nat) (v : QueueReg) : (s.setQueue q v).mem = s.mem := rfl

@[simp] theorem mem_queuePush (s : State) (q : Nat) (w : Word) : (s.queuePush q w).mem = s.mem := by
  unfold queuePush
  dsimp only
  split <;> simp

@[simp] theorem mem_queuePop (s : State) (q : Nat) (es : List Word) : (s.queuePop q es).mem = s.mem := by
  unfold queuePop
  dsimp only
  split <;> simp

@[simp] theorem mem_setRing (s : State) (c : CellId) (part ch : Nat) (v : MsgRing) :
    (s.setRing c part ch v).mem = s.mem := by simp [setRing]

@[simp] theorem mem_wakeChannel (s : State) (c : CellId) (part ch : Nat) : (s.wakeChannel c part ch).mem = s.mem :=
  mem_foldl _ (fun t n => by simp [apply_ite State.mem]) ..

@[simp] theorem mem_endCommand (s : State) (c : CellId) (e : Nat) (k : Cmd) : (s.endCommand c e k).mem = s.mem := by
  unfold endCommand
  rw [mem_wakeTiles]
  exact mem_foldl _ (fun _ _ => mem_readDone ..) ..

@[simp] theorem mem_faultHead (s : State) (c : CellId) (e : Nat) (k : Cmd) (sub : Nat) :
    (s.faultHead c e k sub).mem = s.mem := by simp [faultHead]

@[simp] theorem mem_raiseSticky (s : State) (k : Cmd) (bits : Nat) : (s.raiseSticky k bits).mem = s.mem := by
  unfold raiseSticky
  split <;> simp

@[simp] theorem mem_beginHead (s : State) (c : CellId) (e : Nat) (k : Cmd) (r : EngineResult) : (s.beginHead c e k r).mem = s.mem := by
  unfold beginHead
  exact mem_foldl _ (fun _ _ => mem_setTile ..) ..

@[simp] theorem mem_startHead (s : State) (c : CellId) (e : Nat) (k : Cmd) : (s.startHead c e k).mem = s.mem := by
  unfold startHead
  dsimp only
  repeat' split
  all_goals simp

@[simp] theorem mem_landResult (s : State) (c : CellId) (part : Nat) (b : Nat × Option (BitVec 32768 × BitVec 512)) :
    (s.landResult c part b).mem = s.mem := by
  unfold landResult
  split <;> simp

@[simp] theorem mem_sendRow (s : State) (id : Nat) (bytes : List Byte) : (s.sendRow id bytes).mem = s.mem := by
  unfold sendRow
  split <;> simp

@[simp] theorem mem_finishHead (s : State) (c : CellId) (e : Nat) (k : Cmd) (r : EngineResult) : (s.finishHead c e k r).mem = s.mem := by
  unfold finishHead
  simp only [mem_endCommand, apply_ite State.mem, mem_postImprecise, ite_self]
  rw [mem_foldl _ (fun t p => mem_sendRow ..), mem_foldl _ (fun t f => mem_putFlag ..), mem_foldl _ (fun t b => mem_landResult ..)]

@[simp] theorem mem_goBack (s : State) (h : HartId) (part : Nat) (sp : Spec) : (s.goBack h part sp).mem = s.mem := by simp [goBack]

@[simp] theorem mem_updEntry (s : State) (c : CellId) (id : Nat) (f : Buffered → Buffered) : (s.updEntry c id f).mem = s.mem := rfl

theorem mem_entryRows (s : State) (h : HartId) (b : Buffered) : (s.entryRows h b).1.mem = s.mem := by
  unfold entryRows
  split
  · rfl
  · simp [mem_registerRows]

@[simp] theorem mem_commitEntries (h : HartId) (l : List Buffered) (s : State) : (commitEntries h l s).mem = s.mem := by
  induction l generalizing s with
  | nil => rfl
  | cons b l ih =>
    unfold commitEntries
    dsimp only
    split
    · exact mem_entryRows ..
    · simp [ih, mem_entryRows]

@[simp] theorem mem_moveCommitted (s : State) (h : HartId) : (s.moveCommitted h).mem = s.mem := by
  unfold moveCommitted
  dsimp only
  split <;> simp

@[simp] theorem mem_confirm (s : State) (h : HartId) (part : Nat) : (s.confirm h part).mem = s.mem := by simp [confirm]

theorem mem_registerSent (src : HartId) (part : Nat) (c : CellId) (rs : List (Word × Seg)) (s : State) (ids : List Nat) :
    (registerSent src part c rs s ids).1.mem = s.mem := by
  induction rs generalizing s ids with
  | nil => rfl
  | cons r rs ih => simp [registerSent, ih]

@[simp] theorem mem_refuseSent (s : State) (src : HartId) (part : Nat) (dst : CellId) (k : Cmd) (cause sub : Nat) :
    (s.refuseSent src part dst k cause sub).mem = s.mem := by simp [refuseSent]

@[simp] theorem mem_receiveMatrix (s : State) (id : Nat) (src : HartId) (part : Nat) (dst : CellId) (cap : Nat) (k : Cmd) :
    (s.receiveMatrix id src part dst cap k).mem = s.mem := by
  unfold receiveMatrix
  dsimp only
  repeat' split
  all_goals simp [mem_registerSent]

@[simp] theorem mem_closeTiles (s : State) (h : HartId) (part : Nat) : (s.closeTiles h part).mem = s.mem := by
  unfold closeTiles
  repeat' split
  all_goals simp

@[simp] theorem mem_lastHart (s : State) (c : CellId) (retain : Bool) (succ : Nat) : (s.lastHart c retain succ).mem = s.mem := by
  unfold lastHart
  split <;> simp

@[simp] theorem mem_freeHart (s : State) (h : HartId) (st : HartStatus) : (s.freeHart h st).mem = s.mem := by
  unfold freeHart
  split <;> simp

@[simp] theorem mem_haltHart (s : State) (x1 : Word) : (s.haltHart x1).mem = s.mem := by simp [haltHart]

@[simp] theorem mem_restoreTiles (s : State) (c : CellId) (ts : List Nat) : (s.restoreTiles c ts).mem = s.mem :=
  mem_foldl _ (fun _ _ => mem_setAcc ..) ..

@[simp] theorem mem_dropLoads (s : State) (n : HartId) (part : Nat) : (s.dropLoads n part).mem = s.mem := rfl

@[simp] theorem mem_abandonWait (s : State) (h : HartId) : (s.abandonWait h).mem = s.mem := by
  unfold abandonWait
  dsimp only
  split <;> simp

@[simp] theorem mem_treatHalted (s : State) (h : HartId) : (s.treatHalted h).mem = s.mem := by simp [treatHalted]

@[simp] theorem mem_residentAgain (s : State) (h : HartId) (g : Hart) : (s.residentAgain h g).mem = s.mem := by
  unfold residentAgain
  repeat' split
  all_goals simp

@[simp] theorem mem_leaveName (s : State) (o : HartId) : (s.leaveName o).mem = s.mem := by
  unfold leaveName
  dsimp only
  split <;> simp

@[simp] theorem mem_endService (s : State) : s.endService.mem = s.mem := by
  unfold endService
  simp only [mem_leaveName, mem_restoreTiles, mem_residentAgain, mem_setCell, mem_dropResv, mem_freeMutexes, mem_closeTiles]
  split <;> simp

@[simp] theorem mem_haltOp (s : State) (x1 : Word) : (s.haltOp x1).mem = s.mem := by
  unfold haltOp
  repeat' split
  all_goals simp

@[simp] theorem mem_asyncTrap (s : State) (h : HartId) (intr : Bool) (c : Nat) (tval : Word) :
    (s.asyncTrap h intr c tval).mem = s.mem := by simp [asyncTrap]

@[simp] theorem mem_takeInterrupt (s : State) (h : HartId) (c : Nat) : (s.takeInterrupt h c).mem = s.mem := by simp [takeInterrupt]

@[simp] theorem mem_moveRr (s : State) (h : HartId) : (s.moveRr h).mem = s.mem := rfl

@[simp] theorem mem_sendAck (s : State) (id : Nat) (a : Access) : (s.sendAck id a).mem = s.mem := by simp [sendAck]

@[simp] theorem mem_countDown (s : State) (h : HartId) (part cls : Nat) : (s.countDown h part cls).mem = s.mem := by simp [countDown]

@[simp] theorem mem_acked (s : State) (id : Nat) (h : HartId) (part : Nat) (cls : Option Nat) : (s.acked id h part cls).mem = s.mem := by
  unfold acked
  repeat' split
  all_goals simp

@[simp] theorem mem_replicaStep (s : State) (id : Nat) (a : Access) (cls : Option Nat) (mask val : Word) (left : List Nat) (d : Nat)
    (again : Event) :
    (s.replicaStep id a cls mask val left d again).mem = s.mem := by
  unfold replicaStep
  dsimp only
  repeat' split
  all_goals simp

@[simp] theorem mem_discardHost (s : State) (id : Nat) (a : Access) (cls : Option Nat) (mask val : Word) (add : Bool) :
    (s.discardHost id a cls mask val add).mem = s.mem := by simp [discardHost]

@[simp] theorem mem_answerStore (s : State) (id : Nat) (a : Access) (val : Word) (retired : Bool) (ans : Answer) :
    (s.answerStore id a val retired ans).mem = s.mem := by simp [answerStore]

@[simp] theorem mem_letGo (s : State) (a : Access) (retired : Bool) : (s.letGo a retired).mem = s.mem := by
  unfold letGo
  split <;> simp

@[simp] theorem mem_grant (s : State) (id : Nat) (a : Access) (val : Word) (v : Word) (retired : Bool) :
    (s.grant id a val v retired).mem = s.mem := by simp [grant]

@[simp] theorem mem_answerAtomic (s : State) (id : Nat) (a : Access) (k : AtomicKind) (val : Word) (ans : Answer) :
    (s.answerAtomic id a k val ans).mem = s.mem := by
  unfold answerAtomic
  split <;> simp

@[simp] theorem mem_refuseStore (s : State) (id : Nat) (a : Access) (val : Word) (retired : Bool) (cause : Nat) :
    (s.refuseStore id a val retired cause).mem = s.mem := by
  unfold refuseStore
  repeat' split
  all_goals simp

@[simp] theorem mem_askOwner (s : State) (id : Nat) (a : Access) (o : CellId) : (s.askOwner id a o).mem = s.mem := by simp [askOwner]

@[simp] theorem mem_freeBusy (s : State) (w : Nat) : (s.freeBusy w).mem = s.mem := rfl

@[simp] theorem mem_migrate (s : State) (page : Nat) (d : DieId) : (s.migrate page d).mem = s.mem := rfl

@[simp] theorem mem_setTask (s : State) (pkg id : Nat) (t : Task) : (s.setTask pkg id t).mem = s.mem := rfl

@[simp] theorem mem_freeTask (s : State) (pkg id : Nat) : (s.freeTask pkg id).mem = s.mem := rfl

@[simp] theorem mem_makeReady (s : State) (pkg id : Nat) (t : Task) : (s.makeReady pkg id t).mem = s.mem := by
  unfold makeReady
  split <;> simp

theorem mem_of_addTask {s t : State} {pkg id : Nat} {delta : Int} {producer : HartId} (h : s.addTask pkg id delta producer = some t) :
    t.mem = s.mem := by
  unfold addTask at h
  split at h
  · cases h
  · dsimp only at h
    split at h
    · cases h
    · cases h
      split <;> simp

@[simp] theorem mem_handOver (s : State) (rd id : Nat) : (s.handOver rd id).mem = s.mem := by
  unfold handOver
  dsimp only
  repeat' split
  all_goals simp

@[simp] theorem mem_takeTask (s : State) (rd id : Nat) : (s.takeTask rd id).mem = s.mem := by
  unfold takeTask
  split <;> simp

@[simp] theorem mem_endTask (s : State) (id : Nat) (t : Task) : (s.endTask id t).mem = s.mem := by
  unfold endTask
  dsimp only
  split
  · simp
  · split
    · next h => simpa using mem_of_addTask h
    · simp

@[simp] theorem mem_leaveQueue (s : State) (qa : Nat) (h : HartId) (part : Nat) : (s.leaveQueue qa h part).mem = s.mem := rfl

@[simp] theorem mem_lineUp (s : State) (qa scope : Nat) : (s.lineUp qa scope).mem = s.mem := by
  unfold lineUp
  dsimp only
  split <;> simp

@[simp] theorem mem_parkPopper (s : State) (qa scope : Nat) : (s.parkPopper qa scope).mem = s.mem := by simp [parkPopper]

@[simp] theorem mem_setSet (s : State) (d : DieId) (i : Nat) (v : SampleSet) : (s.setSet d i v).mem = s.mem := rfl

@[simp] theorem mem_solverTrap (s : State) (sub : Nat) : (s.solverTrap sub).mem = s.mem := by simp [solverTrap]

@[simp] theorem mem_armWith (s : State) (d : DieId) (set tab : Nat) (ws : List Word) (n : Nat) :
    (s.armWith d set tab ws n).mem = s.mem := by
  unfold armWith
  repeat' split
  all_goals simp

@[simp] theorem mem_stopSet (s : State) (d : DieId) (i arm : Nat) : (s.stopSet d i arm).mem = s.mem := by
  unfold stopSet
  dsimp only
  repeat' split
  all_goals simp

@[simp] theorem mem_sendDecision (s : State) (d : DieId) (k : Decision) : (s.sendDecision d k).mem = s.mem := by
  unfold sendDecision
  dsimp only
  repeat' split
  all_goals simp

@[simp] theorem mem_decisionAnswer (s : State) (d : DieId) (id : Nat) (ans : BlockAns) : (s.decisionAnswer d id ans).mem = s.mem := by
  unfold decisionAnswer
  dsimp only
  repeat' split
  all_goals simp

@[simp] theorem mem_decideSet (s : State) (d : DieId) (i : Nat) (v : SampleSet) : (s.decideSet d i v).mem = s.mem := by simp [decideSet]

@[simp] theorem mem_postPart (s : State) (d : DieId) (set n : Nat) (v : SampleSet) (x : Sample) (slice val : Nat) :
    (s.postPart d set n v x slice val).mem = s.mem := by
  unfold postPart
  dsimp only
  repeat' split
  all_goals simp

@[simp] theorem mem_setChanFor (s : State) (c : CellId) (part ch : Nat) (v : Channel) :
    (s.setChanFor c part ch v).mem = s.mem := by simp [setChanFor]

@[simp] theorem mem_updRun (s : State) (c : CellId) (part ch : Nat) (f : RecRun → RecRun) :
    (s.updRun c part ch f).mem = s.mem := by simp [updRun]

@[simp] theorem mem_kick (s : State) (c : CellId) (ch : Nat) : (s.kick c ch).mem = s.mem := by simp [kick]

@[simp] theorem mem_kickDone (s : State) (c : CellId) (ch : Nat) : (s.kickDone c ch).mem = s.mem := by simp [kickDone]

@[simp] theorem mem_freeLocks (s : State) (ids : List Nat) : (s.freeLocks ids).mem = s.mem :=
  mem_foldl (fun t id => (t.unlock id).dropOp id) (fun _ _ => rfl) ids s

@[simp] theorem mem_wakeIdle (s : State) (c : CellId) (part ch : Nat) : (s.wakeIdle c part ch).mem = s.mem :=
  mem_foldl _ (fun t n => by simp [apply_ite State.mem]) ..

@[simp] theorem mem_endChain (s : State) (c : CellId) (part ch code sub : Nat) : (s.endChain c part ch code sub).mem = s.mem := by
  unfold endChain
  dsimp only
  split <;> simp

@[simp] theorem mem_poisonRest (s : State) (c : CellId) (part : Nat) (r : RecRun) : (s.poisonRest c part r).mem = s.mem := by
  unfold poisonRest
  split
  · rfl
  · exact mem_foldl _ (fun t i => by simp [apply_ite State.mem]) ..

@[simp] theorem mem_undrain (s : State) (c : CellId) (part : Nat) (r : RecRun) : (s.undrain c part r).mem = s.mem := by
  unfold undrain
  split <;> simp

@[simp] theorem mem_chainFault (s : State) (c : CellId) (part ch addr sub : Nat) : (s.chainFault c part ch addr sub).mem = s.mem := by
  unfold chainFault
  dsimp only
  repeat' split
  all_goals simp

@[simp] theorem mem_runFault (s : State) (c : CellId) (part ch : Nat) (r : RecRun) (sub : Nat) :
    (s.runFault c part ch r sub).mem = s.mem := by simp [runFault]

@[simp] theorem mem_startChain (s : State) (c : CellId) (part ch head : Nat) (owner : Option HartId) (mode : Mode) (seq : Nat) :
    (s.startChain c part ch head owner mode seq).mem = s.mem := by simp [startChain]

theorem mem_sendPieces (c : CellId) (part ch : Nat) (l : List (Nat × Seg)) (bs : List Byte) (s : State) (ids : List Nat) :
    (sendPieces c part ch l bs s ids).1.mem = s.mem := by
  induction l generalizing bs s ids with
  | nil => rfl
  | cons p l ih => simp [sendPieces, ih]

@[simp] theorem mem_fetchFailed (s : State) (c : CellId) (ch : Nat) (v : Channel) (sub : Nat) :
    (s.fetchFailed c ch v sub).mem = s.mem := by simp [fetchFailed]

@[simp] theorem mem_beginRecord (s : State) (c : CellId) (ch : Nat) (r : RecRun) : (s.beginRecord c ch r).mem = s.mem := by
  unfold beginRecord
  dsimp only
  repeat' split
  · simp
  · simp
  · simp
  · rw [mem_kick, mem_updRun]
    exact mem_foldl _ (fun _ _ => mem_setTile ..) ..

@[simp] theorem mem_readUnit (s : State) (c : CellId) (ch : Nat) (v : Channel) (r : RecRun) : (s.readUnit c ch v r).mem = s.mem := by
  unfold readUnit
  dsimp only
  repeat' split
  all_goals simp

@[simp] theorem mem_nextUnit (s : State) (c : CellId) (part ch : Nat) : (s.nextUnit c part ch).mem = s.mem := by simp [nextUnit]

@[simp] theorem mem_writeBlock (s : State) (c : CellId) (ch : Nat) (v : Channel) (r : RecRun) (win va gen : Nat) (m : Moved) :
    (s.writeBlock c ch v r win va gen m).mem = s.mem := by
  unfold writeBlock
  dsimp only
  split <;> simp

@[simp] theorem mem_writeUnit (s : State) (c : CellId) (ch : Nat) (v : Channel) (r : RecRun) (m : Moved) :
    (s.writeUnit c ch v r m).mem = s.mem := by
  unfold writeUnit
  dsimp only
  repeat' split
  all_goals simp [mem_sendPieces]

@[simp] theorem mem_decodeFrame (s : State) (c : CellId) (ch e : Nat) (b : BitVec 2048) (bs : List Byte) :
    (s.decodeFrame c ch e b bs).mem = s.mem := by simp [decodeFrame]

@[simp] theorem mem_frameUnit (s : State) (c : CellId) (ch : Nat) (v : Channel) (r : RecRun) (planes : Option (List Nat × List Nat)) :
    (s.frameUnit c ch v r planes).mem = s.mem := by simp [frameUnit]

@[simp] theorem mem_moveRecord (s : State) (c : CellId) (ch : Nat) (v : Channel) (r : RecRun) : (s.moveRecord c ch v r).mem = s.mem := by
  unfold moveRecord
  dsimp only
  repeat' split
  all_goals simp

@[simp] theorem mem_takeRecord (s : State) (c : CellId) (ch : Nat) (v : Channel) : (s.takeRecord c ch v).mem = s.mem := by
  unfold takeRecord
  repeat' split
  all_goals simp

@[simp] theorem mem_nextStage (s : State) (c : CellId) (part ch n : Nat) : (s.nextStage c part ch n).mem = s.mem := by simp [nextStage]

@[simp] theorem mem_completionFlag (s : State) (c : CellId) (ch : Nat) (r : RecRun) : (s.completionFlag c ch r).mem = s.mem := by
  unfold completionFlag
  dsimp only
  repeat' split
  all_goals simp

@[simp] theorem mem_completionTask (s : State) (c : CellId) (ch : Nat) (r : RecRun) : (s.completionTask c ch r).mem = s.mem := by
  unfold completionTask
  dsimp only
  split
  · simp
  · split
    · simp
    · split
      · simp
      · split
        · simp
        · next h => simpa using mem_of_addTask h

@[simp] theorem mem_completionEnd (s : State) (c : CellId) (ch : Nat) (v : Channel) (r : RecRun) :
    (s.completionEnd c ch v r).mem = s.mem := by
  unfold completionEnd
  repeat' split
  all_goals simp

@[simp] theorem mem_chanRead (s : State) (c : CellId) (ch part id : Nat) (ans : BlockAns) : (s.chanRead c ch part id ans).mem = s.mem := by
  have got : ∀ m : Moved, (((s.dropOp id).updRun c part ch fun r => { r with reading := none, ready := some m }).kick c ch).mem = s.mem :=
    fun _ => (mem_kick ..).trans (mem_updRun ..)
  unfold chanRead
  split
  · rfl
  split
  · rfl
  cases ans with
  | data => exact got _
  | poison => exact got _
  | _ => exact mem_runFault ..

@[simp] theorem mem_chanWrite (s : State) (c : CellId) (ch part id : Nat) (ans : BlockAns) :
    (s.chanWrite c ch part id ans).mem = s.mem := by
  unfold chanWrite
  repeat' split
  all_goals simp

@[simp] theorem mem_chanAcked (s : State) (c : CellId) (ch part id : Nat) : (s.chanAcked c ch part id).mem = s.mem := by simp [chanAcked]

@[simp] theorem mem_chanPostFails (s : State) (c : CellId) (ch part id sub : Nat) : (s.chanPostFails c ch part id sub).mem = s.mem := by
  unfold chanPostFails
  repeat' split
  all_goals simp

@[simp] theorem mem_logDiscard (s : State) (c : CellId) (part hart : Nat) : (s.logDiscard c part hart).mem = s.mem := by
  unfold logDiscard
  split <;> simp

@[simp] theorem mem_rollBack (s : State) (h : HartId) : (s.rollBack h).mem = s.mem := by
  unfold rollBack
  split <;> simp

@[simp] theorem mem_rollBackAll (s : State) (c : CellId) : (s.rollBackAll c).mem = s.mem := mem_foldl _ mem_rollBack ..

@[simp] theorem mem_setIsland (s : State) (d : DieId) (n : Nat) (v : Nat × Nat × Bool) : (s.setIsland d n v).mem = s.mem := rfl

@[simp] theorem mem_requestLevel (s : State) (d : DieId) (n level : Nat) : (s.requestLevel d n level).mem = s.mem := by
  unfold requestLevel
  split <;> simp

@[simp] theorem mem_askSwap (s : State) (c : CellId) (waiter : Option (HartId × Nat)) : (s.askSwap c waiter).mem = s.mem := by
  unfold askSwap
  split <;> simp

@[simp] theorem mem_dropL1 (s : State) (c : CellId) : (s.dropL1 c).mem = s.mem := mem_foldl _ (fun _ _ => mem_loseWord ..) ..

@[simp] theorem mem_endRetention (s : State) (c : CellId) : (s.endRetention c).mem = s.mem := by
  unfold endRetention
  split <;> simp

@[simp] theorem mem_exchange (s : State) (c : CellId) : (s.exchange c).mem = s.mem := rfl

@[simp] theorem mem_restart (s : State) (c : CellId) : (s.restart c).mem = s.mem := rfl

@[simp] theorem mem_swapNow (s : State) (c : CellId) : (s.swapNow c).mem = s.mem := by
  unfold swapNow
  dsimp only
  split <;> simp

@[simp] theorem mem_swapStep (s : State) (c : CellId) : (s.swapStep c).mem = s.mem := by
  unfold swapStep
  dsimp only
  repeat' split
  case h_2.isFalse =>
    rw [mem_push, mem_updCell]
    exact mem_foldl _ (fun t h => by simp [apply_ite State.mem]) ..
  all_goals simp

theorem mem_of_fillGranules {h : HartId} {l : List Nat} {s t : State} (e : fillGranules h l s = .ok t) : t.mem = s.mem := by
  induction l generalizing s with
  | nil => cases e; rfl
  | cons g l ih =>
    unfold fillGranules at e
    split at e
    · exact ih e
    · dsimp only at e
      split at e
      · cases e
      · exact (ih e).trans (mem_updHart ..)

@[simp] theorem mem_writeCtxCtl (s : State) (c : CellId) (v : Word) : (s.writeCtxCtl c v).mem = s.mem := by
  unfold writeCtxCtl
  dsimp only
  repeat' split
  all_goals simp

@[simp] theorem mem_writeDbgCtl (s : State) (c : CellId) (v : Word) : (s.writeDbgCtl c v).mem = s.mem := by simp [writeDbgCtl]

@[simp] theorem mem_agentDbgCtl (s : State) (c : CellId) (agent value : Nat) : (s.agentDbgCtl c agent value).mem = s.mem := by
  unfold agentDbgCtl
  split <;> simp

@[simp] theorem mem_haltCell (s : State) (c : CellId) : (s.haltCell c).mem = s.mem := by simp [haltCell]

@[simp] theorem mem_debugX (s : State) (h : HartId) (n : Nat) (w : Option Word) : (s.debugX h n w).2.mem = s.mem := by
  unfold debugX
  dsimp only
  split
  · split <;> simp
  · rfl

@[simp] theorem mem_debugH (s : State) (h : HartId) (n k : Nat) (w : Option Word) : (s.debugH h n k w).2.mem = s.mem := by
  unfold debugH
  dsimp only
  split <;> rfl

theorem mem_of_debugAccess {s : State} {h : HartId} {num : Nat} {w : Option Word} {r : Word × State} (e : s.debugAccess h num w = some r) :
    r.2.mem = s.mem := by
  unfold debugAccess at e
  extract_lets filled at e
  have hf : ∀ {g : Nat} {k : State → Word × State}, (∀ t, (k t).2.mem = t.mem) → filled g k = some r → r.2.mem = s.mem := by
    intro g k hk e
    unfold filled at e
    split at e
    · next h =>
      cases e
      exact (hk _).trans (mem_of_fillGranules h)
    · cases e
  split at e
  · exact hf (fun _ => mem_debugX ..) e
  split at e
  · exact hf (fun _ => mem_debugH ..) e
  split at e
  · split at e <;> cases e <;> rfl
  split at e
  · generalize num - 0x1000 = n at e
    split at e
    · cases e
    · cases e
      rfl
    · cases e
      simp [apply_ite State.mem]
  · cases e

@[simp] theorem mem_setFe (s : State) (d : DieId) (q : Nat) (v : FeQueue) : (s.setFe d q v).mem = s.mem := rfl

@[simp] theorem mem_setRun (s : State) (d : DieId) (q k : Nat) (r : Running) : (s.setRun d q k r).mem = s.mem := rfl

@[simp] theorem mem_dropRun (s : State) (d : DieId) (q k : Nat) : (s.dropRun d q k).mem = s.mem := rfl

@[simp] theorem mem_passHead (s : State) (d : DieId) (q : Nat) (head : Nat × List Nat) : (s.passHead d q head).mem = s.mem := rfl

@[simp] theorem mem_closeCommand (s : State) (d : DieId) (q k : Nat) (r : Running) : (s.closeCommand d q k r).mem = s.mem := rfl

@[simp] theorem mem_tellAgain (s : State) (d : DieId) (q k : Nat) (r : Running) (code detail n : Nat) :
    (s.tellAgain d q k r code detail n).mem = s.mem := rfl

@[simp] theorem mem_enterRun (s : State) (d : DieId) (q idx : Nat) (va : Word) (ws : List Word) (node : Option Nat) (ferry : Bool) :
    (s.enterRun d q idx va ws node ferry).mem = s.mem := rfl

@[simp] theorem mem_setFeRing (s : State) (d : DieId) (r : Nat) (v : Ring) : (s.setFeRing d r v).mem = s.mem := rfl

@[simp] theorem mem_raiseRing (s : State) (d : DieId) (r : Nat) (v : Ring) : (s.raiseRing d r v).mem = s.mem := rfl

@[simp] theorem mem_coalesce (s : State) (d : DieId) (r v : Nat) : (s.coalesce d r v).mem = s.mem := by
  unfold coalesce
  dsimp only
  repeat' split
  all_goals simp

@[simp] theorem mem_deadline (s : State) (d : DieId) (r : Nat) : (s.deadline d r).mem = s.mem := by
  unfold deadline
  dsimp only
  split <;> simp

@[simp] theorem mem_writeDl (s : State) (d : DieId) (r dl : Nat) : (s.writeDl d r dl).mem = s.mem := by
  unfold writeDl
  dsimp only
  repeat' split
  all_goals simp

@[simp] theorem mem_placeBlocks (s : State) (d : DieId) (part : Nat) (b : BlockEntry) : (s.placeBlocks d part b).mem = s.mem :=
  mem_foldl _ (fun t i => by split <;> simp) ..

@[simp] theorem mem_setStage (s : State) (d : DieId) (q k : Nat) (r : Running) (l : LaunchRun) (st : LaunchStage) :
    (s.setStage d q k r l st).mem = s.mem := rfl

@[simp] theorem mem_releaseGrant (s : State) (c : CellId) : (s.releaseGrant c).mem = s.mem := rfl

@[simp] theorem mem_attemptFails (s : State) (d : DieId) (q k : Nat) (r : Running) (l : LaunchRun) (granted : List CellId) :
    (s.attemptFails d q k r l granted).mem = s.mem := by
  unfold attemptFails
  rw [mem_push, mem_setStage]
  exact mem_foldl _ mem_releaseGrant ..

@[simp] theorem mem_choosePlace (s : State) (d : DieId) (q k : Nat) (r : Running) (l : LaunchRun) :
    (s.choosePlace d q k r l).mem = s.mem := by
  unfold choosePlace
  dsimp only
  repeat' split
  all_goals simp

@[simp] theorem mem_logLaunch (s : State) (d : DieId) (part kid : Nat) (digest : List Byte) :
    (s.logLaunch d part kid digest).mem = s.mem := rfl

@[simp] theorem mem_startHart (s : State) (l : Lpb) (c : CellId) (n : Nat) : (s.startHart l c n).mem = s.mem := by
  unfold startHart
  split <;> simp

@[simp] theorem mem_retireCell (s : State) (g : Gang) (c : CellId) : (s.retireCell g c).mem = s.mem := by
  unfold retireCell
  dsimp only
  split <;> simp

@[simp] theorem mem_logAccepted (s : State) (d : DieId) (part : Nat) (va : Word) (l : Lpb) (text : List Byte) :
    (s.logAccepted d part va l text).mem = s.mem := by
  unfold logAccepted
  split
  · exact mem_logLaunch ..
  · rfl

@[simp] theorem mem_logLost (s : State) (g : Seg) : (s.logLost g).mem = s.mem :=
  mem_foldl _ (fun t w => by simp [apply_ite State.mem]) ..

@[simp] theorem mem_writeBias (s : State) (d : DieId) (v : Word) : (s.writeBias d v).mem = s.mem := by
  unfold writeBias
  dsimp only
  repeat' split
  all_goals simp

@[simp] theorem mem_logDiscards (s : State) (l : List (CellId × Nat × Nat)) (seen : List CellId) : (s.logDiscards l seen).mem = s.mem := by
  induction l generalizing s seen with
  | nil => rfl
  | cons p l ih =>
    unfold logDiscards
    split <;> simp [ih]

@[simp] theorem mem_setPort (s : State) (pkg p : Nat) (v : Port) : (s.setPort pkg p v).mem = s.mem := rfl

@[simp] theorem mem_resendFlow (s : State) (port src dst lane : Nat) (f : Flow) : (s.resendFlow port src dst lane f).mem = s.mem := by
  unfold resendFlow
  dsimp only
  split <;> simp

@[simp] theorem mem_portFails (s : State) (pkg p : Nat) : (s.portFails pkg p).mem = s.mem := by
  unfold portFails
  rw [mem_pushAll]
  exact mem_foldl _ (fun t f => by simp [apply_ite State.mem]) ..

@[simp] theorem mem_retrain (s : State) (pkg p : Nat) : (s.retrain pkg p).mem = s.mem := rfl

@[simp] theorem mem_refill (s : State) (src dst lane : Nat) : (s.refill src dst lane).mem = s.mem := by
  unfold refill
  dsimp only
  repeat' split
  all_goals simp

@[simp] theorem mem_dropCopy (s : State) (src dst lane : Nat) (f : Flow) (c : Copy) (i : Nat) :
    (s.dropCopy src dst lane f c i).mem = s.mem := by
  unfold dropCopy
  split <;> simp

@[simp] theorem mem_hop (s : State) (src dst lane : Nat) (f : Flow) (c : Copy) (i : Nat) : (s.hop src dst lane f c i).mem = s.mem := by
  unfold hop
  dsimp only
  repeat' split
  all_goals simp

@[simp] theorem mem_logCut (s : State) (c : CellId) (part hart dst : Nat) : (s.logCut c part hart dst).mem = s.mem := by
  unfold logCut
  split <;> simp

@[simp] theorem mem_dropAnswers (s : State) (src dst : Nat) (es : List Event) : (s.dropAnswers src dst es).mem = s.mem :=
  mem_foldl _ (fun t e => by simp) ..

@[simp] theorem mem_cutGrants (s : State) (w : Nat) : (s.cutGrants w).mem = s.mem := rfl

@[simp] theorem mem_writeIsland (s : State) (d : DieId) (n : Nat) (v : Word) : (s.writeIsland d n v).mem = s.mem := rfl

@[simp] theorem mem_windowEnds (s : State) (pkg watts : Nat) : (s.windowEnds pkg watts).mem = s.mem := by
  unfold windowEnds
  dsimp only
  repeat' split
  all_goals simp

@[simp] theorem mem_writeLimit (s : State) (pkg : Nat) (v : Word) : (s.writeLimit pkg v).mem = s.mem := rfl

@[simp] theorem mem_startImage (s : State) (d : DieId) (slot : Nat) : (s.startImage d slot).mem = s.mem := rfl

@[simp] theorem mem_verifyImage (s : State) (d : DieId) : (s.verifyImage d).mem = s.mem := by
  unfold verifyImage
  dsimp only
  repeat' split
  all_goals simp

@[simp] theorem mem_startRom (s : State) (d : DieId) : (s.startRom d).mem = s.mem := rfl

@[simp] theorem mem_writeFlash (s : State) (pkg off : Nat) (b : Byte) : (s.writeFlash pkg off b).mem = s.mem := by
  simp only [writeFlash, apply_ite State.mem, mem_updPkg, ite_self]

@[simp] theorem mem_romStep (s : State) (pkg : Nat) : (s.romStep pkg).mem = s.mem := by
  unfold romStep
  dsimp only
  repeat' split
  all_goals simp

@[simp] theorem mem_logRefusal (s : State) (pkg : Nat) : (s.logRefusal pkg).mem = s.mem := rfl

@[simp] theorem mem_logArray (s : State) (c : CellId) (ue : Bool) (array addr synd : Nat) :
    (s.logArray c ue array addr synd).mem = s.mem := by
  unfold logArray
  repeat' split
  all_goals simp

@[simp] theorem mem_strikeL1 (s : State) (c : CellId) (n : Nat) : (s.strikeL1 c n).mem = s.mem := by
  unfold strikeL1
  dsimp only
  repeat' split
  all_goals simp

@[simp] theorem mem_strikeUnified (s : State) (c : CellId) (n : Nat) : (s.strikeUnified c n).mem = s.mem := by
  unfold strikeUnified
  dsimp only
  split <;> simp

@[simp] theorem mem_strikeInsn (s : State) (c : CellId) (n addr synd : Nat) : (s.strikeInsn c n addr synd).mem = s.mem := by
  unfold strikeInsn
  dsimp only
  repeat' split
  all_goals simp

@[simp] theorem mem_strikePreempted (s : State) (h : HartId) (g : Hart) : (s.strikePreempted h g).mem = s.mem := by
  unfold strikePreempted
  simp

@[simp] theorem mem_strikeBank (s : State) (h : HartId) (pre : Bool) : (s.strikeBank h pre).mem = s.mem := by
  unfold strikeBank
  dsimp only
  repeat' split
  all_goals simp

@[simp] theorem mem_strikeSillage (s : State) (d : DieId) (n : Nat) : (s.strikeSillage d n).mem = s.mem := by
  unfold strikeSillage
  split
  · rfl
  · exact mem_foldl _ (fun t e => by simp) ..

@[simp] theorem mem_strikeHbm (s : State) (w : Nat) : (s.strikeHbm w).mem = s.mem := by
  unfold strikeHbm
  split <;> simp

@[simp] theorem mem_setReg (s : State) (d : DieId) (off : Nat) (v : Word) : (s.setReg d off v).mem = s.mem := rfl

@[simp] theorem mem_writeQueueTable (s : State) (d : DieId) (q i : Nat) (v : Word) : (s.writeQueueTable d q i v).mem = s.mem := by
  unfold writeQueueTable
  dsimp only
  split <;> simp

@[simp] theorem mem_writeRing (s : State) (d : DieId) (r : Nat) (second : Bool) (v : Word) : (s.writeRing d r second v).mem = s.mem := by
  unfold writeRing
  split <;> simp

@[simp] theorem mem_writeRoute (s : State) (d : DieId) (q : Nat) (v : Word) : (s.writeRoute d q v).mem = s.mem := by
  unfold writeRoute
  split <;> simp

@[simp] theorem mem_reboot (s : State) (d : DieId) : (s.reboot d).mem = s.mem := by simp [reboot]

@[simp] theorem mem_takeBack (s : State) (d : DieId) : (s.takeBack d).mem = s.mem := rfl

@[simp] theorem mem_writeFeCtl (s : State) (d : DieId) (agent : Nat) (v : Word) : (s.writeFeCtl d agent v).mem = s.mem := by
  unfold writeFeCtl
  dsimp only
  repeat' split
  all_goals simp

@[simp] theorem mem_feIrqWrite (s : State) (d : DieId) (v : Word) : (s.feIrqWrite d v).mem = s.mem := by
  unfold feIrqWrite
  split <;> simp

@[simp] theorem mem_fuseWrite (s : State) (d : DieId) (v : Word) : (s.fuseWrite d v).mem = s.mem := by
  unfold fuseWrite
  dsimp only
  split <;> simp

@[simp] theorem mem_writePstat (s : State) (d : DieId) (v : Word) : (s.writePstat d v).mem = s.mem := rfl

@[simp] theorem mem_writeFixed (s : State) (d : DieId) (agent off : Nat) (v : Word) : (s.writeFixed d agent off v).mem = s.mem := by
  unfold writeFixed
  repeat' split
  all_goals simp

@[simp] theorem mem_noteLease (s : State) (d : DieId) (l : Nat × Nat) : (s.noteLease d l).mem = s.mem := rfl

@[simp] theorem mem_hangFires (s : State) (d : DieId) : (s.hangFires d).mem = s.mem := by
  unfold hangFires
  rw [mem_logDie, mem_emit, mem_updDie]
  exact mem_foldl _ (fun _ _ => mem_updDie ..) ..

theorem mem_of_fillFor {s t : State} {i : Instr} (h : s.fillFor i = .ok t) : t.mem = s.mem := by
  unfold fillFor at h
  split at h
  · cases h; rfl
  · exact mem_of_fillGranules h

@[simp] theorem mem_faultTold (e : Event) (s : State) (n : Need) : (faultTold e s n).mem = s.mem := rfl

@[simp] theorem mem_missUnit (e : Event) (s : State) (n : Need) : (missUnit e s n).mem = s.mem := by
  unfold missUnit
  dsimp only
  split <;> simp

@[simp] theorem mem_missUnits (e : Event) (s : State) (miss : List Need) : (missUnits e s miss).mem = s.mem :=
  (mem_foldl _ (mem_missUnit e) ..).trans (mem_foldl _ (fun _ _ => mem_updDie ..) ..)

theorem mem_of_predicted {s t : State} {i : Instr} (h : s.predicted i = some t) : t.mem = s.mem := by
  unfold predicted at h
  split at h
  · cases h
  · dsimp only at h
    split at h
    · cases h
    · cases h
      split <;> exact mem_predict ..

@[simp] theorem mem_takeUp (s : State) : s.takeUp.mem = s.mem := by
  unfold takeUp
  split <;> simp

@[simp] theorem mem_tickProcessor (s : State) (c : CellId) (proc : Nat) : (s.tickProcessor c proc).mem = s.mem := by
  unfold tickProcessor
  split <;> simp

@[simp] theorem mem_begun (s : State) : s.begun.mem = s.mem := by simp [begun]

@[simp] theorem mem_endTurn (h : HartId) (s : State) : (endTurn h s).mem = s.mem := by
  unfold endTurn
  dsimp only
  repeat' split
  all_goals simp

@[simp] theorem mem_advance (s : State) : s.advance.mem = s.mem := rfl

end State

end Sys2Proof.Machine
end

section
/-!
### Operations that write memory keep its canonical form

An operation that goes on with a continuation keeps the form if the continuation does.
-/
namespace Sys2Proof.Machine

namespace State

/-- Canonical form goes by memory alone. -/
theorem wf_of_mem {s t : State} (e : t.mem = s.mem) (h : s.mem.wf = true) : t.mem.wf = true := e ▸ h

theorem wf_withPage {s : State} (h : s.mem.wf = true) {k : State → TlbEntry → Nat → State}
    (hk : ∀ t e qa, t.mem.wf = true → (k t e qa).mem.wf = true) (acc : Acc) (win : Nat) (va : Word) :
    (s.withPage acc win va k).mem.wf = true := by
  obtain ⟨c, e⟩ | ⟨t, ht, e⟩ | ⟨p, t, ht, -, -, e⟩ := withPage_cases s acc win va k <;> rw [e]
  · exact wf_of_mem (mem_trap ..) h
  · exact wf_of_mem (mem_of_translate_wait ht) h
  · exact hk _ _ _ (wf_of_mem (mem_of_translate_ok ht) h)

theorem wf_l1Out {s : State} (h : s.mem.wf = true) (c : CellId) (w : Nat) : (s.l1Out c w).mem.wf = true := by
  unfold l1Out
  dsimp only
  split
  · exact wf_evictWord h ..
  · exact h

theorem wf_l1Room {s : State} (h : s.mem.wf = true) (c : CellId) (w : Nat) : (s.l1Room c w).mem.wf = true := wf_l1Set h c w ⟨true, 0⟩

theorem wf_loadWord {s : State} (h : s.mem.wf = true) {k : State → Word → State} (hk : ∀ t v, t.mem.wf = true → (k t v).mem.wf = true)
    (a : Access) : (s.loadWord a k).mem.wf = true := by
  unfold loadWord
  dsimp only
  split
  · exact h
  split
  · exact hk _ _ h
  split
  · exact h
  split
  · exact wf_of_mem (mem_trap ..) h
  split
  · exact wf_of_mem (mem_request ..) h
  split
  · exact hk _ _ (wf_l1Set h ..)
  · exact wf_of_mem (mem_trap ..) h
  · exact wf_of_mem (mem_request ..) h

theorem wf_earlyLoad {s : State} (h : s.mem.wf = true) (c : CellId) (va : Word) : (s.earlyLoad c va).mem.wf = true := by
  unfold earlyLoad
  dsimp only
  repeat' split
  all_goals simp [h, wf_l1Set]

theorem wf_storeTracked {s : State} (h : s.mem.wf = true) {k : State → State} (hk : ∀ t, t.mem.wf = true → (k t).mem.wf = true)
    (a : Access) (val : Word) : (s.storeTracked a val k).mem.wf = true := by
  unfold storeTracked
  dsimp only
  split
  · exact hk _ (wf_writeOwned h ..)
  split
  · exact wf_of_mem (mem_trap ..) h
  split
  · exact wf_of_mem (mem_request ..) h
  split
  · exact hk _ (wf_of_mem (mem_registering ..) h)
  · exact wf_of_mem (mem_trap ..) h
  · split
    · exact hk _ (wf_of_mem (mem_registering ..) h)
    · exact wf_of_mem (mem_request ..) h
  · exact wf_of_mem (mem_request ..) h

theorem wf_storeThrough {s : State} (h : s.mem.wf = true) {k : State → State} (hk : ∀ t, t.mem.wf = true → (k t).mem.wf = true)
    (a : Access) (val : Word) : (s.storeThrough a val k).mem.wf = true := by
  have own := wf_ownHome h s.myCell (wordOf a.qa)
  unfold storeThrough
  dsimp only
  repeat' split
  · exact wf_of_mem (mem_trap ..) h
  · exact h
  · exact wf_of_mem (mem_trap ..) h
  all_goals refine hk _ (wf_of_mem (mem_send ..) (wf_of_mem (mem_newOp ..) ?_))
  · exact wf_l1Set own ..
  · exact own
  · exact own

theorem wf_storeWord {s : State} (h : s.mem.wf = true) {k : State → State} (hk : ∀ t, t.mem.wf = true → (k t).mem.wf = true)
    (a : Access) (val : Word) : (s.storeWord a val k).mem.wf = true := by
  unfold storeWord
  split
  · exact h
  split
  · exact wf_storeTracked h hk ..
  · exact wf_storeThrough h hk ..

theorem wf_atomicWord {s : State} (h : s.mem.wf = true) {k : State → Word → State} (hk : ∀ t v, t.mem.wf = true → (k t v).mem.wf = true)
    (a : Access) (kind : AtomicKind) (val : Word) : (s.atomicWord a kind val k).mem.wf = true := by
  have ask : (s.request a (.atomic a kind val none) .homeAtomicOp).mem.wf = true := wf_of_mem (mem_request ..) h
  unfold atomicWord
  dsimp only
  split
  · exact h
  split
  · exact wf_of_mem (mem_trap ..) h
  split
  · exact ask
  split
  · exact hk _ _ (wf_performAtomic h ..)
  · exact wf_of_mem (mem_trap ..) h
  · split
    · split
      · exact hk _ _ (wf_performAtomic (wf_recallOwn h ..) ..)
      · exact ask
    · exact ask
  · exact ask

theorem wf_postStore {s : State} (h : s.mem.wf = true) {k : State → State} (hk : ∀ t, t.mem.wf = true → (k t).mem.wf = true)
    (a : Access) (val : Word) (add : Bool) : (s.postStore a val add k).mem.wf = true := by
  unfold postStore
  dsimp only
  split
  · exact h
  split
  · exact h
  · exact hk _ (by simpa using wf_recallOwn h ..)

theorem wf_of_tryLockAll {s t : State} (h : s.mem.wf = true) {own : List Nat} {c : CellId} {part : Nat} {sides : List Side}
    (e : s.tryLockAll own c part sides = .held t) : t.mem.wf = true := by
  unfold tryLockAll at e
  dsimp only at e
  repeat' split at e
  all_goals cases e
  exact wf_foldl (fun _ _ wt => wf_recallAll wt _) _ h

theorem wf_of_tryLock {s t : State} (h : s.mem.wf = true) {own : List Nat} {id : Nat} {c : CellId} {part lo hi : Nat} {segs : List Seg}
    (e : s.tryLock own id c part lo hi segs = .held t) : t.mem.wf = true := wf_of_tryLockAll h e

theorem wf_release {s : State} (h : s.mem.wf = true) {k : State → State} (hk : ∀ t, t.mem.wf = true → (k t).mem.wf = true)
    (scope grp : Nat) : (s.release scope grp k).mem.wf = true := by
  unfold release
  split
  · exact hk _ h
  · exact h

theorem wf_loadVA {s : State} (h : s.mem.wf = true) {k : State → Word → State} (hk : ∀ t v, t.mem.wf = true → (k t v).mem.wf = true)
    (va : Word) (size : Nat) : (s.loadVA va size k).mem.wf = true := by
  have trap : ∀ c v, (s.trap c v).mem.wf = true := fun _ _ => wf_of_mem (mem_trap ..) h
  unfold loadVA
  split
  · exact trap ..
  split
  · split
    · exact hk _ _ h
    · exact trap ..
  split
  · exact hk _ _ h
  · exact trap ..
  · refine wf_withPage h (fun t e qa ht => ?_) ..
    split
    · exact wf_of_mem (mem_trap ..) ht
    · exact wf_loadWord ht (fun _ _ hu => hk _ _ hu) ..

theorem wf_storeVA {s : State} (h : s.mem.wf = true) {k : State → State} (hk : ∀ t, t.mem.wf = true → (k t).mem.wf = true)
    (va : Word) (size : Nat) (val : Word) : (s.storeVA va size val k).mem.wf = true := by
  have trap : ∀ c v, (s.trap c v).mem.wf = true := fun _ _ => wf_of_mem (mem_trap ..) h
  unfold storeVA
  split
  · exact trap ..
  split
  · exact trap ..
  split
  · exact trap ..
  · exact hk _ h
  · refine wf_withPage h (fun t e qa ht => ?_) ..
    split
    · exact wf_of_mem (mem_trap ..) ht
    · exact wf_storeWord ht hk ..

theorem wf_load {s : State} (h : s.mem.wf = true) (rd : Nat) (va : Word) (size : Nat) (signed : Bool) :
    (s.load rd va size signed).mem.wf = true := wf_loadVA h (fun _ _ ht => wf_of_mem (mem_finish ..) ht) ..

theorem wf_storeIns {s : State} (h : s.mem.wf = true) (rs2 : Nat) (va : Word) (size : Nat) : (s.storeIns rs2 va size).mem.wf = true :=
  wf_storeVA h (fun t ht => wf_of_mem (mem_retire t) ht) ..

theorem wf_atomic {s : State} (h : s.mem.wf = true) (kind : AtomicKind) (acc : Acc) (mis : Nat) (size aq rl rd rs1 : Nat) (val : Word) :
    (s.atomic kind acc mis size aq rl rd rs1 val).mem.wf = true := by
  unfold atomic
  extract_lets va sc done
  have hdone : ∀ t v old, t.mem.wf = true → (done t v old).mem.wf = true := by
    intro t v old ht
    unfold done
    simpa [apply_ite State.mem] using ht
  split
  · exact wf_of_mem (mem_trap ..) h
  split
  · exact wf_of_mem (mem_trap ..) h
  split
  · exact hdone _ _ _ h
  · exact wf_of_mem (mem_trap ..) h
  · refine wf_withPage h (fun t e qa ht => ?_) ..
    split
    · exact wf_of_mem (mem_trap ..) ht
    · have go : ∀ u : State, u.mem.wf = true → (u.atomicWord (t.mkAccess e qa va size) kind val fun x v =>
          done x v (Access.bytesOf (t.mkAccess e qa va size) v)).mem.wf = true :=
        fun u hu => wf_atomicWord hu (fun _ _ hx => hdone _ _ _ hx) ..
      dsimp only
      split
      · exact wf_release ht go ..
      · exact go _ ht

theorem wf_of_appendReader {s t : State} (h : s.mem.wf = true) {blk : Nat} {q : Bool} {id egen : Nat}
    (e : s.appendReader blk q id egen = some t) : t.mem.wf = true := by
  unfold appendReader at e
  dsimp only at e
  split at e
  · cases e
    exact h
  split at e
  · cases e
    exact wf_spillEntry (wf_of_mem (mem_updDie ..) (wf_of_mem (mem_setBlock ..) h)) ..
  · cases e

theorem wf_homeRead {s : State} (h : s.mem.wf = true) (id blk gen : Nat) (q : Bool) : (s.homeRead id blk gen q).mem.wf = true := by
  unfold homeRead
  dsimp only
  split
  · exact wf_of_mem (mem_sendAnswer ..) h
  split
  · exact wf_of_mem (mem_sendAnswer ..) h
  split
  · exact wf_of_mem (mem_sendAnswer ..) h
  split
  · next e => exact wf_of_appendReader h e
  · split <;> exact h

theorem wf_homeApply {s : State} (h : s.mem.wf = true) (id : Nat) : (s.homeApply id).mem.wf = true := by
  unfold homeApply
  repeat' split
  all_goals simp [h, wf_homeRead, wf_homeWrite]

theorem wf_checked {s : State} (h : s.mem.wf = true) {k : State → State} (hk : (k s).mem.wf = true) (l : List Chk) :
    (s.checked l k).mem.wf = true := by
  unfold checked
  split
  · exact wf_of_mem (mem_trap ..) h
  · exact hk

theorem wf_blockPages {acc : Acc} {win : Nat} {k : State → List BlockPage → State} (hk : ∀ t ps, t.mem.wf = true → (k t ps).mem.wf = true)
    {s : State} (h : s.mem.wf = true) (vas : List Word) (ps : List BlockPage) : (blockPages acc win vas s ps k).mem.wf = true := by
  induction vas generalizing s ps with
  | nil => exact hk _ _ h
  | cons va vas ih =>
    unfold blockPages
    split
    · exact ih h ..
    split
    · exact wf_of_mem (mem_trap ..) h
    · next e => exact wf_of_mem (mem_of_translate_wait e) h
    · next e =>
      split
      · exact wf_of_mem (mem_trap ..) h
      · exact ih (wf_of_mem (mem_of_translate_ok e) h) ..

theorem wf_blockVas {s : State} (h : s.mem.wf = true) {k : State → List Nat → State}
    (hk : ∀ t qas, t.mem.wf = true → (k t qas).mem.wf = true)
    (acc : Acc) (d : BitVec 256) (n : Nat) : (s.blockVas acc d n k).mem.wf = true := by
  refine wf_blockPages (fun t ps ht => ?_) h ..
  split
  · exact wf_of_mem (mem_trap ..) ht
  · exact wf_of_mem (mem_trap ..) ht
  · exact hk _ _ ht

theorem wf_bgetWith {s : State} (h : s.mem.wf = true) {k : State → List Nat → List (Nat × Nat) → State}
    (hk : ∀ t ids bad, t.mem.wf = true → (k t ids bad).mem.wf = true) (q : Bool) (hd hs : Nat) : (s.bgetWith q hd hs k).mem.wf = true := by
  refine wf_checked h (wf_blockVas h (fun t qas ht => ?_) ..) ..
  split
  · exact wf_of_mem (mem_trap ..) ht
  · exact hk _ _ _ (wf_of_mem (mem_foldl_fst _ (fun _ _ => mem_sendRead ..) ..) ht)

theorem wf_blockAsk {s : State} (h : s.mem.wf = true) (req : BlockReq) (acc : Acc) (right rd hs : Nat) :
    (s.blockAsk req acc right rd hs).mem.wf = true := by
  unfold blockAsk
  dsimp only
  split
  · split <;> simpa using h
  · refine wf_checked h (wf_blockVas h (fun t qas ht => ?_) ..) ..
    split <;> simpa using ht

theorem wf_spadOne {s : State} (h : s.mem.wf = true) {k : State → Nat → State} (hk : ∀ i, (k s i).mem.wf = true) (hs : Nat)
    (idx : Option Word) : (s.spadOne hs idx k).mem.wf = true := wf_checked h (hk _) _

theorem wf_handOff {s : State} (h : s.mem.wf = true) {k : State → State} (hk : (k s).mem.wf = true) : (s.handOff k).mem.wf = true := by
  unfold handOff
  split
  · exact hk
  · exact h

theorem wf_flagRead {s : State} (h : s.mem.wf = true) {k : State → State} (hk : (k s).mem.wf = true) : (s.flagRead k).mem.wf = true := by
  unfold flagRead
  split
  · exact h
  · exact hk

theorem wf_flagOp {s : State} (h : s.mem.wf = true) (n rs1 : Nat) (v : Bool) : (s.flagOp n rs1 v).mem.wf = true := by
  unfold flagOp
  split
  · exact wf_handOff h (by simpa using h)
  · split <;> simpa using h

theorem wf_barArrive {s : State} (h : s.mem.wf = true) {k : State → State} (hk : ∀ t, t.mem.wf = true → (k t).mem.wf = true)
    (b i grp : Nat) : (s.barArrive b i grp k).mem.wf = true := wf_release h (fun _ ht => hk _ (wf_of_mem (mem_arrive ..) ht)) ..

theorem wf_machineOnly {s : State} (h : s.mem.wf = true) {k : State → State} (hk : (k s).mem.wf = true) (i : Instr) :
    (s.machineOnly i k).mem.wf = true := by
  unfold machineOnly
  split
  · exact hk
  · exact wf_of_mem (mem_illegal ..) h

theorem wf_loadMore {k : State → List Word → State} (hk : ∀ t ws, t.mem.wf = true → (k t ws).mem.wf = true) {s : State}
    (h : s.mem.wf = true) (n : Nat) (va : Word) (vs : List Word) : (loadMore n s va vs k).mem.wf = true := by
  induction n generalizing s vs with
  | zero => exact hk _ _ h
  | succ n ih => exact wf_loadVA h (fun _ _ ht => ih (wf_of_mem (mem_note ..) ht) _) ..

theorem wf_loadMany {s : State} (h : s.mem.wf = true) {k : State → List Word → State}
    (hk : ∀ t ws, t.mem.wf = true → (k t ws).mem.wf = true)
    (va : Word) (n : Nat) : (s.loadMany va n k).mem.wf = true := wf_loadMore hk h ..

theorem wf_storeMore {k : State → State} (hk : ∀ t, t.mem.wf = true → (k t).mem.wf = true) {s : State} (h : s.mem.wf = true)
    (mk : List Word → Progress) (ws : List Word) (va : Word) (made : List Word) : (storeMore mk ws s va made k).mem.wf = true := by
  induction ws generalizing s made with
  | nil => exact hk _ h
  | cons w ws ih => exact wf_storeVA h (fun _ ht => ih (wf_of_mem (mem_note ..) ht) _) ..

theorem wf_storeMany {s : State} (h : s.mem.wf = true) {k : State → State} (hk : ∀ t, t.mem.wf = true → (k t).mem.wf = true)
    (va : Word) (ws : List Word) : (s.storeMany va ws k).mem.wf = true := wf_storeMore hk h ..

theorem wf_writeBackWord {s : State} (h : s.mem.wf = true) (c : CellId) (w : Nat) : (s.writeBackWord c w).mem.wf = true := by
  unfold writeBackWord
  repeat' split
  all_goals simp [h, wf_homeWord, wf_l1Set]

theorem wf_post {s : State} (h : s.mem.wf = true) (acc : Acc) (va : Word) (size : Nat) (val : Word) (add : Bool) :
    (s.post acc va size val add).mem.wf = true := by
  unfold post
  split
  · exact wf_of_mem (mem_trap ..) h
  split
  · exact wf_of_mem (mem_trap ..) h
  · refine wf_withPage h (fun t e qa ht => ?_) ..
    split
    · exact wf_of_mem (mem_trap ..) ht
    · exact wf_postStore ht (fun u hu => wf_of_mem (mem_retire u) hu) ..

theorem wf_storable {k : State → State} (hk : ∀ t, t.mem.wf = true → (k t).mem.wf = true) {s : State} (h : s.mem.wf = true) (n : Nat)
    (va : Word) : (storable n s va k).mem.wf = true := by
  induction n generalizing s va with
  | zero => exact hk _ h
  | succ n ih =>
    unfold storable
    split
    · exact wf_of_mem (mem_trap ..) h
    · refine wf_withPage h (fun t e qa ht => ?_) ..
      split
      · exact wf_of_mem (mem_trap ..) ht
      · exact ih ht _

theorem wf_receive {s : State} (h : s.mem.wf = true) (rd ch : Nat) (dest : Word) : (s.receive rd ch dest).mem.wf = true :=
  wf_storeMore (fun _ ht => by simpa using ht) h ..

theorem wf_lockRow {s : State} (h : s.mem.wf = true) (id : Nat) : (s.lockRow id).mem.wf = true := by
  unfold lockRow
  repeat' split
  · exact h
  · exact h
  · next e => exact wf_of_mem (mem_setOp ..) (wf_of_tryLock h e)
  · exact h

theorem wf_loadHandle {s : State} (h : s.mem.wf = true) {k : State → List Word → State}
    (hk : ∀ t ws, t.mem.wf = true → (k t ws).mem.wf = true)
    (want : Bool) (va : Word) (vs : List Word) (skip : Nat) : (s.loadHandle want va vs skip k).mem.wf = true := by
  unfold loadHandle
  split
  · exact hk _ _ h
  split
  · exact wf_of_mem (mem_trap ..) h
  · exact wf_loadMore hk h ..

theorem wf_mmsendWith {s : State} (h : s.mem.wf = true) (addr w2 : Word) (insn : Nat) (vs : List Word) :
    (s.mmsendWith addr w2 insn vs).mem.wf = true := by
  unfold mmsendWith
  dsimp only
  split
  · exact wf_of_mem (mem_trap ..) h
  split
  · exact wf_of_mem (mem_trap ..) h
  · refine wf_loadHandle h (fun t ws ht => wf_loadHandle ht (fun u xs hu => ?_) ..) ..
    split <;> simpa using hu

theorem wf_landGrant {s : State} (h : s.mem.wf = true) (id : Nat) (a : Access) (val v : Word) (retired : Bool) :
    (s.landGrant id a val v retired).mem.wf = true := by
  unfold landGrant
  dsimp only
  split
  · exact wf_of_mem (mem_endStore ..) (wf_writeOwned h ..)
  · exact wf_of_mem (mem_endStore ..) (wf_homeWord h ..)

theorem wf_strikeWord {s : State} (h : s.mem.wf = true) (w : Nat) : (s.strikeWord w).mem.wf = true := by
  have landed := wf_landGrants h fun x => x == w
  unfold strikeWord
  refine wf_of_mem (mem_loseWord ..) ?_
  split <;> exact landed

theorem wf_saveTiles {s : State} (h : s.mem.wf = true) (c : CellId) (ts : List Nat) : (s.saveTiles c ts).mem.wf = true :=
  wf_foldl (fun _ _ hu => wf_of_mem (mem_setAcc ..) (wf_physWrite hu ..)) ts h

theorem wf_writeRecord {s : State} (h : s.mem.wf = true) (n : HartId) (g : Seg) (r : FaultRecord) : (s.writeRecord n g r).mem.wf = true :=
  wf_storeBytes (wf_of_mem (mem_foldl _ (fun _ _ => mem_l1Drop ..) ..) (wf_recallAll h _)) ..

theorem wf_takeImprecise {s : State} (h : s.mem.wf = true) (n : HartId) (r : FaultRecord) : (s.takeImprecise n r).mem.wf = true := by
  unfold takeImprecise
  dsimp only
  split
  · simpa using wf_writeRecord h ..
  · simpa using h

theorem wf_landed {s : State} (h : s.mem.wf = true) (a : Access) (cls : Option Nat) : (s.landed a cls).mem.wf = true := by
  unfold landed
  dsimp only
  repeat' split
  all_goals simp [h, wf_l1Set]

theorem wf_sequenceStore {s : State} (h : s.mem.wf = true) (id : Nat) (a : Access) (cls : Option Nat) (mask val : Word) (add : Bool)
    (keep : Option HartId) (go : Nat → Event) :
    (s.sequenceStore id a cls mask val add keep go).mem.wf = true := by
  unfold sequenceStore
  dsimp only
  split <;> simp [h, wf_applyStore]

theorem wf_servePost {s : State} (h : s.mem.wf = true) (id : Nat) (a : Access) (c : Nat) (mask val : Word) (add : Bool) :
    (s.servePost id a c mask val add).mem.wf = true := by
  unfold servePost
  dsimp only
  repeat' split
  all_goals simp [h, wf_sequenceStore]

theorem wf_performPost {s : State} (h : s.mem.wf = true) (id : Nat) (a : Access) (c : Nat) (mask val : Word) (add : Bool) :
    (s.performPost id a c mask val add).mem.wf = true := by
  unfold performPost
  split <;> simp [h, wf_servePost]

theorem wf_serveStore {s : State} (h : s.mem.wf = true) (id : Nat) (a : Access) (mask val : Word) :
    (s.serveStore id a mask val).mem.wf = true := by
  unfold serveStore
  dsimp only
  repeat' split
  all_goals simp [h, wf_sequenceStore]

theorem wf_performStore {s : State} (h : s.mem.wf = true) (id : Nat) (a : Access) (mask val : Word) (die : Nat) :
    (s.performStore id a mask val die).mem.wf = true := by
  unfold performStore
  split <;> simp [h, wf_serveStore]

theorem wf_storeAtHome {s : State} (h : s.mem.wf = true) (id : Nat) (a : Access) (val : Word) (retired : Bool) :
    (s.storeAtHome id a val retired).mem.wf = true := by
  simp [storeAtHome, h, wf_applyStore]

theorem wf_resume {s : State} (h : s.mem.wf = true) (id : Nat) : (s.resume id).mem.wf = true := by
  unfold resume
  dsimp only
  repeat' split
  all_goals simp [h, wf_performAtomic, wf_servePost, wf_serveStore]

theorem wf_fill {s : State} (h : s.mem.wf = true) (id : Nat) (a : Access) (inv : Bool) (v : Word) : (s.fill id a inv v).mem.wf = true := by
  unfold fill
  dsimp only
  repeat' split
  all_goals simp [h, wf_l1Set]

theorem wf_spawnEnter {s : State} (h : s.mem.wf = true) (rd id : Nat) : (s.spawnEnter rd id).mem.wf = true := by
  unfold spawnEnter
  split
  · exact h
  · exact wf_release h (fun _ ht => by simpa [apply_ite State.mem] using ht) ..

theorem wf_spawnStore {s : State} (h : s.mem.wf = true) (rd id : Nat) (va : Word) : (s.spawnStore rd id va).mem.wf = true := by
  have r := wf_storeVA h (k := fun t => (t.note (.spawning id true)).spawnEnter rd id)
    (fun _ ht => wf_spawnEnter (wf_of_mem (mem_note ..) ht) rd id) (va + 24) 4 (BitVec.ofNat 64 id)
  unfold spawnStore
  dsimp only
  repeat' split
  · exact r
  · exact r
  · exact wf_of_mem (mem_freeTask ..) r

theorem wf_spawnSlot {s : State} (h : s.mem.wf = true) (rd : Nat) (va : Word) (t : Task) : (s.spawnSlot rd va t).mem.wf = true := by
  simp [spawnSlot, h, wf_spawnStore]

theorem wf_withQueue {s : State} (h : s.mem.wf = true) {k : State → Nat → State} (hk : ∀ t qa, t.mem.wf = true → (k t qa).mem.wf = true)
    (va : Word) : (s.withQueue va k).mem.wf = true := by
  unfold withQueue
  split
  · exact wf_of_mem (mem_trap ..) h
  refine wf_withPage h (fun t e qa ht => ?_) ..
  have trap : ∀ c, (t.trap c va).mem.wf = true := fun _ => wf_of_mem (mem_trap ..) ht
  dsimp only
  split
  · exact trap _
  split
  · exact ht
  split
  · exact trap _
  split
  · exact trap _
  split
  · exact trap _
  · exact hk _ _ (wf_of_mem (mem_foldl _ (fun _ _ => mem_l1Drop ..) ..) (wf_recallAll ht _))

theorem wf_inQueue {s : State} (h : s.mem.wf = true) {k : State → Nat → Hq → State}
    (hk : ∀ t qa q, t.mem.wf = true → (k t qa q).mem.wf = true)
    (va : Word) : (s.inQueue va k).mem.wf = true := by
  unfold inQueue
  split
  · split
    · exact wf_of_mem (mem_trap ..) h
    · exact wf_withPage h (fun _ _ _ ht => wf_of_mem (mem_trap ..) ht) ..
  · refine wf_withQueue h (fun t qa ht => ?_) _
    dsimp only
    split
    · exact hk _ _ _ ht
    · exact wf_of_mem (mem_trap ..) ht

theorem wf_popped {s : State} (h : s.mem.wf = true) (qa : Nat) (n : HartId) (part entry : Nat) : (s.popped qa n part entry).mem.wf = true :=
  wf_of_mem (mem_l1Invalidate ..) (wf_of_mem (mem_leaveQueue ..) (wf_hqSet h ..))

theorem wf_serveQueue {s : State} (h : s.mem.wf = true) (qa : Nat) (l : List (HartId × Nat)) : (serveQueue qa l s).mem.wf = true := by
  induction l generalizing s with
  | nil => exact h
  | cons p l ih =>
    rw [serveQueue]
    split
    · exact h
    split
    · exact h
    split
    · exact ih (wf_of_mem (mem_answer ..) (wf_popped h ..))
    · exact ih (by simpa using h)
    · exact h

theorem wf_popEntry {s : State} (h : s.mem.wf = true) (rd qa scope : Nat) (ea : Word) : (s.popEntry rd qa scope ea).mem.wf = true := by
  unfold popEntry
  dsimp only
  split
  · simpa using h
  split
  · simpa using h
  split
  · simpa using h
  · simpa using h
  · next e =>
    have ht := wf_of_mem (mem_of_translate_ok e) h
    split
    · exact wf_of_mem (mem_finish ..) (wf_of_mem (mem_acquire ..) (wf_serveQueue (wf_popped ht ..) ..))
    · simpa using ht
    · simpa using ht

theorem wf_withSample {s : State} (h : s.mem.wf = true) {k : SampleSet → Sample → SolverTable → State}
    (hk : ∀ v x t, (k v x t).mem.wf = true)
    (w : Word) : (s.withSample w k).mem.wf = true := by
  unfold withSample
  dsimp only
  repeat' split
  · exact wf_of_mem (mem_solverTrap ..) h
  · exact wf_of_mem (mem_solverTrap ..) h
  · exact hk ..

theorem wf_armGo {s : State} (h : s.mem.wf = true) (va : Word) (d : DieId) (set tab n : Nat) (vs : List Word) :
    (s.armGo va d set tab n vs).mem.wf = true := by
  unfold armGo
  split
  · exact h
  split
  · exact wf_of_mem (mem_solverTrap ..) h
  · refine wf_loadMore (fun t ws ht => ?_) h ..
    split
    · exact wf_of_mem (mem_solverTrap ..) ht
    · exact wf_loadMore (fun _ _ hu => wf_of_mem (mem_armWith ..) hu) ht ..

theorem wf_fetchRecord {s : State} (h : s.mem.wf = true) (c : CellId) (ch : Nat) (v : Channel) : (s.fetchRecord c ch v).mem.wf = true := by
  unfold fetchRecord
  dsimp only
  split
  · simpa using h
  split
  · simpa using h
  · simpa using h
  · next e =>
    have ht := wf_of_tryLock h e
    repeat' split
    all_goals simpa using ht

theorem wf_lockSides {s : State} (h : s.mem.wf = true) (c : CellId) (ch : Nat) (r : RecRun) : (s.lockSides c ch r).mem.wf = true := by
  unfold lockSides
  dsimp only
  split
  · simpa using h
  · simpa using h
  · next e =>
    refine wf_of_mem (mem_kick ..) (wf_of_mem (mem_updRun ..) ?_)
    exact wf_of_mem (mem_foldl _ (fun _ _ => mem_newOp ..) ..) (wf_of_tryLockAll h e)

theorem wf_channelStep {s : State} (h : s.mem.wf = true) (c : CellId) (ch : Nat) (v : Channel) : (s.channelStep c ch v).mem.wf = true := by
  unfold channelStep
  repeat' split
  all_goals simp [h, wf_lockSides]

theorem wf_disown {s : State} (h : s.mem.wf = true) (c : CellId) (ch : Nat) (r : RecRun) : (s.disown c ch r).mem.wf = true := by
  unfold disown
  dsimp only
  repeat' split
  · simpa using h
  · exact wf_of_mem (mem_nextStage ..) (wf_of_mem (mem_freeLocks ..) (wf_storeBytes h ..))
  · simpa using h

theorem wf_completeStep {s : State} (h : s.mem.wf = true) (c : CellId) (ch : Nat) (v : Channel) (r : RecRun) :
    (s.completeStep c ch v r).mem.wf = true := by
  unfold completeStep
  repeat' split
  all_goals simp [h, wf_disown]

theorem wf_performCopy {s : State} (h : s.mem.wf = true) (id : Nat) (c : CellId) (ch part : Nat) (va : Word) (g : Seg) (bytes : List Byte) :
    (s.performCopy id c ch part va g bytes).mem.wf = true := by
  unfold performCopy
  dsimp only
  split
  · simpa using h
  split
  · simpa using h
  split
  · simpa using h
  · exact wf_of_mem (mem_send ..) (wf_storeBytes (wf_recallAll h _) ..)

theorem wf_presenceTurn {s : State} (h : s.mem.wf = true) (id : Nat) (mine : BlockReq → Bool) (again : Event) :
    (s.presenceTurn id mine again).mem.wf = true := by
  unfold presenceTurn
  repeat' split
  all_goals simp [h, wf_homeApply]

theorem wf_evict {s : State} (h : s.mem.wf = true) (n : HartId) (v : Hart) : (s.evict n v).mem.wf = true :=
  wf_of_mem (mem_updCell ..) (wf_of_mem (mem_dropResv ..) (wf_physWrite (wf_foldl (fun _ _ ht => wf_physWrite ht ..) _ h) ..))

theorem wf_of_freeBank {s t : State} (h : s.mem.wf = true) {c : CellId} {proc : Nat} (e : s.freeBank c proc = some t) :
    t.mem.wf = true := by
  unfold freeBank at e
  split at e
  · cases e
    exact h
  · obtain ⟨n, -, e⟩ := Option.bind_eq_some_iff.mp e
    obtain ⟨v, -, e⟩ := Option.bind_eq_some_iff.mp e
    split at e <;> cases e
    exact wf_evict h ..

theorem wf_startService {s : State} (h : s.mem.wf = true) (c : CellId) (t : Starting) : (s.startService c t).mem.wf = true :=
  wf_of_mem (mem_setHart ..) (wf_of_mem (mem_updCell ..) (wf_saveTiles h ..))

theorem wf_goOnStarting {s : State} (h : s.mem.wf = true) (c : CellId) : (s.goOnStarting c).mem.wf = true := by
  unfold goOnStarting
  dsimp only
  repeat' split
  all_goals simp [h, wf_startService]

theorem wf_of_gangAccess {s : State} (h : s.mem.wf = true) {n : HartId} {num : Nat} {w : Option Word} {r : Word × State}
    (e : s.gangAccess n num w = some r) : r.2.mem.wf = true := by
  unfold gangAccess at e
  split at e
  · exact wf_of_mem (mem_of_debugAccess e) h
  dsimp only at e
  split at e
  · cases e
  · obtain ⟨p, ep, rfl⟩ := Option.map_eq_some_iff.mp e
    have hp : p.2.mem.wf = true := wf_of_mem (mem_of_debugAccess ep) h
    refine wf_of_mem (mem_setHart ..) (wf_of_mem (mem_updCell ..) ?_)
    split
    · exact wf_physWrite hp ..
    · exact hp

theorem wf_writeDbgCmd {s : State} (h : s.mem.wf = true) (c : CellId) (v : Word) : (s.writeDbgCmd c v).mem.wf = true := by
  unfold writeDbgCmd
  dsimp only
  split
  · exact h
  split
  · exact h
  split
  · split
    · next e => exact wf_of_gangAccess h e
    · exact h
  · split
    · next e => exact wf_of_gangAccess h e
    · exact h

theorem wf_agentDbgCmd {s : State} (h : s.mem.wf = true) (c : CellId) (agent value : Nat) :
    (s.agentDbgCmd c agent value).mem.wf = true := by
  unfold agentDbgCmd
  split <;> simp [h, wf_writeDbgCmd]

theorem wf_of_feStore {s t : State} (h : s.mem.wf = true) {d : DieId} {part : Nat} {va v : Word} (e : s.feStore d part va v = .done t) :
    t.mem.wf = true := by
  unfold feStore at e
  dsimp only at e
  repeat' split at e
  all_goals cases e
  · exact wf_of_mem (mem_logDie ..) h
  · exact wf_storeBytes (by exact wf_recallAll h _) ..

theorem wf_tellHead {s : State} (h : s.mem.wf = true) (d : DieId) (q k : Nat) (r : Running) (code detail : Nat) :
    (s.tellHead d q k r code detail).mem.wf = true := by
  unfold tellHead
  dsimp only
  split
  · simpa using h
  split
  · simpa using h
  · simpa using h
  · next e =>
    have ht := wf_of_feStore h e
    split <;> simpa using ht

theorem wf_finishCommand {s : State} (h : s.mem.wf = true) (d : DieId) (q k : Nat) (r : Running) (code detail : Nat) :
    (s.finishCommand d q k r code detail).mem.wf = true := by
  unfold finishCommand
  dsimp only
  split
  · split
    · simpa using h
    · exact wf_tellHead h ..
    · next e =>
      have ht := wf_of_feStore h e
      split
      · exact wf_tellHead ht ..
      · simpa using ht
  · split
    · exact wf_tellHead h ..
    · simpa using h
  · split <;> simpa using h

theorem wf_finishGraph {s : State} (h : s.mem.wf = true) (d : DieId) (q code detail : Nat) :
    (s.finishGraph d q code detail).mem.wf = true := by
  unfold finishGraph
  repeat' split
  all_goals simp [h, wf_finishCommand]

theorem wf_nodePasses {s : State} (h : s.mem.wf = true) (d : DieId) (q : Nat) (g : GraphRun) (i succ : Nat) (faulted : Bool) :
    (s.nodePasses d q g i succ faulted).mem.wf = true := by
  unfold nodePasses
  split <;> simp [h, wf_finishGraph]

theorem wf_complete {s : State} (h : s.mem.wf = true) (d : DieId) (q k : Nat) (r : Running) (code detail : Nat) (second : Bool) :
    (s.complete d q k r code detail second).mem.wf = true := by
  unfold complete
  repeat' split
  all_goals simp [h, wf_finishCommand, wf_finishGraph, wf_nodePasses]

theorem wf_operandBad {s : State} (h : s.mem.wf = true) (d : DieId) (q k : Nat) (r : Running) (off : Nat) :
    (s.operandBad d q k r off).mem.wf = true := by
  simp [operandBad, h, wf_complete]

theorem wf_addrFault {s : State} (h : s.mem.wf = true) (d : DieId) (q k : Nat) (r : Running) (off : Nat) :
    (s.addrFault d q k r off).mem.wf = true := by
  simp [addrFault, h, wf_complete]

theorem wf_withRun {s : State} (h : s.mem.wf = true) {go : Running → State} (hg : ∀ r, (go r).mem.wf = true) (d : DieId) (q k : Nat) :
    (s.withRun d q k go).mem.wf = true := by
  unfold withRun
  repeat' split
  · exact h
  · exact wf_complete h ..
  · exact hg _

theorem wf_withOp {s : State} (h : s.mem.wf = true) {go : Running → State} (hg : ∀ r, (go r).mem.wf = true) (d : DieId) (q k op : Nat) :
    (s.withOp d q k op go).mem.wf = true := by
  refine wf_withRun h (fun r => ?_) ..
  split
  · exact hg _
  · exact h

theorem wf_dispatchCommand {s : State} (h : s.mem.wf = true) (d : DieId) (q : Nat) (e : QEntry) (ws : List Word) (ferry : Bool) :
    (s.dispatchCommand d q e ws ferry).mem.wf = true := by
  unfold dispatchCommand
  dsimp only
  split <;> simp [h, wf_complete]

theorem wf_dispatchNode {s : State} (h : s.mem.wf = true) (d : DieId) (q : Nat) (e : QEntry) (g : GraphRun) :
    (s.dispatchNode d q e g).mem.wf = true := by
  unfold dispatchNode
  dsimp only
  repeat' split
  all_goals simp [h, wf_finishGraph]

theorem wf_dispatch {s : State} (h : s.mem.wf = true) (d : DieId) (q : Nat) : (s.dispatch d q).mem.wf = true := by
  unfold dispatch
  repeat' split
  all_goals simp [h, wf_dispatchCommand, wf_dispatchNode]

theorem wf_takeTail {s : State} (h : s.mem.wf = true) (d : DieId) (q : Nat) (e : QEntry) (t : Word) :
    (s.takeTail d q e t).mem.wf = true := by
  have logged : ∀ v, ((s.setFe d q v).logDie d false 50 q 0 0 0).mem.wf = true :=
    fun _ => wf_of_mem (mem_logDie ..) (wf_of_mem (mem_setFe ..) h)
  unfold takeTail
  dsimp only
  split
  · exact wf_holdTail (wf_of_mem (mem_setFe ..) h) ..
  split
  · exact wf_holdTail h ..
  split
  · next r => exact wf_holdTail (wf_of_feStore (logged _) r) ..
  · exact wf_holdTail (logged _) ..
  · exact h

theorem wf_copyStep {s : State} (h : s.mem.wf = true) (d : DieId) (q k : Nat) (r : Running) : (s.copyStep d q k r).mem.wf = true := by
  unfold copyStep
  dsimp only
  repeat' split
  all_goals simp [h, wf_complete]

theorem wf_signalIrq {s : State} (h : s.mem.wf = true) (d : DieId) (q k : Nat) (r : Running) : (s.signalIrq d q k r).mem.wf = true := by
  unfold signalIrq
  repeat' split
  all_goals simp [h, wf_addrFault, wf_complete]

theorem wf_signalStep {s : State} (h : s.mem.wf = true) (d : DieId) (q k : Nat) (r : Running) : (s.signalStep d q k r).mem.wf = true := by
  unfold signalStep
  split
  · exact wf_operandBad h ..
  split
  · exact wf_signalIrq h ..
  split
  · split
    · exact wf_signalIrq h ..
    · exact wf_of_mem (mem_push ..) h
  split
  · exact wf_of_mem (mem_push ..) h
  · exact wf_addrFault h ..
  · next e => exact wf_of_mem (mem_push ..) (wf_of_mem (mem_setRun ..) (wf_of_feStore h e))

theorem wf_waitStep {s : State} (h : s.mem.wf = true) (d : DieId) (q k : Nat) (r : Running) : (s.waitStep d q k r).mem.wf = true := by
  unfold waitStep
  repeat' split
  all_goals simp [h, wf_addrFault, wf_complete]

theorem wf_graphStart {s : State} (h : s.mem.wf = true) (d : DieId) (q k : Nat) (r : Running) : (s.graphStart d q k r).mem.wf = true := by
  unfold graphStart
  dsimp only
  repeat' split
  all_goals simp [h, wf_complete]

theorem wf_condStep {s : State} (h : s.mem.wf = true) (d : DieId) (q k : Nat) (r : Running) : (s.condStep d q k r).mem.wf = true := by
  unfold condStep
  repeat' split
  all_goals simp [h, wf_addrFault, wf_complete]

theorem wf_endStep {s : State} (h : s.mem.wf = true) (d : DieId) (q k : Nat) : (s.endStep d q k).mem.wf = true := by
  simp [endStep, h, wf_finishGraph]

theorem wf_swapCmdStep {s : State} (h : s.mem.wf = true) (d : DieId) (q k : Nat) (r : Running) : (s.swapCmdStep d q k r).mem.wf = true := by
  unfold swapCmdStep
  dsimp only
  repeat' split
  · exact wf_complete h ..
  · exact wf_of_mem (mem_push ..) (wf_of_mem (mem_setRun ..) (wf_of_mem (mem_foldl _ (fun _ _ => mem_askSwap ..) ..) h))
  · exact wf_complete h ..
  · exact wf_of_mem (mem_push ..) h

theorem wf_fenceStep {s : State} (h : s.mem.wf = true) (d : DieId) (q k : Nat) (r : Running) : (s.fenceStep d q k r).mem.wf = true := by
  unfold fenceStep
  split <;> simp [h, wf_complete]

theorem wf_mapFrom {s : State} (h : s.mem.wf = true) (d : DieId) (part vpn leaf lvl t : Nat) :
    (mapFrom d part vpn leaf lvl t s).mem.wf = true := by
  induction lvl generalizing s t with
  | zero => exact wf_physWrite h ..
  | succ lvl ih =>
    rw [mapFrom]
    split
    · exact ih h _
    · exact ih (wf_physWrite (wf_physWrite (by exact h) ..) ..) _

/-- Stated of any state: that the update keeps memory must not be read off a written page. -/
theorem wf_withHomes {s : State} (h : s.mem.wf = true) (homes : List (Nat × DieId)) : ({ s with homes := homes } : State).mem.wf = true := h

theorem wf_placePage {s : State} (h : s.mem.wf = true) (d : DieId) (part : Nat) (l : List (Section × List Byte)) (vpn : Nat) :
    (s.placePage d part l vpn).mem.wf = true := by
  have placed := fun leaf root a bs => wf_withHomes
    (wf_physWrite (wf_mapFrom (s := { s with nextId := s.nextId + 1 }) h d part vpn leaf 4 root) a bs)
  rw [placePage]
  split
  · exact h
  dsimp only
  split
  · exact wf_of_mem (mem_setBlock ..) (placed ..)
  · exact placed ..

theorem wf_placeImage {s : State} (h : s.mem.wf = true) (d : DieId) (q k : Nat) (r : Running) (part : Nat) (l : List (Section × List Byte))
    (bs : List BlockEntry) (lpbva : Nat) : (s.placeImage d q k r part l bs lpbva).mem.wf = true := by
  unfold placeImage
  dsimp only
  split
  · exact wf_complete h ..
  split
  · exact wf_complete h ..
  split
  · exact wf_addrFault h ..
  · exact h
  · next e =>
    have ht := wf_of_feStore
      (wf_of_mem (mem_foldl _ (fun _ _ => mem_placeBlocks ..) ..) (wf_foldl (fun _ _ hu => wf_placePage hu ..) _ h)) e
    split
    · exact wf_complete ht ..
    · exact ht

theorem wf_loadTables {s : State} (h : s.mem.wf = true) (d : DieId) (q k : Nat) (r : Running) (n : List Byte) :
    (s.loadTables d q k r n).mem.wf = true := by
  unfold loadTables
  dsimp only
  repeat' split
  all_goals simp [h, wf_complete, wf_placeImage]

theorem wf_loadStep {s : State} (h : s.mem.wf = true) (d : DieId) (q k : Nat) (r : Running) : (s.loadStep d q k r).mem.wf = true := by
  unfold loadStep
  repeat' split
  all_goals simp [h, wf_addrFault, wf_complete, wf_loadTables]

theorem wf_changeSplit {s : State} (h : s.mem.wf = true) (c : CellId) (spad : Nat) : (s.changeSplit c spad).mem.wf = true :=
  wf_foldl (fun _ _ ht => wf_evictWord ht ..) _ h

theorem wf_setupCell {s : State} (h : s.mem.wf = true) (g part : Nat) (l : Lpb) (text : List Byte) (c : CellId) (rank : Nat) :
    (s.setupCell g part l text c rank).mem.wf = true := wf_changeSplit h c (l.spadKib / 4)

theorem wf_setupCells {s : State} (h : s.mem.wf = true) (g part : Nat) (l : Lpb) (text : List Byte) (cs : List CellId) (i : Nat) :
    (setupCells g part l text cs i s).mem.wf = true := by
  induction cs generalizing s i with
  | nil => exact h
  | cons c cs ih => exact ih (wf_setupCell h ..) _

theorem wf_commitLaunch {s : State} (h : s.mem.wf = true) (d : DieId) (q k : Nat) (r : Running) (l : LaunchRun) (cells : List CellId) :
    (s.commitLaunch d q k r l cells).mem.wf = true :=
  wf_of_mem (mem_push ..) (wf_of_mem (mem_setStage ..) (wf_setupCells (by exact h) ..))

theorem wf_answerReserve {s : State} (h : s.mem.wf = true) (c : CellId) (d : DieId) (q k : Nat) (r : Running) (l : LaunchRun) :
    (s.answerReserve c d q k r l).mem.wf = true := by
  unfold answerReserve
  split
  · split
    · exact h
    extract_lets ok s1
    have h1 : s1.mem.wf = true := by
      unfold s1
      split
      · exact wf_of_mem (mem_updCtx ..) h
      · exact h
    repeat' split
    all_goals simp [h1, wf_commitLaunch]
  · exact h

theorem wf_of_startCell {s t : State} (h : s.mem.wf = true) {l : Lpb} {c : CellId} (e : s.startCell l c = some t) : t.mem.wf = true := by
  refine List.foldlRecOn (motive := fun o : Option State => ∀ t, o = some t → t.mem.wf = true) _ _ ?_ ?_ t e
  · rintro _ ⟨⟩
    exact h
  · intro o ho n _ t e
    split at e
    · obtain ⟨u, eu, rfl⟩ := Option.map_eq_some_iff.mp e
      obtain ⟨v, rfl, ev⟩ := Option.bind_eq_some_iff.mp eu
      exact wf_of_mem (mem_startHart ..) (wf_of_freeBank (ho _ rfl) ev)
    · exact ho t e

theorem wf_releaseNext {s : State} (h : s.mem.wf = true) (d : DieId) (q k : Nat) (r : Running) (l : LaunchRun) (i : Nat) (g : Gang) :
    (s.releaseNext d q k r l i g).mem.wf = true := by
  unfold releaseNext
  dsimp only
  split
  · split <;> simpa using h
  split
  · simpa using h
  · next e =>
    have ht := wf_of_startCell h e
    split <;> simpa using ht

theorem wf_finishLaunch {s : State} (h : s.mem.wf = true) (i : Nat) (g : Gang) : (s.finishLaunch i g).mem.wf = true := by
  have h1 := wf_foldl (f := fun t c => t.retireCell g c) (fun _ _ ht => wf_of_mem (mem_retireCell ..) ht) g.cells
    (s := { s with gangs := erase i s.gangs }) h
  exact wf_withRun h1 (fun _ => wf_complete h1 ..) ..

theorem wf_reportDone {s : State} (h : s.mem.wf = true) (c : CellId) (i : Nat) (g : Gang) : (s.reportDone c i g).mem.wf = true := by
  unfold reportDone
  dsimp only
  split <;> simp [h, wf_finishLaunch]

theorem wf_hostStore {s : State} (h : s.mem.wf = true) (g : Seg) (bs : List Byte) : (s.hostStore g bs).mem.wf = true := by
  have h1 : (((s.ownedWords g).foldl (fun t p => t.recallWord p.2 p.1) s).logLost g).mem.wf = true :=
    wf_of_mem (mem_logLost ..) (wf_recallAll h _)
  unfold hostStore
  dsimp only
  split
  · exact wf_storeBytes h1 ..
  · refine wf_foldl (fun t w ht => ?_) _ h1
    repeat' split
    · exact wf_of_mem rfl (wf_applyStore ht ..)
    · exact ht
    · exact wf_of_mem (mem_loseResv ..) (wf_applyStore ht ..)

theorem wf_yieldPage {s : State} (h : s.mem.wf = true) (page : Nat) : (s.yieldPage page).mem.wf = true := by
  refine wf_foldl (fun t p ht => ?_) _ h
  split
  · exact wf_l1Set (wf_homeWord ht ..) ..
  · exact ht

theorem wf_flipBias {s : State} (h : s.mem.wf = true) (d : DieId) (page : Nat) (toHost : Bool) :
    (s.flipBias d page toHost).mem.wf = true := by
  unfold flipBias
  dsimp only
  split
  · exact wf_yieldPage (wf_of_mem (mem_updDie ..) h) page
  · simpa using h

theorem wf_discardWrite {s : State} (h : s.mem.wf = true) (id : Nat) (o : Op) : (s.discardWrite id o).mem.wf = true := by
  unfold discardWrite
  split <;> simp [h, wf_landed]

theorem wf_hostDown {s : State} (h : s.mem.wf = true) (pkg : Nat) : (s.hostDown pkg).mem.wf = true :=
  wf_foldl (fun _ _ ht => wf_discardWrite ht ..) _ (wf_of_mem (mem_logDiscards ..) h)

theorem wf_failOp {s : State} (h : s.mem.wf = true) (id : Nat) (o : Op) (dst : Nat) : (s.failOp id o dst).mem.wf = true := by
  unfold failOp
  dsimp only
  repeat' split
  all_goals simp [h, wf_landed]

theorem wf_cutOwner {s : State} (h : s.mem.wf = true) (w : Nat) : (s.cutOwner w).mem.wf = true := by
  have h1 : (if lookup w s.words = some .lost then s else (s.cutGrants w).strikeWord w).mem.wf = true := by
    split
    · exact h
    · exact wf_strikeWord (wf_of_mem (mem_cutGrants ..) h) w
  unfold cutOwner
  dsimp only
  split
  · exact wf_resume (wf_of_mem (mem_freeBusy ..) h1) _
  · exact h1

theorem wf_cutOwners {s : State} (h : s.mem.wf = true) (p q : Nat) : (s.cutOwners p q).mem.wf = true :=
  wf_foldl (fun _ _ ht => wf_cutOwner ht _) _ h

theorem wf_failHome {s : State} (h : s.mem.wf = true) (e : Event) : (s.failHome e).mem.wf = true := by
  unfold failHome
  repeat' split
  all_goals simp [h, wf_cutOwner]

theorem wf_failOne {s : State} (h : s.mem.wf = true) (wire : List Event) (dst : Nat) (o : Nat × Op) :
    (s.failOne wire dst o).mem.wf = true := by
  unfold failOne
  split <;> simp [h, wf_failOp]

theorem wf_failAll {s : State} (h : s.mem.wf = true) (src dst : Nat) : (s.failAll src dst).mem.wf = true :=
  wf_foldl (fun _ _ ht => wf_failOne ht ..) _
    (wf_foldl (fun _ _ ht => wf_failHome ht _) _ (wf_of_mem (mem_dropAnswers ..) (wf_cutOwners h ..)))

theorem wf_strike {s : State} (h : s.mem.wf = true) (c : CellId) (array addr synd : Nat) : (s.strike c array addr synd).mem.wf = true := by
  unfold strike
  split <;> simp [h, wf_strikeWord]

theorem wf_arrayFlip {s : State} (h : s.mem.wf = true) (c : CellId) (array addr key : Nat) :
    (s.arrayFlip c array addr key).mem.wf = true := by
  rw [arrayFlip.eq_def]
  extract_lets n k x ones
  clear_value n k x ones
  split
  · split <;> simpa using h
  · simpa using h
  · simpa using h
  · simpa using h
  · simpa using h
  · split <;> simpa using h
  · exact Memory.wf_setWord h ..
  · exact Memory.wf_setWord h ..
  · exact h

theorem wf_writeCellReg {s : State} (h : s.mem.wf = true) (d : DieId) (agent c off : Nat) (v : Word) :
    (s.writeCellReg d agent c off v).mem.wf = true := by
  unfold writeCellReg
  repeat' split
  all_goals simp [h, wf_writeDbgCmd]

theorem wf_writeReg {s : State} (h : s.mem.wf = true) (d : DieId) (agent off : Nat) (v : Word) :
    (s.writeReg d agent off v).mem.wf = true := by
  rw [writeReg]
  dsimp only
  repeat' split
  all_goals simp [h, wf_writeCellReg]

theorem wf_leaseStore {s : State} (h : s.mem.wf = true) (d : DieId) (off : Nat) (v : Word) : (s.leaseStore d off v).mem.wf = true := by
  simp [leaseStore, h, wf_storeBytes]

theorem wf_beat {s : State} (h : s.mem.wf = true) (d : DieId) : (s.beat d).mem.wf = true := by
  rw [beat]
  split
  · simpa using h
  · exact wf_leaseStore h ..

theorem wf_claim {s : State} (h : s.mem.wf = true) (d : DieId) : (s.claim d).mem.wf = true := by
  rw [claim]
  split
  · exact wf_of_mem (mem_noteLease ..) (wf_leaseStore h ..)
  · exact wf_of_mem (mem_noteLease ..) h

theorem wf_ferryVisit {s : State} (h : s.mem.wf = true) (d : DieId) (q : Nat) : (s.ferryVisit d q).mem.wf = true := by
  unfold ferryVisit
  dsimp only
  repeat' split
  all_goals simp [h, wf_dispatchCommand]

end State

end Sys2Proof.Machine
end

section
/-!
### Every instruction and every step keeps the canonical form of memory (O57)

`Out.MemWf` speaks of the outcome as a whole: the proofs split an instruction's meaning under it, where the kernel compares states and
need not evaluate the conditions that choose between them.
-/
namespace Sys2Proof.Machine
open State

/-- The state that an outcome holds has memory in canonical form. -/
structure Out.MemWf (o : Out) : Prop where
  wf_next {t : State} : o = .next t → t.mem.wf = true

theorem memWf_next {t : State} (h : t.mem.wf = true) : Out.MemWf (.next t) := ⟨fun e => by cases e; exact h⟩

theorem memWf_inQueue {s : State} (h : s.mem.wf = true) {k : State → Nat → Hq → State}
    (hk : ∀ t qa q, t.mem.wf = true → Out.MemWf (.next (k t qa q))) (va : Word) : Out.MemWf (.next (s.inQueue va k)) :=
  memWf_next (wf_inQueue h (fun t qa q ht => (hk t qa q ht).wf_next rfl) va)

theorem memWf_execJal {s : State} (h : s.mem.wf = true) (rd off : Nat) : Out.MemWf (execJal rd off s) :=
  memWf_next (wf_of_mem (mem_jumpTo _ _ (mem_setX ..)) h)

theorem memWf_execJalr {s : State} (h : s.mem.wf = true) (rd rs1 imm : Nat) : Out.MemWf (execJalr rd rs1 imm s) :=
  memWf_next (wf_of_mem (mem_jumpTo _ _ (mem_setX ..)) h)

theorem memWf_execBget {s : State} (h : s.mem.wf = true) (hd hs : Nat) : Out.MemWf (execBget hd hs s) := by
  refine memWf_next ?_
  split
  · simpa using h
  · exact wf_bgetWith h (fun _ _ _ ht => wf_of_mem (mem_blocksWait ..) ht) ..

theorem memWf_execBgetq {s : State} (h : s.mem.wf = true) (hd hs : Nat) : Out.MemWf (execBgetq hd hs s) :=
  memWf_next (wf_bgetWith h (fun t _ _ ht => wf_of_mem (mem_retire t) ht) ..)

theorem memWf_execBput {s : State} (h : s.mem.wf = true) (hd hs : Nat) : Out.MemWf (execBput hd hs s) := by
  refine memWf_next ?_
  split
  · simpa using h
  · exact wf_checked h (wf_blockVas h (fun _ _ ht => wf_of_mem (mem_bputGo ..) ht) ..) _

theorem memWf_execBwait {s : State} (h : s.mem.wf = true) (hs : Nat) : Out.MemWf (execBwait hs s) := by
  refine memWf_next (wf_checked h ?_ _)
  dsimp only
  split
  · simpa using h
  · split <;> simpa using h

theorem memWf_execBtest {s : State} (h : s.mem.wf = true) (rd hs : Nat) : Out.MemWf (execBtest rd hs s) :=
  memWf_next (wf_spadOne h (fun _ => wf_of_mem (mem_finish ..) h) ..)

theorem memWf_execBrel {s : State} (h : s.mem.wf = true) (hs : Nat) : Out.MemWf (execBrel hs s) := by
  refine memWf_next (wf_checked h ?_ _)
  dsimp only
  split
  · simpa [mem_foldl _ mem_releaseTile] using h
  · simpa using h

theorem memWf_execBopen {s : State} (h : s.mem.wf = true) (hs : Nat) : Out.MemWf (execBopen hs s) := by
  refine memWf_next (wf_spadOne h (fun i => ?_) ..)
  split <;> simpa using h

theorem memWf_execBstw {s : State} (h : s.mem.wf = true) (hs rs1 rs2 : Nat) : Out.MemWf (execBstw hs rs1 rs2 s) := by
  refine memWf_next (wf_spadOne h (fun i => ?_) ..)
  dsimp only
  split <;> simpa using h

theorem memWf_execBseal {s : State} (h : s.mem.wf = true) (hs : Nat) : Out.MemWf (execBseal hs s) := by
  refine memWf_next (wf_spadOne h (fun i => ?_) ..)
  dsimp only
  split <;> simpa using h

theorem memWf_execBldw {s : State} (h : s.mem.wf = true) (rd hs rs2 : Nat) : Out.MemWf (execBldw rd hs rs2 s) := by
  refine memWf_next (wf_spadOne h (fun i => ?_) ..)
  dsimp only
  split <;> simpa using h

theorem memWf_execHmov {s : State} (h : s.mem.wf = true) (hd hs : Nat) : Out.MemWf (execHmov hd hs s) := by
  refine memWf_next ?_
  simpa using h

theorem memWf_execHadv {s : State} (h : s.mem.wf = true) (hd rs1 : Nat) : Out.MemWf (execHadv hd rs1 s) := by
  refine memWf_next ?_
  split <;> simpa using h

theorem memWf_execHginc {s : State} (h : s.mem.wf = true) (hd : Nat) : Out.MemWf (execHginc hd s) := by
  refine memWf_next ?_
  split <;> simpa using h

theorem memWf_execHsub {s : State} (h : s.mem.wf = true) (hd hs rs2 : Nat) : Out.MemWf (execHsub hd hs rs2 s) := by
  refine memWf_next ?_
  repeat' split
  all_goals simpa using h

theorem memWf_execHgetf {s : State} (h : s.mem.wf = true) (rd hs sel : Nat) : Out.MemWf (execHgetf rd hs sel s) := by
  refine memWf_next ?_
  split <;> simpa using h

theorem memWf_execHsetf {s : State} (h : s.mem.wf = true) (hd rs1 sel : Nat) : Out.MemWf (execHsetf hd rs1 sel s) := by
  refine memWf_next ?_
  split <;> simpa using h

theorem memWf_execMdrn {s : State} (h : s.mem.wf = true) (hd acc hs2 : Nat) : Out.MemWf (execMdrn hd acc hs2 s) := by
  refine memWf_next ?_
  split <;> simpa using h

theorem memWf_execAstat {s : State} (h : s.mem.wf = true) (rd acc : Nat) : Out.MemWf (execAstat rd acc s) := by
  refine memWf_next ?_
  repeat' split
  all_goals simpa using h

theorem memWf_execFtst {s : State} (h : s.mem.wf = true) (rd n : Nat) : Out.MemWf (execFtst rd n s) :=
  memWf_next (wf_flagRead h (wf_of_mem (mem_finish ..) h))

theorem memWf_execFwait {s : State} (h : s.mem.wf = true) (n : Nat) : Out.MemWf (execFwait n s) := by
  refine memWf_next ?_
  split
  · simpa using h
  · refine wf_flagRead h ?_
    split <;> simpa using h

theorem memWf_execFwclr {s : State} (h : s.mem.wf = true) (n : Nat) : Out.MemWf (execFwclr n s) := by
  refine memWf_next ?_
  split
  · simpa using h
  · refine wf_flagRead h ?_
    split <;> simpa using h

theorem memWf_execBarv {s : State} (h : s.mem.wf = true) (b : Nat) : Out.MemWf (execBarv b s) := by
  refine memWf_next ?_
  split
  · simpa using h
  · exact wf_barArrive h (fun t ht => wf_of_mem (mem_retire t) ht) ..

theorem memWf_execBarw {s : State} (h : s.mem.wf = true) (b : Nat) : Out.MemWf (execBarw b s) := by
  refine memWf_next ?_
  split <;> simpa using h

theorem memWf_execBarvw {s : State} (h : s.mem.wf = true) (b : Nat) : Out.MemWf (execBarvw b s) := by
  refine memWf_next ?_
  split
  · simpa using h
  split
  · simpa using h
  split
  · simpa using h
  · exact wf_barArrive h (fun _ ht => wf_of_mem (mem_barVw ..) ht) ..

theorem memWf_execBarany {s : State} (h : s.mem.wf = true) (rd rs1 mask : Nat) : Out.MemWf (execBarany rd rs1 mask s) := by
  refine memWf_next ?_
  dsimp only
  repeat' split
  all_goals simpa using h

theorem memWf_execSemp {s : State} (h : s.mem.wf = true) (sem : Nat) : Out.MemWf (execSemp sem s) := by
  refine memWf_next ?_
  dsimp only
  repeat' split
  all_goals simpa using h

theorem memWf_execSemv {s : State} (h : s.mem.wf = true) (sem : Nat) : Out.MemWf (execSemv sem s) := by
  refine memWf_next ?_
  split
  · simpa using h
  · refine wf_handOff h ?_
    dsimp only
    split <;> simpa using h

theorem memWf_execSemtry {s : State} (h : s.mem.wf = true) (rd sem : Nat) : Out.MemWf (execSemtry rd sem s) := by
  refine memWf_next ?_
  split <;> simpa using h

theorem memWf_execMtxl {s : State} (h : s.mem.wf = true) (mtx : Nat) : Out.MemWf (execMtxl mtx s) := by
  refine memWf_next ?_
  dsimp only
  repeat' split
  all_goals simpa using h

theorem memWf_execMtxu {s : State} (h : s.mem.wf = true) (mtx : Nat) : Out.MemWf (execMtxu mtx s) := by
  refine memWf_next ?_
  split
  · simpa using h
  · exact wf_handOff h (by simpa using h)

theorem memWf_execMtxtry {s : State} (h : s.mem.wf = true) (rd mtx : Nat) : Out.MemWf (execMtxtry rd mtx s) := by
  refine memWf_next ?_
  split <;> simpa using h

theorem memWf_execCsrrw {s : State} (h : s.mem.wf = true) (rd csr rs1 : Nat) : Out.MemWf (execCsrrw rd csr rs1 s) := by
  refine memWf_next ?_
  simpa using h

theorem memWf_execCsrrs {s : State} (h : s.mem.wf = true) (rd csr rs1 : Nat) : Out.MemWf (execCsrrs rd csr rs1 s) := by
  refine memWf_next ?_
  simpa using h

theorem memWf_execCsrrc {s : State} (h : s.mem.wf = true) (rd csr rs1 : Nat) : Out.MemWf (execCsrrc rd csr rs1 s) := by
  refine memWf_next ?_
  simpa using h

theorem memWf_execCsrrwi {s : State} (h : s.mem.wf = true) (rd csr uimm : Nat) : Out.MemWf (execCsrrwi rd csr uimm s) := by
  refine memWf_next ?_
  simpa using h

theorem memWf_execCsrrsi {s : State} (h : s.mem.wf = true) (rd csr uimm : Nat) : Out.MemWf (execCsrrsi rd csr uimm s) := by
  refine memWf_next ?_
  simpa using h

theorem memWf_execCsrrci {s : State} (h : s.mem.wf = true) (rd csr uimm : Nat) : Out.MemWf (execCsrrci rd csr uimm s) := by
  refine memWf_next ?_
  simpa using h

theorem memWf_execEbreak {s : State} (h : s.mem.wf = true) : Out.MemWf (execEbreak s) := by
  refine memWf_next ?_
  split <;> simpa using h

theorem memWf_execWfi {s : State} (h : s.mem.wf = true) : Out.MemWf (execWfi s) := by
  refine memWf_next ?_
  split <;> simpa using h

theorem memWf_execFence {s : State} (h : s.mem.wf = true) (fm pred succ rs1 rd : Nat) : Out.MemWf (execFence fm pred succ rs1 rd s) := by
  have acq : ∀ t : State, t.mem.wf = true → ∀ (p : Prop) [Decidable p], (if p then t.acquire s.msScope.1 else t).retire.mem.wf = true := by
    intro t ht p _
    split <;> simpa using ht
  refine memWf_next ?_
  dsimp only
  split
  · simpa using h
  split
  · exact wf_release h (fun t ht => acq t ht _) ..
  · exact acq s h _

theorem memWf_execFenceI {s : State} (h : s.mem.wf = true) (imm rs1 rd : Nat) : Out.MemWf (execFenceI imm rs1 rd s) := by
  refine memWf_next ?_
  split <;> simpa using h

theorem memWf_execTlbi {s : State} (h : s.mem.wf = true) (rs1 rs2 : Nat) : Out.MemWf (execTlbi rs1 rs2 s) :=
  memWf_next (wf_machineOnly h (by simpa using h) _)

theorem memWf_execTlbsync {s : State} (h : s.mem.wf = true) : Out.MemWf (execTlbsync s) := by
  refine memWf_next (wf_machineOnly h ?_ _)
  split <;> simpa using h

theorem memWf_execElog {s : State} (h : s.mem.wf = true) (rd : Nat) : Out.MemWf (execElog rd s) := by
  refine memWf_next (wf_machineOnly h ?_ _)
  split <;> simpa using h

theorem memWf_execEinj {s : State} (h : s.mem.wf = true) (rs1 rs2 : Nat) : Out.MemWf (execEinj rs1 rs2 s) :=
  memWf_next (wf_machineOnly h (by simpa using h) _)

theorem memWf_execHld {s : State} (h : s.mem.wf = true) (hd rs1 : Nat) : Out.MemWf (execHld hd rs1 s) := by
  refine memWf_next ?_
  split
  · simpa using h
  · exact wf_loadMany h (fun t ws ht => by simpa using ht) ..

theorem memWf_execHst {s : State} (h : s.mem.wf = true) (hs rs1 : Nat) : Out.MemWf (execHst hs rs1 s) := by
  have store : (s.storeMany (s.xr rs1) (State.handleWords (s.hr hs)) fun t => t.retire).mem.wf = true :=
    wf_storeMany h (fun t ht => wf_of_mem (mem_retire t) ht) ..
  refine memWf_next ?_
  split
  · simpa using h
  split
  · split
    · refine wf_withPage h (fun t e qa ht => ?_) ..
      split <;> simpa using ht
    · exact store
  · exact store

theorem memWf_execLdq {s : State} (h : s.mem.wf = true) (w sz off rs1 rd : Nat) : Out.MemWf (execLdq w sz off rs1 rd s) := by
  refine memWf_next ?_
  split <;> simp [h, wf_load]

theorem memWf_execStp {s : State} (h : s.mem.wf = true) (w sz off rs1 rs : Nat) : Out.MemWf (execStp w sz off rs1 rs s) := by
  refine memWf_next ?_
  split <;> simp [h, wf_post]

theorem memWf_execInvr {s : State} (h : s.mem.wf = true) (rs1 rs2 : Nat) : Out.MemWf (execInvr rs1 rs2 s) := by
  refine memWf_next ?_
  simpa using h

theorem memWf_execInva {s : State} (h : s.mem.wf = true) : Out.MemWf (execInva s) := by
  refine memWf_next ?_
  simpa using h

theorem memWf_execYld {s : State} (h : s.mem.wf = true) (rs1 rs2 : Nat) : Out.MemWf (execYld rs1 rs2 s) := by
  have written : ∀ l : List (Nat × L1Word), (l.foldl (fun t e => t.writeBackWord s.myCell e.1) s).mem.wf = true :=
    fun l => wf_foldl (fun _ _ ht => wf_writeBackWord ht ..) l h
  refine memWf_next ?_
  split
  · split <;> simpa using h
  split
  · simpa using h
  dsimp only
  split
  · simpa using written _
  · simpa using written _

theorem memWf_execOwnq {s : State} (h : s.mem.wf = true) (rd rs1 : Nat) : Out.MemWf (execOwnq rd rs1 s) := by
  refine memWf_next ?_
  dsimp only
  split
  · split <;> simpa using h
  · refine wf_withPage h (fun t e qa ht => ?_) ..
    split <;> simpa using ht

theorem memWf_execCntw {s : State} (h : s.mem.wf = true) (cls : Nat) : Out.MemWf (execCntw cls s) := by
  refine memWf_next ?_
  split <;> simpa using h

theorem memWf_execFacq {s : State} (h : s.mem.wf = true) (scope rs1 : Nat) : Out.MemWf (execFacq scope rs1 s) := by
  refine memWf_next ?_
  simpa using h

theorem memWf_execFrel {s : State} (h : s.mem.wf = true) (scope rs1 : Nat) : Out.MemWf (execFrel scope rs1 s) :=
  memWf_next (wf_release h (fun t ht => wf_of_mem (mem_retire t) ht) ..)

theorem memWf_execFar {s : State} (h : s.mem.wf = true) (scope rs1 : Nat) : Out.MemWf (execFar scope rs1 s) :=
  memWf_next (wf_release h (fun t ht => by simpa using ht) ..)

theorem memWf_execRlq {s : State} (h : s.mem.wf = true) (rd rs1 : Nat) : Out.MemWf (execRlq rd rs1 s) := by
  refine memWf_next ?_
  dsimp only
  split
  · split <;> simpa using h
  · refine wf_withPage h (fun t e qa ht => ?_) ..
    split
    · simpa using ht
    · split <;> simpa using ht

theorem memWf_execQpush {s : State} (h : s.mem.wf = true) (q rs1 : Nat) : Out.MemWf (execQpush q rs1 s) := by
  refine memWf_next ?_
  split
  · simpa using h
  split
  · simpa using h
  · refine wf_handOff h ?_
    split <;> simpa using h

theorem memWf_execQpop {s : State} (h : s.mem.wf = true) (rd q : Nat) : Out.MemWf (execQpop rd q s) := by
  refine memWf_next ?_
  repeat' split
  all_goals simpa using h

theorem memWf_execMsend {s : State} (h : s.mem.wf = true) (rs1 rs2 : Nat) : Out.MemWf (execMsend rs1 rs2 s) := by
  refine memWf_next ?_
  split
  · split
    · simpa using h
    · simpa using h
    · simpa using h
  · refine wf_loadMany h (fun t ws ht => ?_) ..
    split
    · simpa using ht
    · split <;> simpa using ht

theorem memWf_execMrecv {s : State} (h : s.mem.wf = true) (rd rs1 : Nat) : Out.MemWf (execMrecv rd rs1 s) := by
  refine memWf_next ?_
  split
  · simpa using h
  split
  · exact wf_receive h ..
  split
  · simpa using h
  · exact wf_storable (fun t ht => wf_receive (wf_of_mem (mem_note ..) ht) ..) h ..

theorem memWf_execMsendRecordArrives {s : State} (h : s.mem.wf = true) (id : Nat) : Out.MemWf (execMsendRecordArrives id s) := by
  refine memWf_next ?_
  repeat' split
  all_goals simpa using h

theorem memWf_execMsendRetry {s : State} (h : s.mem.wf = true) (id : Nat) : Out.MemWf (execMsendRetry id s) := by
  refine memWf_next ?_
  repeat' split
  all_goals simpa using h

theorem memWf_execMmsend {s : State} (h : s.mem.wf = true) (rs1 rs2 : Nat) : Out.MemWf (execMmsend rs1 rs2 s) := by
  refine memWf_next ?_
  split
  · simpa using h
  · exact wf_loadMany h (fun t vs ht => wf_mmsendWith ht ..) ..

theorem memWf_execEngineCommandStart {s : State} (h : s.mem.wf = true) (c : CellId) (eng : Nat) :
    Out.MemWf (execEngineCommandStart c eng s) := by
  refine memWf_next ?_
  repeat' split
  all_goals simpa using h

theorem memWf_execEngineCommandDone {s : State} (h : s.mem.wf = true) (c : CellId) (eng : Nat) :
    Out.MemWf (execEngineCommandDone c eng s) := by
  refine memWf_next ?_
  repeat' split
  all_goals simpa using h

theorem memWf_execSrcStarved {s : State} (h : s.mem.wf = true) (c : CellId) (eng : Nat) : Out.MemWf (execSrcStarved c eng s) := by
  refine memWf_next ?_
  repeat' split
  all_goals simpa using h

theorem memWf_execBufferedCommandStart {s : State} (h : s.mem.wf = true) (c : CellId) (proc : Nat) :
    Out.MemWf (execBufferedCommandStart c proc s) := by
  refine memWf_next ?_
  repeat' split
  all_goals simpa using h

theorem memWf_execCommitBufferCommit {s : State} (h : s.mem.wf = true) (n : HartId) : Out.MemWf (execCommitBufferCommit n s) := by
  refine memWf_next ?_
  repeat' split
  all_goals simpa using h

theorem memWf_execCommitBufferDiscard {s : State} (h : s.mem.wf = true) (n : HartId) : Out.MemWf (execCommitBufferDiscard n s) := by
  refine memWf_next ?_
  dsimp only
  repeat' split
  all_goals simpa using h

theorem memWf_execWordWrite {s : State} (h : s.mem.wf = true) (id : Nat) : Out.MemWf (execWordWrite id s) := by
  refine memWf_next ?_
  repeat' split
  all_goals simp [h, wf_storeBytes]

theorem memWf_execMmsendReceive {s : State} (h : s.mem.wf = true) (id : Nat) : Out.MemWf (execMmsendReceive id s) := by
  refine memWf_next ?_
  repeat' split
  all_goals simpa using h

theorem memWf_execRep {s : State} (h : s.mem.wf = true) (rs1 len stride mask : Nat) : Out.MemWf (execRep rs1 len stride mask s) := by
  refine memWf_next ?_
  split <;> simpa using h

theorem memWf_execTail {s : State} (h : s.mem.wf = true) : Out.MemWf (execTail s) := by
  refine memWf_next ?_
  repeat' split
  all_goals simpa using h

theorem memWf_execGrpq {s : State} (h : s.mem.wf = true) (rd rs1 : Nat) : Out.MemWf (execGrpq rd rs1 s) := by
  refine memWf_next ?_
  dsimp only
  repeat' split
  all_goals simpa using h

theorem memWf_execPrio {s : State} (h : s.mem.wf = true) (rs1 : Nat) : Out.MemWf (execPrio rs1 s) := by
  refine memWf_next ?_
  simpa using h

theorem memWf_execInterruptTaken {s : State} (h : s.mem.wf = true) (n : HartId) : Out.MemWf (execInterruptTaken n s) := by
  refine memWf_next ?_
  repeat' split
  all_goals simpa using h

theorem memWf_execImpreciseException {s : State} (h : s.mem.wf = true) (n : HartId) : Out.MemWf (execImpreciseException n s) := by
  refine memWf_next ?_
  repeat' split
  all_goals simp [h, wf_takeImprecise]

theorem memWf_execHartWake {s : State} (h : s.mem.wf = true) (n : HartId) : Out.MemWf (execHartWake n s) := by
  refine memWf_next ?_
  repeat' split
  all_goals simpa using h

theorem memWf_execLoadMiss {s : State} (h : s.mem.wf = true) (id : Nat) : Out.MemWf (execLoadMiss id s) := by
  refine memWf_next ?_
  repeat' split
  all_goals simpa using h

theorem memWf_execRegistration {s : State} (h : s.mem.wf = true) (id : Nat) : Out.MemWf (execRegistration id s) := by
  refine memWf_next ?_
  repeat' split
  all_goals simp [h, wf_storeAtHome]

theorem memWf_execHomeAtomicOp {s : State} (h : s.mem.wf = true) (id : Nat) : Out.MemWf (execHomeAtomicOp id s) := by
  refine memWf_next ?_
  repeat' split
  all_goals simp [h, wf_performAtomic]

theorem memWf_execWriteBack {s : State} (h : s.mem.wf = true) (c : CellId) (w : Nat) : Out.MemWf (execWriteBack c w s) := by
  refine memWf_next ?_
  repeat' split
  all_goals simp [h, wf_writeBackWord]

theorem memWf_execForward {s : State} (h : s.mem.wf = true) (id : Nat) : Out.MemWf (execForward id s) := by
  refine memWf_next ?_
  dsimp only
  repeat' split
  all_goals simpa using h

theorem memWf_execTransferRecall {s : State} (h : s.mem.wf = true) (c : CellId) (w : Nat) : Out.MemWf (execTransferRecall c w s) := by
  refine memWf_next ?_
  repeat' split
  all_goals simp [h, wf_homeWord, wf_resume]

theorem memWf_execRegistrationGrant {s : State} (h : s.mem.wf = true) (id : Nat) : Out.MemWf (execRegistrationGrant id s) := by
  refine memWf_next ?_
  cases s.getOp id with
  | none => exact h
  | some o =>
    cases o with
    | register a val ans r =>
      cases ans with
      | none => exact h
      | some ans =>
        cases ans with
        | word v => exact wf_landGrant h ..
        | done =>
          dsimp only
          split
          · exact wf_of_mem (mem_endStore ..) (wf_landed h ..)
          split
          · exact wf_of_mem (mem_endStore ..) (wf_writeOwned h ..)
          · simpa using h
        | _ => exact wf_of_mem (mem_closeOp ..) h
    | _ => exact h

theorem memWf_execL1Fill {s : State} (h : s.mem.wf = true) (id : Nat) : Out.MemWf (execL1Fill id s) := by
  refine memWf_next ?_
  split <;> simp [h, wf_fill]

theorem memWf_execCapacityEviction {s : State} (h : s.mem.wf = true) (c : CellId) (w : Nat) : Out.MemWf (execCapacityEviction c w s) := by
  refine memWf_next ?_
  repeat' split
  all_goals simp [h, wf_evictWord]

theorem memWf_execStoreWriteThrough {s : State} (h : s.mem.wf = true) (id die : Nat) : Out.MemWf (execStoreWriteThrough id die s) := by
  refine memWf_next ?_
  split <;> simp [h, wf_performStore]

theorem memWf_execHomeMigration {s : State} (h : s.mem.wf = true) (pkg page die : Nat) : Out.MemWf (execHomeMigration pkg page die s) := by
  refine memWf_next ?_
  repeat' split
  all_goals simpa using h

theorem memWf_execTspawn {s : State} (h : s.mem.wf = true) (rd rs1 : Nat) : Out.MemWf (execTspawn rd rs1 s) := by
  refine memWf_next ?_
  dsimp only
  split
  · exact wf_spawnEnter h ..
  · exact wf_spawnStore h ..
  split
  · simpa using h
  split
  · simpa using h
  refine wf_withPage h (fun t e qa ht => ?_) ..
  split
  · simpa using ht
  refine wf_loadMany ht (fun u ws hu => ?_) ..
  split
  · simpa using hu
  split
  · simpa using hu
  · exact wf_spawnSlot hu ..

theorem memWf_execTdep {s : State} (h : s.mem.wf = true) (rs1 rs2 : Nat) : Out.MemWf (execTdep rs1 rs2 s) := by
  refine memWf_next ?_
  split
  · simpa using h
  · refine wf_release h (fun u hu => ?_) ..
    split
    · next e => exact wf_of_mem (mem_retire _) (wf_of_mem (mem_of_addTask e) hu)
    · simpa using hu

theorem memWf_execTdone {s : State} (h : s.mem.wf = true) (rs1 : Nat) : Out.MemWf (execTdone rs1 s) := by
  refine memWf_next ?_
  split
  · simpa using h
  split
  · simpa using h
  · refine wf_release h (fun u hu => ?_) ..
    split
    · exact wf_release hu (fun v hv => by simpa using hv) ..
    · simpa using hu

theorem memWf_execTnext {s : State} (h : s.mem.wf = true) (rd : Nat) : Out.MemWf (execTnext rd s) := by
  refine memWf_next ?_
  repeat' split
  all_goals simpa using h

theorem memWf_execTaskStealable {s : State} (h : s.mem.wf = true) (pkg task : Nat) : Out.MemWf (execTaskStealable pkg task s) := by
  refine memWf_next ?_
  repeat' split
  all_goals simpa using h

theorem memWf_execHqmake {s : State} (h : s.mem.wf = true) (rd rs1 : Nat) : Out.MemWf (execHqmake rd rs1 s) := by
  refine memWf_next ?_
  dsimp only
  split
  · simpa using h
  refine wf_withQueue h (fun t qa ht => ?_) _
  split
  · simpa using ht
  split
  · simpa using ht
  · have cleared := wf_foldl (f := fun (u : State) i => u.hqSet qa i 0) (fun _ _ hu => wf_hqSet hu ..) [2, 3, 4, 5] ht
    exact wf_of_mem (mem_finish ..) (wf_hqSet (wf_hqSet cleared ..) ..)

theorem memWf_execHqrsv {s : State} (h : s.mem.wf = true) (rd rs1 rs2 : Nat) : Out.MemWf (execHqrsv rd rs1 rs2 s) := by
  refine memWf_inQueue h (fun t qa q ht => ?_) _
  dsimp only
  split
  · exact memWf_next (wf_of_mem (mem_trap ..) ht)
  split
  · exact memWf_next (wf_of_mem (mem_await ..) ht)
  · exact memWf_next (wf_of_mem (mem_finish ..) (wf_hqSet ht ..))

theorem memWf_execHqpub {s : State} (h : s.mem.wf = true) (rs1 rs2 : Nat) : Out.MemWf (execHqpub rs1 rs2 s) := by
  refine memWf_next (wf_inQueue h (fun t qa q ht => wf_release ht (fun u hu => ?_) ..) _)
  dsimp only
  split
  · simpa using hu
  · exact wf_of_mem (mem_retire _) (wf_serveQueue (wf_hqSet (wf_hqSet hu ..) ..) ..)

theorem memWf_execHqpop {s : State} (h : s.mem.wf = true) (rd rs1 : Nat) : Out.MemWf (execHqpop rd rs1 s) := by
  unfold execHqpop
  dsimp only
  split
  · exact memWf_next (by simpa using h)
  · exact memWf_next (wf_of_mem (mem_trap ..) h)
  · refine memWf_inQueue h (fun t qa q ht => ?_) _
    split
    · exact memWf_next (wf_of_mem (mem_parkPopper ..) ht)
    · exact memWf_next (wf_popEntry ht ..)

theorem memWf_execSqltab {s : State} (h : s.mem.wf = true) (rs1 rs2 : Nat) : Out.MemWf (execSqltab rs1 rs2 s) := by
  refine memWf_next ?_
  dsimp only
  split
  · simpa using h
  · refine wf_loadMany h (fun t ws ht => ?_) ..
    split <;> simpa using ht

theorem memWf_execSqarm {s : State} (h : s.mem.wf = true) (rs1 rs2 : Nat) : Out.MemWf (execSqarm rs1 rs2 s) := by
  refine memWf_next ?_
  split
  · simpa using h
  · exact wf_of_mem (mem_updMe ..) (wf_loadMore (fun t vs ht => wf_armGo ht ..) h ..)

theorem memWf_execSqcoef {s : State} (h : s.mem.wf = true) (rd rs1 rs2 : Nat) : Out.MemWf (execSqcoef rd rs1 rs2 s) := by
  refine memWf_next (wf_withSample h (fun v x t => ?_) _)
  split <;> simpa using h

theorem memWf_execSqhdl {s : State} (h : s.mem.wf = true) (hd rs1 : Nat) : Out.MemWf (execSqhdl hd rs1 s) := by
  refine memWf_next (wf_withSample h (fun v x t => ?_) _)
  split <;> simpa using h

theorem memWf_execSqpart {s : State} (h : s.mem.wf = true) (rs1 rs2 : Nat) : Out.MemWf (execSqpart rs1 rs2 s) :=
  memWf_next (wf_withSample h (fun _ _ _ => wf_of_mem (mem_postPart ..) h) _)

theorem memWf_execSqstat {s : State} (h : s.mem.wf = true) (rd rs1 : Nat) : Out.MemWf (execSqstat rd rs1 s) := by
  refine memWf_next ?_
  simpa using h

theorem memWf_execSqdec {s : State} (h : s.mem.wf = true) (hd rs1 : Nat) : Out.MemWf (execSqdec hd rs1 s) := by
  refine memWf_next ?_
  split <;> simpa using h

theorem memWf_execSolverDecision {s : State} (h : s.mem.wf = true) (d : DieId) (set : Nat) : Out.MemWf (execSolverDecision d set s) := by
  refine memWf_next ?_
  repeat' split
  all_goals simpa using h

theorem memWf_execDecisionWriteRetry {s : State} (h : s.mem.wf = true) (d : DieId) (set : Nat) :
    Out.MemWf (execDecisionWriteRetry d set s) := by
  refine memWf_next (wf_foldl (fun t k ht => ?_) _ h)
  split
  · simpa using ht
  · exact ht

theorem memWf_execCpgo {s : State} (h : s.mem.wf = true) (rs1 rs2 : Nat) : Out.MemWf (execCpgo rs1 rs2 s) := by
  refine memWf_next ?_
  dsimp only
  split
  · simpa using h
  · refine wf_handOff h ?_
    repeat' split
    all_goals simpa using h

theorem memWf_execCpstat {s : State} (h : s.mem.wf = true) (rd rs1 : Nat) : Out.MemWf (execCpstat rd rs1 s) := by
  refine memWf_next ?_
  simpa using h

theorem memWf_execCpstop {s : State} (h : s.mem.wf = true) (rs1 : Nat) : Out.MemWf (execCpstop rs1 s) := by
  refine memWf_next ?_
  repeat' split
  all_goals simpa using h

theorem memWf_execCpwait {s : State} (h : s.mem.wf = true) (rs1 : Nat) : Out.MemWf (execCpwait rs1 s) := by
  refine memWf_next ?_
  split <;> simpa using h

theorem memWf_execRecordFetch {s : State} (h : s.mem.wf = true) (c : CellId) (ch : Nat) : Out.MemWf (execRecordFetch c ch s) := by
  refine memWf_next ?_
  repeat' split
  all_goals simp [h, wf_fetchRecord]

theorem memWf_execRecordStart {s : State} (h : s.mem.wf = true) (c : CellId) (ch : Nat) : Out.MemWf (execRecordStart c ch s) := by
  refine memWf_next ?_
  repeat' split
  all_goals simp [h, wf_channelStep]

theorem memWf_execRecordComplete {s : State} (h : s.mem.wf = true) (c : CellId) (ch : Nat) : Out.MemWf (execRecordComplete c ch s) := by
  refine memWf_next ?_
  repeat' split
  all_goals simp [h, wf_completeStep]

theorem memWf_execPostPerform {s : State} (h : s.mem.wf = true) (id : Nat) : Out.MemWf (execPostPerform id s) := by
  refine memWf_next ?_
  split <;> simp [h, wf_performCopy, wf_performPost]

theorem memWf_execPostAck {s : State} (h : s.mem.wf = true) (id : Nat) : Out.MemWf (execPostAck id s) := by
  refine memWf_next ?_
  repeat' split
  all_goals simp [h, wf_landed]

theorem memWf_execBlockAnswerLands {s : State} (h : s.mem.wf = true) (id : Nat) : Out.MemWf (execBlockAnswerLands id s) := by
  refine memWf_next ?_
  repeat' split
  all_goals simpa using h

theorem memWf_execBlockWriteAnswer {s : State} (h : s.mem.wf = true) (id : Nat) : Out.MemWf (execBlockWriteAnswer id s) := by
  refine memWf_next ?_
  repeat' split
  all_goals simpa using h

theorem memWf_execReadRequest {s : State} (h : s.mem.wf = true) (id : Nat) : Out.MemWf (execReadRequest id s) := by
  refine memWf_next ?_
  simp [h, wf_presenceTurn]

theorem memWf_execWriteRequest {s : State} (h : s.mem.wf = true) (id : Nat) : Out.MemWf (execWriteRequest id s) := by
  refine memWf_next ?_
  simp [h, wf_presenceTurn]

theorem memWf_execPoisonRequest {s : State} (h : s.mem.wf = true) (id : Nat) : Out.MemWf (execPoisonRequest id s) := by
  refine memWf_next ?_
  simp [h, wf_presenceTurn]

theorem memWf_execClearRequest {s : State} (h : s.mem.wf = true) (id : Nat) : Out.MemWf (execClearRequest id s) := by
  refine memWf_next ?_
  simp [h, wf_presenceTurn]

theorem memWf_execPresenceStatusRead {s : State} (h : s.mem.wf = true) (id : Nat) : Out.MemWf (execPresenceStatusRead id s) := by
  refine memWf_next ?_
  simp [h, wf_presenceTurn]

theorem memWf_execDeferRetry {s : State} (h : s.mem.wf = true) (id : Nat) : Out.MemWf (execDeferRetry id s) := by
  refine memWf_next ?_
  repeat' split
  all_goals simp [h, wf_homeRead]

theorem memWf_execRemoteFlagOp {s : State} (h : s.mem.wf = true) (id : Nat) : Out.MemWf (execRemoteFlagOp id s) := by
  refine memWf_next ?_
  dsimp only
  repeat' split
  all_goals simpa using h

theorem memWf_execPswap {s : State} (h : s.mem.wf = true) (rs1 : Nat) : Out.MemWf (execPswap rs1 s) := by
  refine memWf_next (wf_machineOnly h ?_ _)
  split
  · simpa using h
  split
  · simpa using h
  · split <;> simpa using h

theorem memWf_execServiceContextStart {s : State} (h : s.mem.wf = true) (c : CellId) (agent value : Nat) :
    Out.MemWf (execServiceContextStart c agent value s) := by
  refine memWf_next ?_
  repeat' split
  all_goals simp [h, wf_goOnStarting]

theorem memWf_execBankEviction {s : State} (h : s.mem.wf = true) (n : HartId) : Out.MemWf (execBankEviction n s) := by
  refine memWf_next ?_
  repeat' split
  all_goals simp [h, wf_evict]

theorem memWf_execDebugHaltReached {s : State} (h : s.mem.wf = true) (c : CellId) : Out.MemWf (execDebugHaltReached c s) := by
  refine memWf_next ?_
  repeat' split
  all_goals simpa using h

theorem memWf_execLotteryDraw {s : State} (h : s.mem.wf = true) (d : DieId) : Out.MemWf (execLotteryDraw d s) := by
  refine memWf_next ?_
  dsimp only
  repeat' split
  all_goals simp [h, wf_dispatch]

theorem memWf_execQueueTailSnoop {s : State} (h : s.mem.wf = true) (d : DieId) (q : Nat) : Out.MemWf (execQueueTailSnoop d q s) := by
  refine memWf_next ?_
  repeat' split
  all_goals simp [h, wf_takeTail]

theorem memWf_execCopyCommand {s : State} (h : s.mem.wf = true) (d : DieId) (q k : Nat) : Out.MemWf (execCopyCommand d q k s) := by
  refine memWf_next ?_
  simp [h, wf_copyStep, wf_withOp]

theorem memWf_execSignalCommand {s : State} (h : s.mem.wf = true) (d : DieId) (q k : Nat) : Out.MemWf (execSignalCommand d q k s) := by
  refine memWf_next ?_
  simp [h, wf_signalStep, wf_withOp]

theorem memWf_execWaitCommand {s : State} (h : s.mem.wf = true) (d : DieId) (q k : Nat) : Out.MemWf (execWaitCommand d q k s) := by
  refine memWf_next ?_
  simp [h, wf_waitStep, wf_withOp]

theorem memWf_execFeWaitPoll {s : State} (h : s.mem.wf = true) (d : DieId) (q k : Nat) : Out.MemWf (execFeWaitPoll d q k s) := by
  refine memWf_next (wf_withOp h (fun r => ?_) ..)
  split
  · exact wf_waitStep h ..
  · exact h

theorem memWf_execFeWaitWake {s : State} (h : s.mem.wf = true) (d : DieId) (q k : Nat) : Out.MemWf (execFeWaitWake d q k s) := by
  refine memWf_next (wf_withOp h (fun r => ?_) ..)
  split
  · exact h
  · exact wf_waitStep h ..

theorem memWf_execGraphCommand {s : State} (h : s.mem.wf = true) (d : DieId) (q k : Nat) : Out.MemWf (execGraphCommand d q k s) := by
  refine memWf_next ?_
  simp [h, wf_graphStart, wf_withOp]

theorem memWf_execSwapCommand {s : State} (h : s.mem.wf = true) (d : DieId) (q k : Nat) : Out.MemWf (execSwapCommand d q k s) := by
  refine memWf_next ?_
  simp [h, wf_swapCmdStep, wf_withOp]

theorem memWf_execFenceCommand {s : State} (h : s.mem.wf = true) (d : DieId) (q k : Nat) : Out.MemWf (execFenceCommand d q k s) := by
  refine memWf_next ?_
  simp [h, wf_fenceStep, wf_withOp]

theorem memWf_execCondNode {s : State} (h : s.mem.wf = true) (d : DieId) (q k : Nat) : Out.MemWf (execCondNode d q k s) := by
  refine memWf_next (wf_withOp h (fun r => ?_) ..)
  split
  · exact wf_condStep h ..
  · exact h

theorem memWf_execEndNode {s : State} (h : s.mem.wf = true) (d : DieId) (q k : Nat) : Out.MemWf (execEndNode d q k s) := by
  refine memWf_next ?_
  simp [h, wf_endStep, wf_withOp]

theorem memWf_execCoalesceDlWrite {s : State} (h : s.mem.wf = true) (d : DieId) (ring value : Nat) :
    Out.MemWf (execCoalesceDlWrite d ring value s) := by
  refine memWf_next ?_
  split <;> simpa using h

theorem memWf_execLoadImage {s : State} (h : s.mem.wf = true) (d : DieId) (q k : Nat) : Out.MemWf (execLoadImage d q k s) := by
  refine memWf_next (wf_withOp h (fun r => ?_) ..)
  split
  · exact wf_loadStep h ..
  · exact h

theorem memWf_execLaunchCommand {s : State} (h : s.mem.wf = true) (d : DieId) (q k : Nat) : Out.MemWf (execLaunchCommand d q k s) := by
  refine memWf_next (wf_withOp h (fun r => ?_) ..)
  split
  · exact h
  split
  · simpa using h
  · exact wf_complete h ..
  · simpa using h

theorem memWf_execPlacementAttempt {s : State} (h : s.mem.wf = true) (d : DieId) (q k : Nat) :
    Out.MemWf (execPlacementAttempt d q k s) := by
  refine memWf_next (wf_withRun h (fun r => ?_) ..)
  split
  · split
    · simpa using h
    · exact h
  · exact h

theorem memWf_execReserveRequest {s : State} (h : s.mem.wf = true) (c : CellId) (d : DieId) (q k : Nat) :
    Out.MemWf (execReserveRequest c d q k s) := by
  refine memWf_next (wf_withRun h (fun r => ?_) ..)
  split
  · exact wf_answerReserve h ..
  · exact h

theorem memWf_execPlacementBackoffExpiry {s : State} (h : s.mem.wf = true) (d : DieId) (q k : Nat) :
    Out.MemWf (execPlacementBackoffExpiry d q k s) := by
  refine memWf_next (wf_withRun h (fun r => ?_) ..)
  split
  · split
    · simpa using h
    · exact h
  · exact h

theorem memWf_execGangRelease {s : State} (h : s.mem.wf = true) (d : DieId) (q k : Nat) : Out.MemWf (execGangRelease d q k s) := by
  refine memWf_next (wf_withRun h (fun r => ?_) ..)
  split
  · split
    · split
      · exact wf_releaseNext h ..
      · exact h
    · exact h
  · exact h

theorem memWf_execCellDone {s : State} (h : s.mem.wf = true) (c : CellId) : Out.MemWf (execCellDone c s) := by
  refine memWf_next ?_
  repeat' split
  all_goals simp [h, wf_reportDone]

theorem memWf_execRetentionExpiry {s : State} (h : s.mem.wf = true) (c : CellId) : Out.MemWf (execRetentionExpiry c s) := by
  refine memWf_next ?_
  simpa using h

theorem memWf_execHostMemRead {s : State} (h : s.mem.wf = true) (pkg addr size : Nat) : Out.MemWf (execHostMemRead pkg addr size s) := by
  refine memWf_next ?_
  dsimp only
  repeat' split
  all_goals simpa using h

theorem memWf_execHostMemWrite {s : State} (h : s.mem.wf = true) (pkg addr size value : Nat) :
    Out.MemWf (execHostMemWrite pkg addr size value s) := by
  refine memWf_next ?_
  dsimp only
  repeat' split
  all_goals simp [h, wf_hostOwnStore, wf_hostStore]

theorem memWf_execBiasCmd {s : State} (h : s.mem.wf = true) (d : DieId) (agent value : Nat) : Out.MemWf (execBiasCmd d agent value s) := by
  refine memWf_next ?_
  split <;> simpa using h

theorem memWf_execBiasFlipComplete {s : State} (h : s.mem.wf = true) (d : DieId) : Out.MemWf (execBiasFlipComplete d s) := by
  refine memWf_next ?_
  repeat' split
  all_goals simp [h, wf_flipBias]

theorem memWf_execHostLinkDown {s : State} (h : s.mem.wf = true) (pkg : Nat) : Out.MemWf (execHostLinkDown pkg s) := by
  refine memWf_next ?_
  split <;> simp [h, wf_hostDown]

theorem memWf_execHostLinkUp {s : State} (h : s.mem.wf = true) (pkg : Nat) : Out.MemWf (execHostLinkUp pkg s) := by
  refine memWf_next ?_
  simpa using h

theorem memWf_execDestinationUnreachable {s : State} (h : s.mem.wf = true) (src dst : Nat) :
    Out.MemWf (execDestinationUnreachable src dst s) := by
  refine memWf_next ?_
  repeat' split
  all_goals simp [h, wf_failAll]

theorem memWf_execLinkReplay {s : State} (h : s.mem.wf = true) (pkg port : Nat) : Out.MemWf (execLinkReplay pkg port s) := by
  refine memWf_next ?_
  repeat' split
  all_goals simpa using h

theorem memWf_execPortDown {s : State} (h : s.mem.wf = true) (pkg port : Nat) : Out.MemWf (execPortDown pkg port s) := by
  refine memWf_next ?_
  split <;> simpa using h

theorem memWf_execPortRetrain {s : State} (h : s.mem.wf = true) (pkg port : Nat) : Out.MemWf (execPortRetrain pkg port s) := by
  refine memWf_next ?_
  split <;> simpa using h

theorem memWf_execPortUp {s : State} (h : s.mem.wf = true) (pkg port : Nat) : Out.MemWf (execPortUp pkg port s) := by
  refine memWf_next ?_
  split <;> simpa using h

theorem memWf_execPowerSurge {s : State} (h : s.mem.wf = true) (pkg watts : Nat) : Out.MemWf (execPowerSurge pkg watts s) := by
  refine memWf_next ?_
  split <;> simpa using h

theorem memWf_execPowerOn {s : State} (h : s.mem.wf = true) (pkg : Nat) : Out.MemWf (execPowerOn pkg s) := by
  refine memWf_next ?_
  split <;> simp [h, wf_powerUp]

theorem memWf_execKeyStoreSign {s : State} (h : s.mem.wf = true) (d : DieId) (len msg : Nat) :
    Out.MemWf (execKeyStoreSign d len msg s) := by
  refine memWf_next ?_
  repeat' split
  all_goals simpa using h

theorem memWf_execAttestationRequest {s : State} (h : s.mem.wf = true) (pkg nonce : Nat) :
    Out.MemWf (execAttestationRequest pkg nonce s) := by
  refine memWf_next ?_
  dsimp only
  repeat' split
  all_goals simpa using h

theorem memWf_execUncorrectableError {s : State} (h : s.mem.wf = true) (c : CellId) (array addr synd : Nat) :
    Out.MemWf (execUncorrectableError c array addr synd s) := by
  refine memWf_next ?_
  split <;> simp [h, wf_strike]

theorem memWf_execDieElogRead {s : State} (h : s.mem.wf = true) (d : DieId) : Out.MemWf (execDieElogRead d s) := by
  refine memWf_next ?_
  repeat' split
  all_goals simpa using h

theorem memWf_execDieEinj {s : State} (h : s.mem.wf = true) (d : DieId) (agent value : Nat) : Out.MemWf (execDieEinj d agent value s) := by
  refine memWf_next ?_
  split <;> simpa using h

theorem memWf_execRegisterWrite {s : State} (h : s.mem.wf = true) (d : DieId) (agent off value : Nat) :
    Out.MemWf (execRegisterWrite d agent off value s) := by
  refine memWf_next ?_
  split <;> simp [h, wf_writeReg]

theorem memWf_execFeIrq {s : State} (h : s.mem.wf = true) (d : DieId) (agent value : Nat) : Out.MemWf (execFeIrq d agent value s) := by
  refine memWf_next ?_
  split <;> simpa using h

theorem memWf_execFuseSvn {s : State} (h : s.mem.wf = true) (d : DieId) (agent value : Nat) : Out.MemWf (execFuseSvn d agent value s) := by
  refine memWf_next ?_
  split <;> simpa using h

theorem memWf_execReboot {s : State} (h : s.mem.wf = true) (d : DieId) (agent : Nat) : Out.MemWf (execReboot d agent s) := by
  refine memWf_next ?_
  split <;> simpa using h

theorem memWf_execHandback {s : State} (h : s.mem.wf = true) (d : DieId) : Out.MemWf (execHandback d s) := by
  refine memWf_next ?_
  split <;> simpa using h

theorem memWf_execLeaseBeat {s : State} (h : s.mem.wf = true) (d : DieId) : Out.MemWf (execLeaseBeat d s) := by
  refine memWf_next ?_
  split <;> simp [h, wf_beat]

theorem memWf_execLeaseClaim {s : State} (h : s.mem.wf = true) (d : DieId) : Out.MemWf (execLeaseClaim d s) := by
  refine memWf_next ?_
  split <;> simp [h, wf_claim]

theorem memWf_execHangMonitorFire {s : State} (h : s.mem.wf = true) (d : DieId) : Out.MemWf (execHangMonitorFire d s) := by
  refine memWf_next ?_
  split <;> simpa using h

theorem memWf_execFerryDispatch {s : State} (h : s.mem.wf = true) (d : DieId) : Out.MemWf (execFerryDispatch d s) := by
  refine memWf_next ?_
  split <;> simp [h, wf_ferryVisit]

theorem memWf_execPageWalk {s : State} (h : s.mem.wf = true) (d : DieId) (part va : Nat) : Out.MemWf (execPageWalk d part va s) := by
  refine memWf_next ?_
  repeat' split
  all_goals simpa using h

/-! #### Copies that arrive over a link (R297) -/

theorem memWf_apply {s : State} (h : s.mem.wf = true) (e : Event) : Out.MemWf (apply e s) := by
  cases e with
  | readRequest => exact memWf_execReadRequest h ..
  | writeRequest => exact memWf_execWriteRequest h ..
  | poisonRequest => exact memWf_execPoisonRequest h ..
  | clearRequest => exact memWf_execClearRequest h ..
  | presenceStatusRead => exact memWf_execPresenceStatusRead h ..
  | blockAnswerLands => exact memWf_execBlockAnswerLands h ..
  | blockWriteAnswer => exact memWf_execBlockWriteAnswer h ..
  | loadMiss => exact memWf_execLoadMiss h ..
  | registration => exact memWf_execRegistration h ..
  | homeAtomicOp => exact memWf_execHomeAtomicOp h ..
  | transferRecall => exact memWf_execTransferRecall h ..
  | forward => exact memWf_execForward h ..
  | writeBack => exact memWf_execWriteBack h ..
  | registrationGrant => exact memWf_execRegistrationGrant h ..
  | l1Fill => exact memWf_execL1Fill h ..
  | postPerform => exact memWf_execPostPerform h ..
  | postAck => exact memWf_execPostAck h ..
  | storeWriteThrough => exact memWf_execStoreWriteThrough h ..
  | wordWrite => exact memWf_execWordWrite h ..
  | rangeLock => exact memWf_next (wf_lockRow h ..)
  | remoteFlagOp => exact memWf_execRemoteFlagOp h ..
  | msendRecordArrives => exact memWf_execMsendRecordArrives h ..
  | mmsendReceive => exact memWf_execMmsendReceive h ..
  | _ => exact memWf_next (wf_of_mem (mem_push ..) h)

theorem memWf_deliver {s : State} (h : s.mem.wf = true) (lane : Nat) (e : Event) : Out.MemWf (deliver lane e s) := by
  unfold deliver
  split
  · refine memWf_next ?_
    split
    · exact wf_of_mem (mem_dropOp ..) h
    · exact h
  split
  · exact memWf_next (wf_of_mem (mem_hold ..) h)
  · exact memWf_apply h e

theorem memWf_arrive' {s : State} (h : s.mem.wf = true) (src dst lane : Nat) (f : Flow) (c : Copy) (i : Nat) :
    Out.MemWf (s.arrive' src dst lane f c i) := by
  unfold arrive'
  extract_lets put acked ahead
  have hput : ∀ g, (put g).mem.wf = true := fun _ => wf_of_mem (mem_refill ..) h
  split
  · exact memWf_deliver (hput _) ..
  split
  · exact memWf_next (wf_of_mem (mem_push ..) h)
  · exact memWf_next (hput _)

theorem memWf_execLinkOperationArrive {s : State} (h : s.mem.wf = true) (src dst lane : Nat) :
    Out.MemWf (execLinkOperationArrive src dst lane s) := by
  unfold execLinkOperationArrive
  dsimp only
  split
  · exact memWf_next h
  split
  · exact memWf_arrive' h ..
  · exact memWf_next (wf_of_mem (mem_hop ..) h)

/-! #### Every instruction and every event -/

theorem memWf_exec {s : State} (h : s.mem.wf = true) (i : Instr) : Out.MemWf (exec i s) := by
  cases i with
  | lui | auipc | addi | slti | sltiu | xori | ori | andi | slli | srli | srai | add | sub | sll | slt | sltu | xor | srl | sra | or
  | and | addiw | slliw | srliw | sraiw | addw | subw | sllw | srlw | sraw | mul | mulh | mulhsu | mulhu | div | divu | rem | remu
  | mulw | divw | divuw | remw | remuw | cntr | qtry | mpoll => exact memWf_next (wf_of_mem (mem_finish ..) h)
  | beq | bne | blt | bge | bltu | bgeu => exact memWf_next (wf_of_mem (mem_branch ..) h)
  | lb | lh | lw | ld | lbu | lhu | lwu => exact memWf_next (wf_load h ..)
  | sb | sh | sw | sd => exact memWf_next (wf_storeIns h ..)
  | lrW | scW | lrD | scD | amoswapW | amoswapD | amoaddW | amoaddD | amoxorW | amoxorD | amoandW | amoandD | amoorW | amoorD | amominW
  | amominD | amomaxW | amomaxD | amominuW | amominuD | amomaxuW | amomaxuD => exact memWf_next (wf_atomic h ..)
  | bclr | bpois | bstat => exact memWf_next (wf_blockAsk h ..)
  | mma | mmaz | mmav | mmavz | mmrg | aclr | vadd | vsub | vmul | vfma | vmax | vmin | vscl | vaxpy | vfill | vcopy | vexp2 | vrcp
  | vrsq | vcmplt | vcmpeq | vsel | vreds | vredm | vargm | verrs | vtrn | vcvt | cvala | cvalb | cvqmx | cvdq | cvi8 | cvrns | cvcrt
  | cvlay => exact memWf_next (wf_of_mem (mem_issue ..) h)
  | fset | fclr => exact memWf_next (wf_flagOp h ..)
  | bfs | bfc => exact memWf_next (wf_of_mem (mem_branchFlag ..) h)
  | ecall | illegalInstruction | instructionFetchFault => exact memWf_next (wf_of_mem (mem_trap ..) h)
  | mret => exact memWf_next (wf_machineOnly h (wf_of_mem (mem_returnFromTrap s) h) _)
  | stpa => exact memWf_next (wf_post h ..)
  | halt => exact memWf_next (wf_of_mem (mem_haltOp ..) h)
  | yield => exact memWf_next (wf_of_mem (mem_moveRr ..) (wf_of_mem (mem_retire s) h))
  | rangeLock => exact memWf_next (wf_lockRow h ..)
  | swapGraceExpiry => exact memWf_next (wf_of_mem (mem_swapStep ..) h)
  | debugHaltRequest | debugResume | debugStep => exact memWf_next (wf_of_mem (mem_agentDbgCtl ..) h)
  | debugRegRead | debugRegWrite => exact memWf_next (wf_agentDbgCmd h ..)
  | coalesceDeadline => exact memWf_next (wf_of_mem (mem_deadline ..) h)
  | powerWindow => exact memWf_next (wf_of_mem (mem_windowEnds ..) h)
  | islandLevelChange => exact memWf_next (wf_of_mem (mem_requestLevel ..) h)
  | correctableError => exact memWf_next (wf_of_mem (mem_logArray ..) h)
  | jal => exact memWf_execJal h ..
  | jalr => exact memWf_execJalr h ..
  | bget => exact memWf_execBget h ..
  | bgetq => exact memWf_execBgetq h ..
  | bput => exact memWf_execBput h ..
  | bwait => exact memWf_execBwait h ..
  | btest => exact memWf_execBtest h ..
  | brel => exact memWf_execBrel h ..
  | bopen => exact memWf_execBopen h ..
  | bstw => exact memWf_execBstw h ..
  | bseal => exact memWf_execBseal h ..
  | bldw => exact memWf_execBldw h ..
  | hmov => exact memWf_execHmov h ..
  | hadv => exact memWf_execHadv h ..
  | hginc => exact memWf_execHginc h ..
  | hsub => exact memWf_execHsub h ..
  | hgetf => exact memWf_execHgetf h ..
  | hsetf => exact memWf_execHsetf h ..
  | mdrn => exact memWf_execMdrn h ..
  | astat => exact memWf_execAstat h ..
  | ftst => exact memWf_execFtst h ..
  | fwait => exact memWf_execFwait h ..
  | fwclr => exact memWf_execFwclr h ..
  | barv => exact memWf_execBarv h ..
  | barw => exact memWf_execBarw h ..
  | barvw => exact memWf_execBarvw h ..
  | barany => exact memWf_execBarany h ..
  | semp => exact memWf_execSemp h ..
  | semv => exact memWf_execSemv h ..
  | semtry => exact memWf_execSemtry h ..
  | mtxl => exact memWf_execMtxl h ..
  | mtxu => exact memWf_execMtxu h ..
  | mtxtry => exact memWf_execMtxtry h ..
  | csrrw => exact memWf_execCsrrw h ..
  | csrrs => exact memWf_execCsrrs h ..
  | csrrc => exact memWf_execCsrrc h ..
  | csrrwi => exact memWf_execCsrrwi h ..
  | csrrsi => exact memWf_execCsrrsi h ..
  | csrrci => exact memWf_execCsrrci h ..
  | ebreak => exact memWf_execEbreak h ..
  | wfi => exact memWf_execWfi h ..
  | fence fm pred succ rs1 rd => exact memWf_execFence h fm pred succ rs1 rd
  | fenceI imm rs1 rd => exact memWf_execFenceI h imm rs1 rd
  | tlbi => exact memWf_execTlbi h ..
  | tlbsync => exact memWf_execTlbsync h ..
  | elog => exact memWf_execElog h ..
  | einj => exact memWf_execEinj h ..
  | hld => exact memWf_execHld h ..
  | hst => exact memWf_execHst h ..
  | ldq => exact memWf_execLdq h ..
  | stp => exact memWf_execStp h ..
  | invr => exact memWf_execInvr h ..
  | inva => exact memWf_execInva h ..
  | yld => exact memWf_execYld h ..
  | ownq => exact memWf_execOwnq h ..
  | cntw => exact memWf_execCntw h ..
  | facq scope rs1 => exact memWf_execFacq h scope rs1
  | frel => exact memWf_execFrel h ..
  | far => exact memWf_execFar h ..
  | rlq => exact memWf_execRlq h ..
  | qpush => exact memWf_execQpush h ..
  | qpop => exact memWf_execQpop h ..
  | msend => exact memWf_execMsend h ..
  | mrecv => exact memWf_execMrecv h ..
  | msendRecordArrives => exact memWf_execMsendRecordArrives h ..
  | msendRetry => exact memWf_execMsendRetry h ..
  | mmsend => exact memWf_execMmsend h ..
  | engineCommandStart => exact memWf_execEngineCommandStart h ..
  | engineCommandDone => exact memWf_execEngineCommandDone h ..
  | srcStarved => exact memWf_execSrcStarved h ..
  | bufferedCommandStart => exact memWf_execBufferedCommandStart h ..
  | commitBufferCommit => exact memWf_execCommitBufferCommit h ..
  | commitBufferDiscard => exact memWf_execCommitBufferDiscard h ..
  | wordWrite => exact memWf_execWordWrite h ..
  | mmsendReceive => exact memWf_execMmsendReceive h ..
  | rep => exact memWf_execRep h ..
  | tail => exact memWf_execTail h ..
  | grpq => exact memWf_execGrpq h ..
  | prio => exact memWf_execPrio h ..
  | interruptTaken => exact memWf_execInterruptTaken h ..
  | impreciseException => exact memWf_execImpreciseException h ..
  | hartWake => exact memWf_execHartWake h ..
  | loadMiss => exact memWf_execLoadMiss h ..
  | registration => exact memWf_execRegistration h ..
  | homeAtomicOp => exact memWf_execHomeAtomicOp h ..
  | writeBack => exact memWf_execWriteBack h ..
  | forward => exact memWf_execForward h ..
  | transferRecall => exact memWf_execTransferRecall h ..
  | registrationGrant => exact memWf_execRegistrationGrant h ..
  | l1Fill => exact memWf_execL1Fill h ..
  | capacityEviction => exact memWf_execCapacityEviction h ..
  | storeWriteThrough => exact memWf_execStoreWriteThrough h ..
  | homeMigration => exact memWf_execHomeMigration h ..
  | tspawn => exact memWf_execTspawn h ..
  | tdep => exact memWf_execTdep h ..
  | tdone => exact memWf_execTdone h ..
  | tnext => exact memWf_execTnext h ..
  | taskStealable => exact memWf_execTaskStealable h ..
  | hqmake => exact memWf_execHqmake h ..
  | hqrsv => exact memWf_execHqrsv h ..
  | hqpub => exact memWf_execHqpub h ..
  | hqpop => exact memWf_execHqpop h ..
  | sqltab => exact memWf_execSqltab h ..
  | sqarm => exact memWf_execSqarm h ..
  | sqcoef => exact memWf_execSqcoef h ..
  | sqhdl => exact memWf_execSqhdl h ..
  | sqpart => exact memWf_execSqpart h ..
  | sqstat => exact memWf_execSqstat h ..
  | sqdec => exact memWf_execSqdec h ..
  | solverDecision => exact memWf_execSolverDecision h ..
  | decisionWriteRetry => exact memWf_execDecisionWriteRetry h ..
  | cpgo => exact memWf_execCpgo h ..
  | cpstat => exact memWf_execCpstat h ..
  | cpstop => exact memWf_execCpstop h ..
  | cpwait => exact memWf_execCpwait h ..
  | recordFetch => exact memWf_execRecordFetch h ..
  | recordStart => exact memWf_execRecordStart h ..
  | recordComplete => exact memWf_execRecordComplete h ..
  | postPerform => exact memWf_execPostPerform h ..
  | postAck => exact memWf_execPostAck h ..
  | blockAnswerLands => exact memWf_execBlockAnswerLands h ..
  | blockWriteAnswer => exact memWf_execBlockWriteAnswer h ..
  | readRequest => exact memWf_execReadRequest h ..
  | writeRequest => exact memWf_execWriteRequest h ..
  | poisonRequest => exact memWf_execPoisonRequest h ..
  | clearRequest => exact memWf_execClearRequest h ..
  | presenceStatusRead => exact memWf_execPresenceStatusRead h ..
  | deferRetry => exact memWf_execDeferRetry h ..
  | remoteFlagOp => exact memWf_execRemoteFlagOp h ..
  | pswap => exact memWf_execPswap h ..
  | serviceContextStart => exact memWf_execServiceContextStart h ..
  | bankEviction => exact memWf_execBankEviction h ..
  | debugHaltReached => exact memWf_execDebugHaltReached h ..
  | lotteryDraw => exact memWf_execLotteryDraw h ..
  | queueTailSnoop => exact memWf_execQueueTailSnoop h ..
  | copyCommand => exact memWf_execCopyCommand h ..
  | signalCommand => exact memWf_execSignalCommand h ..
  | waitCommand => exact memWf_execWaitCommand h ..
  | feWaitPoll => exact memWf_execFeWaitPoll h ..
  | feWaitWake => exact memWf_execFeWaitWake h ..
  | graphCommand => exact memWf_execGraphCommand h ..
  | swapCommand => exact memWf_execSwapCommand h ..
  | fenceCommand => exact memWf_execFenceCommand h ..
  | condNode => exact memWf_execCondNode h ..
  | endNode => exact memWf_execEndNode h ..
  | coalesceDlWrite => exact memWf_execCoalesceDlWrite h ..
  | loadImage => exact memWf_execLoadImage h ..
  | launchCommand => exact memWf_execLaunchCommand h ..
  | placementAttempt => exact memWf_execPlacementAttempt h ..
  | reserveRequest => exact memWf_execReserveRequest h ..
  | placementBackoffExpiry => exact memWf_execPlacementBackoffExpiry h ..
  | gangRelease => exact memWf_execGangRelease h ..
  | cellDone => exact memWf_execCellDone h ..
  | retentionExpiry => exact memWf_execRetentionExpiry h ..
  | hostMemRead => exact memWf_execHostMemRead h ..
  | hostMemWrite => exact memWf_execHostMemWrite h ..
  | biasCmd => exact memWf_execBiasCmd h ..
  | biasFlipComplete => exact memWf_execBiasFlipComplete h ..
  | hostLinkDown => exact memWf_execHostLinkDown h ..
  | hostLinkUp => exact memWf_execHostLinkUp h ..
  | linkOperationArrive => exact memWf_execLinkOperationArrive h ..
  | destinationUnreachable => exact memWf_execDestinationUnreachable h ..
  | linkReplay => exact memWf_execLinkReplay h ..
  | portDown => exact memWf_execPortDown h ..
  | portRetrain => exact memWf_execPortRetrain h ..
  | portUp => exact memWf_execPortUp h ..
  | powerSurge => exact memWf_execPowerSurge h ..
  | powerOn => exact memWf_execPowerOn h ..
  | keyStoreSign => exact memWf_execKeyStoreSign h ..
  | attestationRequest => exact memWf_execAttestationRequest h ..
  | uncorrectableError => exact memWf_execUncorrectableError h ..
  | dieElogRead => exact memWf_execDieElogRead h ..
  | dieEinj => exact memWf_execDieEinj h ..
  | registerWrite => exact memWf_execRegisterWrite h ..
  | feIrq => exact memWf_execFeIrq h ..
  | fuseSvn => exact memWf_execFuseSvn h ..
  | reboot => exact memWf_execReboot h ..
  | handback => exact memWf_execHandback h ..
  | leaseBeat => exact memWf_execLeaseBeat h ..
  | leaseClaim => exact memWf_execLeaseClaim h ..
  | hangMonitorFire => exact memWf_execHangMonitorFire h ..
  | ferryDispatch => exact memWf_execFerryDispatch h ..
  | pageWalk => exact memWf_execPageWalk h ..

/-- Every event is a row of the opcode table (log 2). -/
theorem exists_names (e : Event) : ∃ i, e.Names i := by
  cases e <;> exact ⟨_, rfl⟩

theorem memWf_perform {s : State} (h : s.mem.wf = true) (e : Event) : Out.MemWf (perform e s) := by
  obtain ⟨i, names⟩ := exists_names e
  exact perform_eq names s ▸ memWf_exec h i

/-! #### The step -/

theorem memWf_map {o : Out} (h : o.MemWf) {f : State → State} (hf : ∀ t, (f t).mem = t.mem) : Out.MemWf (o.map f) := by
  cases o with
  | next t => exact memWf_next (wf_of_mem (hf t) (h.wf_next rfl))
  | fault r => exact ⟨nofun⟩
  | refused r => exact ⟨nofun⟩

theorem memWf_performEvent {s : State} (h : s.mem.wf = true) (e : Event) : Out.MemWf (s.performEvent e) := by
  unfold performEvent
  dsimp only
  split
  · exact memWf_map (memWf_perform h e) fun _ => mem_foldl _ (fun _ _ => mem_faultTold ..) ..
  · exact memWf_next (by simpa using h)

theorem wf_of_earlyTrap {s t : State} (h : s.mem.wf = true) {i : Instr} (e : s.earlyTrap i = some t) : t.mem.wf = true := by
  unfold earlyTrap at e
  dsimp only at e
  split at e
  · next u eu =>
    split at e
    · cases e
      exact (memWf_exec (wf_of_mem (mem_updMe ..) h) i).wf_next eu
    · cases e
  · cases e

theorem memWf_execWord {s : State} (h : s.mem.wf = true) (w : Nat) : Out.MemWf (s.execWord w) := by
  have illegal : Out.MemWf (execIllegalInstruction w s) := memWf_next (wf_of_mem (mem_trap ..) h)
  unfold execWord
  split
  · exact illegal
  split
  · exact illegal
  split
  · exact memWf_next (wf_of_mem (mem_stall s) h)
  split
  · refine memWf_next ?_
    cases e : s.earlyTrap _ with
    | none => exact wf_of_mem (mem_trap ..) h
    | some t => exact wf_of_earlyTrap h e
  · next t filled =>
    have ht : (t.updMe fun v => { v with insn := some w }).mem.wf = true := wf_of_mem (mem_updMe ..) (wf_of_mem (mem_of_fillFor filled) h)
    dsimp only
    split
    · next e => exact memWf_next (wf_of_mem (mem_of_predicted e) ht)
    · exact memWf_exec ht _

theorem memWf_issueNext {s : State} (h : s.mem.wf = true) : Out.MemWf s.issueNext := by
  have fetched : s.fetch.state.mem.wf = true := wf_of_mem (mem_fetch s) h
  unfold issueNext
  split
  · exact memWf_execWord h _
  split
  · next e =>
    rw [e] at fetched
    exact memWf_next (wf_of_mem (mem_updMe ..) fetched)
  · next e =>
    rw [e] at fetched
    exact memWf_next (wf_of_mem (mem_trap ..) fetched)
  · next e =>
    rw [e] at fetched
    exact memWf_execWord fetched _

theorem memWf_hartTurn {s : State} (h : s.mem.wf = true) : Out.MemWf s.hartTurn := by
  have ht : s.begun.takeUp.mem.wf = true := by simpa using h
  unfold hartTurn
  dsimp only
  split
  · exact memWf_next h
  · refine memWf_map ?_ (mem_endTurn _)
    split
    · exact memWf_performEvent ht _
    split
    · exact memWf_execInterruptTaken ht _
    · exact memWf_issueNext ht

theorem memWf_act {s : State} (h : s.mem.wf = true) : Out.MemWf s.act := by
  unfold act
  split
  · exact memWf_hartTurn h
  · split
    · exact memWf_next (wf_of_mem (mem_hold ..) h)
    · exact memWf_performEvent h _
  · exact memWf_performEvent h _
  · exact memWf_next (wf_of_mem (mem_writeFlash ..) h)
  · split
    · exact memWf_next (wf_earlyLoad h ..)
    · exact memWf_next h

theorem memWf_step {s : State} (h : s.mem.wf = true) : Out.MemWf (step s) := memWf_map (memWf_act h) (mem_goOn s)

/-- Settles O57: every operation that writes memory writes it through `Memory.write`, which keeps the form; the rest leave memory alone. -/
theorem memoryFormKept : Obligations.MemoryFormKept := fun _ _ h => ⟨(memWf_step h).wf_next, fun i => (memWf_exec h i).wf_next⟩

end Sys2Proof.Machine
end

section
/-!
### Fields and bits of words

A word is known by its bits, and a field of it by the bits it holds; `getLsbD_setFld` and `testBit_fld` say which, and the laws of
fields follow bit by bit.
-/
namespace Sys2Proof.Machine

theorem testBit_fld (w : Word) (lo len i : Nat) : (fld w lo len).testBit i = (decide (i < len) && w.getLsbD (lo + i)) := by
  rw [fld, bitsOf, Nat.testBit_mod_two_pow, Nat.testBit_div_two_pow, BitVec.getLsbD, Nat.add_comm]

theorem fld_lt (w : Word) (lo len : Nat) : fld w lo len < 2 ^ len := Nat.mod_lt _ (Nat.two_pow_pos len)

/-- Two words agree in a field if they agree in each of its bits. -/
theorem fld_congr {w v : Word} {lo len : Nat} (h : ∀ i < len, w.getLsbD (lo + i) = v.getLsbD (lo + i)) : fld w lo len = fld v lo len := by
  refine Nat.eq_of_testBit_eq fun i => ?_
  rw [testBit_fld, testBit_fld]
  by_cases hi : i < len <;> simp [hi, h]

/-- The bits of a word with the field at `lo` replaced. -/
theorem getLsbD_setFld (w : Word) (lo len v i : Nat) : (setFld w lo len v).getLsbD i =
    if lo ≤ i ∧ i < lo + len then decide (i < 64) && v.testBit (i - lo) else w.getLsbD i := by
  have up : ∀ n, (BitVec.ofNat 64 (n * 2 ^ lo)).getLsbD i = (decide (i < 64) && (decide (lo ≤ i) && n.testBit (i - lo))) := fun n => by
    rw [BitVec.getLsbD_ofNat, Nat.testBit_mul_two_pow]
  rw [setFld, BitVec.getLsbD_or, BitVec.getLsbD_and, BitVec.getLsbD_not, up, up, Nat.testBit_mod_two_pow, Nat.testBit_two_pow_sub_one]
  by_cases h64 : i < 64
  · by_cases hlo : lo ≤ i
    · by_cases hhi : i < lo + len
      · simp [h64, hlo, hhi, show i - lo < len by omega]
      · simp [h64, hlo, hhi, show ¬ i - lo < len by omega]
    · simp [h64, hlo]
  · simp [h64, BitVec.getLsbD_of_ge w i (by omega)]

/-- A word with a field put in place of that of another. -/
theorem getLsbD_setFld_fld (w v : Word) (lo len i : Nat) : (setFld w lo len (fld v lo len)).getLsbD i =
    if lo ≤ i ∧ i < lo + len then v.getLsbD i else w.getLsbD i := by
  rw [getLsbD_setFld, testBit_fld]
  by_cases h : lo ≤ i ∧ i < lo + len
  · rw [if_pos h, if_pos h, show lo + (i - lo) = i by omega, decide_eq_true (show i - lo < len by omega), Bool.true_and]
    by_cases h64 : i < 64
    · rw [decide_eq_true h64, Bool.true_and]
    · rw [decide_eq_false h64, Bool.false_and, BitVec.getLsbD_of_ge v i (by omega)]
  · rw [if_neg h, if_neg h]

theorem fld_setFld_same (w : Word) {lo len : Nat} (v : Nat) (h : lo + len ≤ 64) : fld (setFld w lo len v) lo len = v % 2 ^ len := by
  refine Nat.eq_of_testBit_eq fun i => ?_
  rw [testBit_fld, getLsbD_setFld, Nat.testBit_mod_two_pow]
  by_cases hi : i < len
  · simp [hi, show lo + i < 64 by omega]
  · simp [hi]

theorem fld_setFld_apart (w : Word) {lo len lo' len' : Nat} (v : Nat) (h : lo' + len' ≤ lo ∨ lo + len ≤ lo') :
    fld (setFld w lo len v) lo' len' = fld w lo' len' :=
  fld_congr fun i hi => by rw [getLsbD_setFld, if_neg (by omega)]

/-- A field by its lowest bit and the rest. -/
theorem fld_succ (w : Word) (lo len : Nat) : fld w lo (len + 1) = (if w.getLsbD lo then 1 else 0) + 2 * fld w (lo + 1) len := by
  rw [← fld_bit, fld, fld, fld, bitsOf, bitsOf, bitsOf, Nat.pow_succ', Nat.mod_mul, Nat.div_div_eq_div_mul, ← Nat.pow_succ, Nat.pow_one]

theorem State.low_eq_fld (n : Nat) (v : Word) : State.low n v = BitVec.ofNat 64 (fld v 0 n) := by simp [State.low, fld, bitsOf]

/-- The low `n` bits of a word are what a mask of `n` ones leaves of it. -/
theorem State.low_eq_and (n : Nat) (v : Word) : State.low n v = v &&& BitVec.ofNat 64 (2 ^ n - 1) := by
  refine BitVec.eq_of_getLsbD_eq fun i hi => ?_
  rw [State.low, BitVec.getLsbD_and, BitVec.getLsbD_ofNat, BitVec.getLsbD_ofNat, Nat.testBit_mod_two_pow, Nat.testBit_two_pow_sub_one,
    BitVec.getLsbD, Bool.and_comm (v.toNat.testBit i)]
  simp [hi]

end Sys2Proof.Machine
end

section
/-!
### What completing and trapping leave unchanged (O60)

The frame is proved of the hart first: completing (`Hart.retired`), writing x[rd] (`Hart.writes`) and entering a trap (`Hart.enters`) each
change the fields named and no other. The state then changes in that one hart, and a trap in the reservations too.
-/
namespace Sys2Proof.Machine

/-! #### The hart -/

namespace Hart

/-- Writing x[rd] changes the x registers alone. -/
theorem writes_frame (h : Hart) (rd : Nat) (v : Word) : h.writes rd v = { h with x := (h.writes rd v).x } := by
  unfold writes
  split <;> rfl

@[simp] theorem writes_zero (h : Hart) (v : Word) : h.writes 0 v = h := rfl

@[simp] theorem csr_writes (h : Hart) (rd : Nat) (v : Word) : (h.writes rd v).csr = h.csr := by rw [writes_frame]

@[simp] theorem loop_writes (h : Hart) (rd : Nat) (v : Word) : (h.writes rd v).loop = h.loop := by rw [writes_frame]

/-- A register other than x0, read after a write of x[rd]. -/
theorem getElem?_x_writes (h : Hart) {rd r : Nat} (v : Word) (hr : r < 32) (n : r ≠ 0) :
    (h.writes rd v).x[r]? = if r = rd then some v else h.x[r]? := by
  unfold writes
  by_cases e : rd = 0
  · rw [if_pos e, if_neg (by omega)]
  · rw [if_neg e, Vector.getElem?_setIfInBounds]
    by_cases e' : rd = r
    · simp [e', hr]
    · simp [e', Ne.symm e']

/-- Completing changes the pc, the loop, the CSRs and what is kept of the instruction under way (R72). -/
theorem retired_frame (h : Hart) (npc : Word) :
    h.retired npc = { h with pc := (h.retired npc).pc, loop := (h.retired npc).loop, csr := (h.retired npc).csr, wait := none, answer := none,
                             stalled := false, parked := false, op := none, walkFault := none, insn := none } := by
  unfold retired
  split <;> rfl

@[simp] theorem x_retired (h : Hart) (npc : Word) : (h.retired npc).x = h.x := by rw [retired_frame]

/-- Completing counts minstret, and of the other CSRs changes rep.state alone (R11, R72). -/
theorem csr_retired (h : Hart) (npc : Word) :
    (h.retired npc).csr = { h.csr with minstret := h.csr.minstret + 1, repState := (h.retired npc).csr.repState } := by
  unfold retired
  split <;> rfl

theorem retired_of_noLoop {h : Hart} (l : h.loop = none) (npc : Word) :
    (h.retired npc).pc = npc ∧ (h.retired npc).loop = none ∧ (h.retired npc).csr.repState = h.csr.repState := by
  simp [retired, l]

end Hart

/-! #### mstatus at trap entry (R62) -/

theorem entryStatus_mpie (m : Word) (mode : Mode) : (entryStatus m mode).getLsbD 7 = m.getLsbD 3 := by
  unfold entryStatus wbit
  cases mode <;> cases m.getLsbD 3 <;> rfl

theorem entryStatus_mie (m : Word) (mode : Mode) : (entryStatus m mode).getLsbD 3 = false := by
  unfold entryStatus wbit
  cases mode <;> cases m.getLsbD 3 <;> rfl

theorem entryStatus_mpp (m : Word) (mode : Mode) : fld (entryStatus m mode) 11 2 = if mode = .m then 3 else 0 := by
  unfold entryStatus wbit
  cases mode <;> cases m.getLsbD 3 <;> rfl

/-! #### The state -/

namespace State

theorem completes_frame (s : State) (h : Hart) (npc : Word) : s.completes h npc = { s with harts := (s.completes h npc).harts } := rfl

@[simp] theorem me_completes (s : State) (h : Hart) (npc : Word) : (s.completes h npc).me = h.retired npc := me_setHart ..

theorem getHart_completes_of_ne {s : State} {k : HartId} (n : k ≠ s.cur) (h : Hart) (npc : Word) :
    (s.completes h npc).getHart k = s.getHart k := getHart_setHart_of_ne n ..

theorem me_wrote (s : State) (rd : Nat) (v : Word) : (s.wrote rd v).me = (s.me.writes rd v).retired (s.me.pc + 4) := me_completes ..

/-- The x registers after an instruction that writes x[rd]: x0 reads as zero, and the others keep their values (R9). -/
theorem xr_wrote (s : State) {rd r : Nat} (v : Word) (hr : r < 32) :
    (s.wrote rd v).xr r = if r = 0 then 0 else if r = rd then v else s.xr r := by
  by_cases z : r = 0
  · simp [xr, z]
  · rw [xr, if_neg z, if_neg z, me_wrote, Hart.x_retired, Hart.getElem?_x_writes _ _ hr z]
    by_cases e : r = rd <;> simp [xr, e, z]

theorem me_raises (s : State) (cause : Nat) (tval : Word) : (s.raises cause tval).me =
    s.me.enters (BitVec.ofNat 64 cause) (s.me.pc &&& ~~~(3 : Word)) tval (s.me.csr.mtvec &&& ~~~(3 : Word)) := me_setHart s _

theorem raises_frame (s : State) (cause : Nat) (tval : Word) :
    s.raises cause tval = { s with harts := (s.raises cause tval).harts, resvs := (s.raises cause tval).resvs } := rfl

theorem getHart_raises_of_ne {s : State} {k : HartId} (n : k ≠ s.cur) (cause : Nat) (tval : Word) :
    (s.raises cause tval).getHart k = s.getHart k := getHart_setHart_of_ne n ..

/-- A trap drops the hart's own reservation and no other (R59). -/
theorem mem_resvs_raises (s : State) (cause : Nat) (tval : Word) (r : HartId × Nat × Bool) :
    r ∈ (s.raises cause tval).resvs ↔ r ∈ s.resvs ∧ r.1 ≠ s.who := by simp [raises]

end State

/-- Settles O60: what the hart keeps when it completes or traps, and the states that differ from the one before in that hart alone. -/
theorem completionFrame : Obligations.CompletionFrame := by
  intro s rd cause v tval t u m
  have ht : t.me = (s.me.writes rd v).retired (s.me.pc + 4) := s.me_wrote rd v
  have hu := s.me_raises cause tval
  refine ⟨s.completes_frame .., fun k n => State.getHart_completes_of_ne n .., rfl, fun r hr => s.xr_wrote v hr, ?_, ?_, ?_,
    s.raises_frame .., fun k n => State.getHart_raises_of_ne n .., s.mem_resvs_raises cause tval, ?_, ?_, ?_, ?_, ?_⟩
  · rw [ht, Hart.retired_frame, Hart.writes_frame]
  · rw [ht, Hart.csr_retired, Hart.csr_writes]
  · intro l
    simpa [ht] using Hart.retired_of_noLoop (h := s.me.writes rd v) (by simpa using l) (s.me.pc + 4)
  · rw [hu]; rfl
  · rw [hu]; rfl
  · rw [hu]; exact entryStatus_mpie ..
  · rw [hu]; exact entryStatus_mie ..
  · rw [hu]; exact entryStatus_mpp ..

end Sys2Proof.Machine
end

section
/-!
### CSR instructions read and write, or are illegal (O9)

All six forms are one operation, `State.csrOp`: it completes if the access is legal and raises cause 2 if not. Which accesses are legal
follows from the numbers in `csrTable`, sorted here as the rules sort them: by mode (R11, R12) and by whether they may be written.
-/
namespace Sys2Proof.Machine

/-! #### The CSRs by mode, and the read-only ones -/

section
variable {κ α : Type} [DecidableEq κ] {k : κ} {l : List (κ × α)}

theorem mem_of_lookup {v : α} (h : lookup k l = some v) : (k, v) ∈ l := by
  induction l with
  | nil => exact nomatch h
  | cons p l ih =>
    obtain ⟨k', v'⟩ := p
    unfold lookup at h
    split at h
    · next e => cases h; exact e ▸ List.mem_cons_self
    · exact List.mem_cons_of_mem _ (ih h)

theorem notMem_of_lookup (h : lookup k l = none) : ∀ p ∈ l, p.1 ≠ k := by
  induction l with
  | nil => exact nofun
  | cons p l ih =>
    unfold lookup at h
    split at h
    · exact nomatch h
    · next n => exact List.forall_mem_cons.2 ⟨n, ih h⟩

end

/-- The CSRs that only M mode may access (R11, R12). -/
def machineCsrs : List Nat :=
  [0x300, 0x301, 0x304, 0x305, 0x306, 0x340, 0x341, 0x342, 0x343, 0x344, 0xB00, 0xB02, 0xF11, 0xF12, 0xF13, 0xF14,
    0x7C0, 0x7C1, 0x7C2, 0x7C3, 0x7C4]

/-- The CSRs that either mode may access. -/
def userCsrs : List Nat := (List.range 16).map (0x800 + ·) ++ (List.range 10).map (0xCC0 + ·) ++ [0xC00, 0xC02]

/-- The CSRs that may only be read. -/
def readOnlyCsrs : List Nat := (List.range 10).map (0xCC0 + ·) ++ [0x344, 0xC00, 0xC02, 0xF11, 0xF12, 0xF13, 0xF14, 0x7C1, 0x7C2, 0x7C4]

/-- A row of the table is marked as the lists have its number. -/
theorem csrTable_marks : ∀ p ∈ csrTable, (p.2.1 = true ↔ p.1 ∈ machineCsrs) ∧ (p.2.1 = false ↔ p.1 ∈ userCsrs) ∧
    (p.2.2 = true ↔ p.1 ∈ readOnlyCsrs) := by decide

theorem csrTable_complete : ∀ n ∈ machineCsrs ++ userCsrs, ∃ p ∈ csrTable, p.1 = n := by decide

namespace State

/-- The counter of this number is switched off for U mode (R11). -/
def CounterOff (s : State) (n : Nat) : Prop :=
  (n = 0xC00 ∧ wbit s.me.csr.mcounteren 0 = false) ∨ (n = 0xC02 ∧ wbit s.me.csr.mcounteren 2 = false)

theorem counterOff_iff (s : State) (n : Nat) :
    ((n != 0xC00 || wbit s.me.csr.mcounteren 0) && (n != 0xC02 || wbit s.me.csr.mcounteren 2)) = false ↔ s.CounterOff n := by
  rw [Bool.and_eq_false_iff, Bool.or_eq_false_iff, Bool.or_eq_false_iff, bne_eq_false_iff_eq, bne_eq_false_iff_eq]
  rfl

/-- The current hart may not read a CSR of this number (R11). -/
def Unreadable (s : State) (n : Nat) : Prop :=
  (n ∉ machineCsrs ∧ n ∉ userCsrs) ∨ (s.me.mode = .u ∧ (n ∈ machineCsrs ∨ s.CounterOff n))

/-- An access is illegal if it may not read the CSR, or writes one that may only be read. -/
theorem csrLegal_eq_false_iff (s : State) (n : Nat) (writes : Bool) :
    s.csrLegal n writes = false ↔ s.Unreadable n ∨ (writes = true ∧ n ∈ readOnlyCsrs) := by
  cases h : lookup n csrTable with
  | none =>
    have out : n ∉ machineCsrs ++ userCsrs := fun hn =>
      let ⟨p, hp, e⟩ := csrTable_complete n hn
      notMem_of_lookup h p hp e
    simp only [List.mem_append, not_or] at out
    simp [csrLegal, h, Unreadable, out]
  | some row =>
    obtain ⟨machine, readOnly⟩ := row
    obtain ⟨hm, hu, hr⟩ := csrTable_marks _ (mem_of_lookup h)
    simp only [csrLegal, h, Unreadable, ← hm, ← hu, ← hr, ← counterOff_iff]
    cases s.me.mode with
    | m => cases machine <;> simp [and_comm]
    | u =>
      cases machine with
      | true => simp
      | false => simp [-Bool.and_eq_false_imp, Bool.and_eq_false_iff, and_comm, or_comm]

theorem csrLegal_read_iff (s : State) (n : Nat) : s.csrLegal n false = false ↔ s.Unreadable n := by simp [csrLegal_eq_false_iff]

theorem csrLegal_write_iff (s : State) (n : Nat) : s.csrLegal n true = false ↔ s.Unreadable n ∨ n ∈ readOnlyCsrs := by
  simp [csrLegal_eq_false_iff]

end State

/-! #### The six forms (R65): each is `csrOp`, with or without a write -/

section
variable {rs1 u : Nat} (rd n : Nat) (s : State)

theorem exec_csrrw : exec (.csrrw rd n rs1) s = .next (s.csrOp (.csrrw rd n rs1) rd n true fun _ => s.xr rs1) := rfl

theorem exec_csrrwi : exec (.csrrwi rd n u) s = .next (s.csrOp (.csrrwi rd n u) rd n true fun _ => BitVec.ofNat 64 u) := rfl

theorem exec_csrrs_of_ne (h : rs1 ≠ 0) :
    exec (.csrrs rd n rs1) s = .next (s.csrOp (.csrrs rd n rs1) rd n true fun old => old ||| s.xr rs1) := bne_iff_ne.2 h ▸ rfl

theorem exec_csrrc_of_ne (h : rs1 ≠ 0) :
    exec (.csrrc rd n rs1) s = .next (s.csrOp (.csrrc rd n rs1) rd n true fun old => old &&& ~~~(s.xr rs1)) := bne_iff_ne.2 h ▸ rfl

theorem exec_csrrsi_of_ne (h : u ≠ 0) :
    exec (.csrrsi rd n u) s = .next (s.csrOp (.csrrsi rd n u) rd n true fun old => old ||| BitVec.ofNat 64 u) := bne_iff_ne.2 h ▸ rfl

theorem exec_csrrci_of_ne (h : u ≠ 0) :
    exec (.csrrci rd n u) s = .next (s.csrOp (.csrrci rd n u) rd n true fun old => old &&& ~~~(BitVec.ofNat 64 u)) := bne_iff_ne.2 h ▸ rfl

theorem exec_csrrs_zero : exec (.csrrs rd n 0) s = .next (s.csrOp (.csrrs rd n 0) rd n false fun old => old ||| s.xr 0) := rfl

theorem exec_csrrc_zero : exec (.csrrc rd n 0) s = .next (s.csrOp (.csrrc rd n 0) rd n false fun old => old &&& ~~~(s.xr 0)) := rfl

theorem exec_csrrsi_zero : exec (.csrrsi rd n 0) s = .next (s.csrOp (.csrrsi rd n 0) rd n false fun old => old ||| BitVec.ofNat 64 0) := rfl

theorem exec_csrrci_zero : exec (.csrrci rd n 0) s = .next (s.csrOp (.csrrci rd n 0) rd n false fun old => old &&& ~~~(BitVec.ofNat 64 0)) := rfl

end

/-! #### What an instruction of one of the forms does -/

section
variable {i : Instr} {s : State} {rd n : Nat} {new : Word → Word}

/-- A form that writes, where it may, returns the old value and leaves the new one. -/
theorem exec_of_csrWrite {v : Word} (form : exec i s = .next (s.csrOp i rd n true new)) (legal : s.csrLegal n true = true)
    (value : new (s.csrGet s.cur n) = v) : exec i s = .next ((s.csrSet s.cur n v).wrote rd (s.csrGet s.cur n)) := by
  rw [form, State.csrOp, if_pos legal, ← value]
  exact congrArg _ (State.finish_eq ..)

/-- A form that only reads, where it may, returns the value. -/
theorem exec_of_csrRead (form : exec i s = .next (s.csrOp i rd n false new)) (legal : s.csrLegal n false = true) :
    exec i s = .next (s.wrote rd (s.csrGet s.cur n)) := by
  rw [form, State.csrOp, if_pos legal]
  exact congrArg _ (State.finish_eq ..)

/-- Either form, where it may not make its access, raises an illegal-instruction exception (R51). -/
theorem exec_of_csrIllegal {writes : Bool} (path : s.me.spec = none) (form : exec i s = .next (s.csrOp i rd n writes new))
    (illegal : s.csrLegal n writes = false) : exec i s = .next (s.raises 2 (BitVec.ofNat 64 ((encode i).getD 0))) := by
  rw [form, State.csrOp, illegal, if_neg Bool.false_ne_true]
  exact congrArg _ (State.trap_eq path ..)

end

/-- Settles O9: the forms of R65 are `csrOp`, and `csrLegal` refuses the accesses that R11 lists. -/
theorem csrAccesses : Obligations.CsrAccesses := by
  refine ⟨fun rd n rs1 u s => ⟨fun legal => ?_, fun legal => ?_⟩, fun rd n rs1 u s path =>
    ⟨s.csrLegal_read_iff n, s.csrLegal_write_iff n, fun unwritable => ?_, fun unreadable => ?_⟩⟩
  · exact ⟨exec_of_csrWrite (exec_csrrw rd n s) legal rfl, exec_of_csrWrite (exec_csrrwi rd n s) legal rfl,
      fun h => ⟨exec_of_csrWrite (exec_csrrs_of_ne rd n s h) legal rfl, exec_of_csrWrite (exec_csrrc_of_ne rd n s h) legal rfl⟩,
      fun h => ⟨exec_of_csrWrite (exec_csrrsi_of_ne rd n s h) legal rfl, exec_of_csrWrite (exec_csrrci_of_ne rd n s h) legal rfl⟩⟩
  · exact ⟨exec_of_csrRead (exec_csrrs_zero rd n s) legal, exec_of_csrRead (exec_csrrc_zero rd n s) legal,
      exec_of_csrRead (exec_csrrsi_zero rd n s) legal, exec_of_csrRead (exec_csrrci_zero rd n s) legal⟩
  · have illegal := (s.csrLegal_write_iff n).2 unwritable
    exact ⟨exec_of_csrIllegal path (exec_csrrw rd n s) illegal, exec_of_csrIllegal path (exec_csrrwi rd n s) illegal,
      fun h => ⟨exec_of_csrIllegal path (exec_csrrs_of_ne rd n s h) illegal, exec_of_csrIllegal path (exec_csrrc_of_ne rd n s h) illegal⟩,
      fun h => ⟨exec_of_csrIllegal path (exec_csrrsi_of_ne rd n s h) illegal, exec_of_csrIllegal path (exec_csrrci_of_ne rd n s h) illegal⟩⟩
  · have illegal := (s.csrLegal_read_iff n).2 unreadable
    exact ⟨exec_of_csrIllegal path (exec_csrrs_zero rd n s) illegal, exec_of_csrIllegal path (exec_csrrc_zero rd n s) illegal,
      exec_of_csrIllegal path (exec_csrrsi_zero rd n s) illegal, exec_of_csrIllegal path (exec_csrrci_zero rd n s) illegal⟩

end Sys2Proof.Machine
end

section
/-!
### What a write of a CSR leaves in it (O10)

Each CSR of a hart reads back as the value that `csrSet` stores, of which the masks of R11 and R12 say what they keep. A write of dbg.ctl
stores `dbgWritten`, and only a resume then changes it further (R286).
-/
namespace Sys2Proof.Machine
namespace State

/-- A CSR of a hart, read after a change of its CSRs. -/
theorem csr_updCsr (s : State) (h : HartId) (f : HartCsrs → HartCsrs) (field : HartCsrs → Word) :
    field ((s.updCsr h f).getHart h).csr = field (f (s.getHart h).csr) := by rw [updCsr, getHart_updHart]

theorem capin_updCtx (s : State) (c : CellId) (f : CellCtx → CellCtx) : ((s.updCtx c f).getCell c).ctx.capin = (f (s.getCell c).ctx).capin := by
  rw [updCtx, getCell_updCell]

/-! #### The values that R11 and R12 make legal -/

/-- mstatus.MPP is stored as 11 only if both of its bits are written. -/
theorem mstatusOf_eq (v : Word) : mstatusOf v = BitVec.ofNat 64 ((if v.getLsbD 3 then 8 else 0) + (if v.getLsbD 7 then 0x80 else 0) +
    (if v.getLsbD 11 && v.getLsbD 12 then 0x1800 else 0)) := by
  rw [mstatusOf, fld_bit, fld_bit, fld_succ, fld_bit]
  cases v.getLsbD 3 <;> cases v.getLsbD 7 <;> cases v.getLsbD 11 <;> cases v.getLsbD 12 <;> rfl

/-- MODE 2 and 3 of mtvec are those with its bit 1 set. -/
theorem mtvecOf_eq (v : Word) : mtvecOf v = if v.getLsbD 1 then v &&& ~~~(3 : Word) else v := by
  rw [mtvecOf, fld_succ, fld_bit]
  cases v.getLsbD 0 <;> cases v.getLsbD 1 <;> rfl

theorem fld_msScopeOf (old v : Word) : fld (msScopeOf old v) 0 3 = (if 5 ≤ fld v 0 3 then fld old 0 3 else fld v 0 3) ∧
    fld (msScopeOf old v) 8 8 = fld v 8 8 ∧ fld (msScopeOf old v) 3 5 = 0 ∧ fld (msScopeOf old v) 16 48 = 0 := by
  have grp := fld_lt v 8 8
  have scope : (if 5 ≤ fld v 0 3 then fld old 0 3 else fld v 0 3) < 8 := by
    split
    · exact fld_lt ..
    · exact fld_lt ..
  rw [msScopeOf]
  generalize fld v 8 8 = g at *
  generalize (if 5 ≤ fld v 0 3 then fld old 0 3 else fld v 0 3) = m at *
  simp only [fld, bitsOf, BitVec.toNat_ofNat]
  omega

/-! #### dbg.ctl (R286) -/

/-- dbg.ctl with IMM, EBRK and SEL of a written value, but for a SEL of 24 to 31. -/
def dbgWritten (d v : Word) : Word :=
  if fld v 8 5 < 24 then setFld (setFld (setFld d 1 1 (fld v 1 1)) 3 1 (fld v 3 1)) 8 5 (fld v 8 5)
  else setFld (setFld d 1 1 (fld v 1 1)) 3 1 (fld v 3 1)

/-- Outside of SEL, bits 1 and 3 are written and the others stay. -/
theorem getLsbD_dbgWritten (d v : Word) {i : Nat} (h : i < 8 ∨ 13 ≤ i) :
    (dbgWritten d v).getLsbD i = if i = 1 ∨ i = 3 then v.getLsbD i else d.getLsbD i := by
  have sel : (dbgWritten d v).getLsbD i = (setFld (setFld d 1 1 (fld v 1 1)) 3 1 (fld v 3 1)).getLsbD i := by
    unfold dbgWritten
    split
    · rw [getLsbD_setFld, if_neg (by omega)]
    · rfl
  rw [sel, getLsbD_setFld_fld, getLsbD_setFld_fld]
  by_cases h3 : i = 3
  · subst h3; rfl
  by_cases h1 : i = 1
  · subst h1; rfl
  rw [if_neg (by omega), if_neg (by omega), if_neg (by omega)]

theorem fld_sel_dbgWritten (d v : Word) : fld (dbgWritten d v) 8 5 = if fld v 8 5 < 24 then fld v 8 5 else fld d 8 5 := by
  unfold dbgWritten
  split
  · rw [fld_setFld_same _ _ (by decide), Nat.mod_eq_of_lt (fld_lt v 8 5)]
  · rw [fld_setFld_apart _ _ (by decide), fld_setFld_apart _ _ (by decide)]

@[simp] theorem getCell_pushOnce (s : State) (e : Event) (c : CellId) : (s.pushOnce e).getCell c = s.getCell c := by
  unfold pushOnce
  split <;> rfl

@[simp] theorem dbg_askHalt (s : State) (c : CellId) (k : Nat) : ((s.askHalt c k).getCell c).dbg = (s.getCell c).dbg := by
  unfold askHalt
  split <;> simp

theorem haltCause_askHalt {s : State} {c : CellId} (run : wbit (s.getCell c).dbg 17 = false) (free : (s.getCell c).haltCause = 0) (k : Nat) :
    ((s.askHalt c k).getCell c).haltCause = k := by
  rw [askHalt, run, free, if_neg (by decide), getCell_pushOnce, getCell_updCell]

/-- A cell whose dbg.ctl has been written, before RESUME and STEP act: its fields are stored, and HREQ has asked for a halt. -/
def dbgAsked (s : State) (c : CellId) (v : Word) : State :=
  let t := s.updCell c fun x => { x with dbg := dbgWritten x.dbg v }
  if wbit v 0 then t.askHalt c 1 else t

theorem dbgStore_eq (s : State) (c : CellId) (v : Word) : s.dbgStore c v =
    if wbit (s.getCell c).dbg 17 && wbit v 2 then (s.dbgAsked c v).resumeCell c
    else if wbit (s.getCell c).dbg 17 && wbit v 4 then (s.dbgAsked c v).updCell c fun x => { x with stepping := true }
    else s.dbgAsked c v := rfl

@[simp] theorem dbg_dbgAsked (s : State) (c : CellId) (v : Word) : ((s.dbgAsked c v).getCell c).dbg = dbgWritten (s.getCell c).dbg v := by
  unfold dbgAsked
  split <;> simp

/-- What a write of dbg.ctl leaves in the cell's register. -/
theorem dbg_dbgStore (s : State) (c : CellId) (v : Word) : ((s.dbgStore c v).getCell c).dbg =
    if wbit (s.getCell c).dbg 17 && wbit v 2 then setFld (setFld (dbgWritten (s.getCell c).dbg v) 17 1 0) 20 3 0
    else dbgWritten (s.getCell c).dbg v := by
  rw [dbgStore_eq]
  split
  · simp [resumeCell]
  · split <;> simp

/-- A write of HREQ to a cell that is not halted, and is not asked to halt yet, asks it to. -/
theorem haltCause_dbgStore {s : State} {c : CellId} {v : Word} (run : wbit (s.getCell c).dbg 17 = false) (ask : wbit v 0 = true)
    (free : (s.getCell c).haltCause = 0) : ((s.dbgStore c v).getCell c).haltCause = 1 := by
  rw [dbgStore_eq, run, Bool.false_and, if_neg Bool.false_ne_true, Bool.false_and, if_neg Bool.false_ne_true, dbgAsked, ask, if_pos rfl]
  refine haltCause_askHalt ?_ ?_ 1
  · rw [getCell_updCell]
    exact (getLsbD_dbgWritten _ _ (by decide)).trans run
  · rw [getCell_updCell]
    exact free

/-- PEND is the only field of dbg.ctl that is not in the cell's register (R286). -/
theorem getLsbD_dbgRead (s : State) (c : CellId) {i : Nat} (h : i < 24) : (s.dbgRead c).getLsbD i = (s.getCell c).dbg.getLsbD i := by
  rw [dbgRead, getLsbD_setFld, if_neg (by omega)]

/-- The bits below PEND that a resume leaves, after a write. -/
theorem getLsbD_dbgRead_dbgStore (s : State) (c : CellId) (v : Word) {i : Nat} (h : i < 17) :
    ((s.dbgStore c v).dbgRead c).getLsbD i = (dbgWritten (s.getCell c).dbg v).getLsbD i := by
  rw [getLsbD_dbgRead _ _ (by omega), dbg_dbgStore]
  split
  · rw [getLsbD_setFld, if_neg (by omega), getLsbD_setFld, if_neg (by omega)]
  · rfl

/-- Below SEL, a write of dbg.ctl changes IMM and EBRK alone (R286). -/
theorem getLsbD_dbgRead_dbgStore_low (s : State) (c : CellId) (v : Word) {i : Nat} (h : i < 8) :
    ((s.dbgStore c v).dbgRead c).getLsbD i = if i = 1 ∨ i = 3 then v.getLsbD i else (s.dbgRead c).getLsbD i := by
  rw [getLsbD_dbgRead_dbgStore _ _ _ (by omega), getLsbD_dbgWritten _ _ (.inl h), getLsbD_dbgRead _ _ (by omega)]

/-- A write of dbg.ctl stores SEL, but for 24 to 31 (R286). -/
theorem fld_sel_dbgRead_dbgStore (s : State) (c : CellId) (v : Word) :
    fld ((s.dbgStore c v).dbgRead c) 8 5 = if fld v 8 5 < 24 then fld v 8 5 else fld (s.dbgRead c) 8 5 := by
  rw [fld_congr fun i hi => getLsbD_dbgRead_dbgStore s c v (show 8 + i < 17 by omega), fld_sel_dbgWritten,
    fld_congr fun i hi => getLsbD_dbgRead s c (show 8 + i < 24 by omega)]

/-- Bits of dbg.ctl that no write changes but by resuming. -/
theorem getLsbD_dbgRead_dbgStore_high (s : State) (c : CellId) (v : Word) (stay : wbit (s.getCell c).dbg 17 = false ∨ wbit v 2 = false) {i : Nat}
    (lo : 13 ≤ i) (hi : i < 24) : ((s.dbgStore c v).dbgRead c).getLsbD i = (s.dbgRead c).getLsbD i := by
  have noResume : ¬ ((wbit (s.getCell c).dbg 17 && wbit v 2) = true) := by
    rcases stay with h | h <;> simp [h]
  rw [getLsbD_dbgRead _ _ hi, getLsbD_dbgRead _ _ hi, dbg_dbgStore, if_neg noResume, getLsbD_dbgWritten _ _ (.inr lo), if_neg (by omega)]

end State

/-- Settles O10: the CSRs of the hart by the masks that `csrSet` stores through, and dbg.ctl by the bits that a write changes. -/
theorem csrFields : Obligations.CsrFields := by
  intro s h v after
  have row : ∀ (field : HartCsrs → Word) (f : HartCsrs → HartCsrs), field ((s.updCsr h f).getHart h).csr = field (f (s.getHart h).csr) :=
    fun field f => s.csr_updCsr h f field
  have all : v &&& wordOfInt (-1) = v := BitVec.and_allOnes
  obtain ⟨scope, grp, reserved, reserved'⟩ := State.fld_msScopeOf (s.getHart h).csr.msScope v
  have msScope : after 0x809 = State.msScopeOf (s.getHart h).csr.msScope v := row (·.msScope) _
  have low3 : fld v 0 3 = v.toNat % 8 := by simp [fld, bitsOf]
  refine ⟨?mstatus, rfl, ?machine, ?mtvec, ?low, ?efPtr, ?scopeKept, ?scopeTaken, ?grp, ?reserved, ?reserved', ?dbgCtl⟩
  case mstatus => exact (row (·.mstatus) _).trans (State.mstatusOf_eq v)
  case machine =>
    simp only [List.forall_mem_cons, List.not_mem_nil, false_implies, implies_true, and_true, all]
    exact ⟨row (·.mie) _, row (·.mcounteren) _, row (·.mscratch) _, row (·.mepc) _, row (·.mcause) _, row (·.mtval) _, row (·.mcycle) _,
      row (·.minstret) _⟩
  case mtvec => exact (row (·.mtvec) _).trans (State.mtvecOf_eq v)
  case low =>
    simp only [List.forall_mem_cons, List.not_mem_nil, false_implies, implies_true, and_true, ← State.low_eq_and]
    exact ⟨row (·.mxFmt) _, row (·.mxAexp) _, row (·.mxBexp) _, row (·.mxDrn) _, row (·.mxSticky) _, row (·.mxCapout) _, row (·.veRm) _,
      row (·.veAtol) _, row (·.veRtol) _, row (·.repState) _, row (·.cvScale) _, row (·.veS) _, row (·.veC) _, row (·.veFbase) _,
      (congrArg (BitVec.ofNat 64) (s.capin_updCtx h.cellId _)).trans (State.low_eq_fld 32 v).symm⟩
  case efPtr => exact row (·.efPtr) _
  case scopeKept =>
    intro big
    rw [msScope, scope, if_pos (by omega)]
    rfl
  case scopeTaken =>
    intro small
    rw [msScope, scope, if_neg (by omega), low3]
  case grp => rw [msScope, grp]
  case reserved => rw [msScope, reserved]
  case reserved' => rw [msScope, reserved']
  case dbgCtl =>
    intro c old halted
    have bit : ∀ i < 8, (after 0x7C3).getLsbD i = if i = 1 ∨ i = 3 then v.getLsbD i else old.getLsbD i :=
      fun i hi => s.getLsbD_dbgRead_dbgStore_low c v hi
    have status : halted = false ∨ v.getLsbD 2 = false → ∀ i, 13 ≤ i → i < 24 → (after 0x7C3).getLsbD i = old.getLsbD i :=
      fun stay i lo hi => s.getLsbD_dbgRead_dbgStore_high c v stay lo hi
    exact ⟨bit 1 (by decide), bit 3 (by decide), s.fld_sel_dbgRead_dbgStore c v, bit 0 (by decide), bit 2 (by decide), bit 4 (by decide),
      fun stay => ⟨status stay 17 (by decide) (by decide), fld_congr fun i hi => status stay (20 + i) (by omega) (by omega)⟩,
      fun run ask free => State.haltCause_dbgStore run ask free⟩

end Sys2Proof.Machine
end

section
/-!
### The machine after reset (O59)

Nothing is listed at reset, so every unit, and every hart and CSR of it, reads as its reset value.
-/
namespace Sys2Proof.Machine
namespace State

@[simp] theorem getHart_reset (h : HartId) : reset.getHart h = Hart.reset := rfl

@[simp] theorem getCell_reset (c : CellId) : reset.getCell c = Cell.reset := rfl

@[simp] theorem getDie_reset (d : DieId) : reset.getDie d = Die.reset d := rfl

@[simp] theorem getPkg_reset (p : Nat) : reset.getPkg p = Pkg.reset := rfl

theorem ops_reset : reset.ops = [] := rfl

/-- No interrupt is pending at reset (R276). -/
@[simp] theorem mipOf_reset (h : HartId) : reset.mipOf h = 0 := by
  simp [mipOf, Hart.reset, HartCsrs.reset, Cell.reset, CellCtx.reset]

/-- dbg.ctl reads 0 at reset: no transfer is under way (R286). -/
@[simp] theorem dbgRead_reset (c : CellId) : reset.dbgRead c = 0 := by
  simp [dbgRead, inbound, ops_reset, Cell.reset, CellCtx.reset, setFld]

end State

/-- A register of a hart at reset reads as zero (R10). -/
theorem Hart.x_reset {r : Nat} (hr : r < 32) : Hart.reset.x[r]? = some 0 := by simp [Hart.reset, hr]

theorem Hart.h_reset {r : Nat} (hr : r < 16) : Hart.reset.h[r]? = some 0 := by simp [Hart.reset, hr]

/-- Settles O59: each clause reads a unit that is not listed. -/
theorem resetState : Obligations.ResetState := by
  refine ⟨State.wf_reset, fun _ => rfl, rfl, fun d => ⟨rfl, rfl, rfl, rfl, rfl, rfl, rfl, rfl⟩, fun p => ⟨rfl, rfl⟩, fun h =>
    ⟨rfl, rfl, rfl, rfl, fun r hr => Hart.x_reset hr, fun r hr => Hart.h_reset hr, ?_⟩⟩
  simp only [List.forall_mem_cons, List.not_mem_nil, false_implies, implies_true, and_true]
  simp [State.csrGet, Hart.reset, HartCsrs.reset, Cell.reset]

end Sys2Proof.Machine
end
